-- ==== Sys2Proof/Word.lean ====
section
/-! DEFINITION. The word types of the Pargila P9 (04 R81, 02 R33, 00 R4) and their plainest arithmetic. -/

namespace Sys2Proof

/-- A scalar register, an address or a CSR value (04 R81). -/
abbrev Word := BitVec 64

/-- One byte of memory. -/
abbrev Byte := BitVec 8

/-- A scalar register number, or a 5-bit field that names a vector group (02 R34, R36). -/
abbrev Reg := BitVec 5

/-- An instruction word (02 R33). -/
abbrev IWord := BitVec 32

end Sys2Proof
end

