-- ==== Sys2Proof/Payload.lean ====
section
/-! DEFINITION. Thread names, trap causes, and the data that the event rows of spec/opcode_table.json carry: what the host,
another device, the power controller or a failure brings to the module (log 1, log 10, log 13). -/

namespace Sys2Proof

/-- Which thread of a core: its taper or one of its eight wicks (04 R81). -/
inductive Who where
  | taper
  | wick (w : Fin 8)
  deriving DecidableEq, Repr

/-- A thread: the gang (by the model's own gang number), the core's index within the gang (01 R13) and the thread of that core. -/
structure Tid where
  gang : Nat
  core : Nat
  who : Who
  deriving DecidableEq, Repr

/-- Trap and fault causes (18 R382). -/
inductive Cause where
  | none | illegal | reservedField | misaligned | stage1 | stage2 | protection | tensorId | ownership
  | groupOverlap | race | poison | spillCheck | ecall | ebreak | watchdog | uncorrectable | linkLoss
  | doubleTrap | overTemperature
  deriving DecidableEq, Repr

/-- The 8-bit cause codes (18 R382). -/
def Cause.code : Cause → BitVec 8
  | .none => 0 | .illegal => 1 | .reservedField => 2 | .misaligned => 3 | .stage1 => 4 | .stage2 => 5
  | .protection => 6 | .tensorId => 7 | .ownership => 8 | .groupOverlap => 9 | .race => 10 | .poison => 11
  | .spillCheck => 12 | .ecall => 16 | .ebreak => 17 | .watchdog => 32 | .uncorrectable => 33
  | .linkLoss => 34 | .doubleTrap => 35 | .overTemperature => 36

/-- The kinds of a translated access, with the numbers of 09 R221 (09 R216). -/
inductive Kind where
  | read | write | rmw | fetch | prefetch | peer
  deriving DecidableEq, Repr

/-- The number of a kind in a fault record and in a page request (09 R221, 19 R404). -/
def Kind.num : Kind → Nat
  | .read => 0 | .write => 1 | .rmw => 2 | .fetch => 3 | .prefetch => 4 | .peer => 5

/-- The steps of the arithmetic clock (19 R414). -/
inductive ClockStep where
  | mhz1050 | mhz840 | mhz630 | mhz525
  deriving DecidableEq, Repr

/-- The sequence number and the handle that every host command carries, and whether the management processor finds its form right: an opcode
that exists and zeros in its reserved fields (19 R400, R403). -/
structure Cmd where
  seq : BitVec 32
  handle : Word
  formed : Bool := true
  deriving DecidableEq, Repr

/-- The decoded limits of a tenant policy, its version and its tenant's key; `verifies` is the outcome of the XMSS check of the
signature, which no rule of the manual lets the model compute (19 R401, log 10). -/
structure Policy where
  version : Nat
  key : Nat
  conf : Bool
  qmin : Nat
  pmin : Nat
  wmin : Nat
  pausemaxMs : Nat
  peers : List Nat
  cotenant : Bool
  fwmin : Nat
  hash : Nat
  verifies : Bool
  deriving DecidableEq, Repr

/-- A firmware image's manifest: the image's hash, its security version and the lowest boot ROM revision; `verifies` is the outcome of its
XMSS and hash check (19 R409, R410, log 10). -/
structure Firmware where
  version : Nat
  lowestRom : Nat
  verifies : Bool
  hash : Nat := 0
  deriving DecidableEq, Repr

/-- A landing flit that reaches this device from a sender: its tenant's key, whether the sender's domain names this device, the
destination, the flit's first byte in the landing group, how many bytes the SEND has from there on, and the flit's own bytes
(16 R353 to R355). -/
structure LandingFlit where
  senderKey : Nat
  sameDomain : Bool
  part : Nat
  tag : BitVec 16
  offset : Nat
  total : Nat
  bytes : List Byte
  deriving DecidableEq, Repr

/-- What a destination on another device answers to a flit of a SEND (16 R355, log 10). -/
inductive FlitAnswer where
  | accepted | refused | rangeExceeded | notPermitted
  deriving DecidableEq, Repr

/-- A flit on a Wapin port: the device that it goes to, its traffic class (a reply or a request), its virtual channel, its link sequence
number, the number up to which the neighbour acknowledges, whether its CRC and, for a confidential partition, its tag check, and its payload
(16 R358, R359, 19 R405). -/
structure LinkFlit where
  dest : Nat
  reply : Bool
  vc : Bool
  seq : Nat
  ack : Nat
  crcOk : Bool
  tagOk : Bool
  payload : List Byte
  deriving DecidableEq, Repr

/-- What the power controller reads, or foresees, for one step of the clock: the module's power averaged over 1 ms, the hottest junction, and
whether the coolant limit is met (19 R414). -/
structure Reading where
  watts : Nat
  celsius : Nat
  coolant : Bool
  deriving DecidableEq, Repr

/-- What the power controller chooses a step on: the hottest junction now, and its readings for each step, the highest first (19 R414). -/
structure Readings where
  celsius : Nat
  steps : List Reading
  deriving DecidableEq, Repr

/-- A lane of a port that fails: of the sending direction or of the receiving one (16 R359). -/
structure Lane where
  port : Fin 6
  tx : Bool
  deriving DecidableEq, Repr

/-- The storage structures whose errors are protected (18 R396). -/
inductive Storage where
  | hbm | l2Data | l2Tags | tensorTable | ownershipTables | watermarks | vectorRegs | accumulators | scalarSets | tlbs
  | caches | links
  deriving DecidableEq, Repr

/-- Where an error was corrected: the structure, the unit that has it, and which of its entries or lines (18 R396). -/
structure ErrorPlace where
  st : Storage
  unit : Nat
  k : Nat
  deriving DecidableEq, Repr

/-- A new partition layout: the quad map, the VF map, and per partition its peer-accept list and torus domain number
(17 R375). -/
structure LayoutTables where
  quadMap : List (Nat × Nat)
  vfMap : List (Nat × Nat)
  peerAccept : List (Nat × List Nat)
  domain : List (Nat × List Nat)
  deriving DecidableEq, Repr

/-- One stage-2 mapping of a page of 2^(12 + lgSize) bytes, with the attributes of its leaf, and the physical addresses of granules that
the command offers for new tables (09 R214, 19 R402; log 21). -/
structure Stage2Mapping where
  ipa : Nat
  pa : Nat
  lgSize : Nat
  r : Bool
  w : Bool
  x : Bool
  cmp : Bool
  ownIdeStream : Bool
  tables : List Nat
  deriving DecidableEq, Repr

end Sys2Proof
end

