-- ==== Sys2Proof/Syntax.lean ====
section
/-! DEFINITION. The instructions and events of spec/opcode_table.json, one constructor per row. The fields of an encoded row are
named as the table names them (bit fields of the one 32-bit word, 02 R33 to R40); an event row has no word and carries the data
that say which thread, unit or VF it happens to and what comes from outside the module (log 1, log 13). -/

namespace Sys2Proof

/-- One constructor per row of spec/opcode_table.json. -/
inductive Instr where
  /-- ADD (R90). Writes X[rs1] + X[rs2], modulo 2^64, to rd. -/
  | add (d : Reg) (s : Reg) (t : Reg)
  /-- SUB (R90). Writes X[rs1] - X[rs2], modulo 2^64, to rd. -/
  | sub (d : Reg) (s : Reg) (t : Reg)
  /-- AND (R90). Writes the bitwise AND of the two registers to rd. -/
  | and (d : Reg) (s : Reg) (t : Reg)
  /-- OR (R90). Writes the bitwise OR of the two registers to rd. -/
  | or (d : Reg) (s : Reg) (t : Reg)
  /-- XOR (R90). Writes the bitwise XOR of the two registers to rd. -/
  | xor (d : Reg) (s : Reg) (t : Reg)
  /-- SLL (R90). Shifts X[rs1] left by b[5:0]. -/
  | sll (d : Reg) (s : Reg) (t : Reg)
  /-- SRL (R90). Shifts X[rs1] right logically by b[5:0]. -/
  | srl (d : Reg) (s : Reg) (t : Reg)
  /-- SRA (R90). Shifts X[rs1] right arithmetically by b[5:0]. -/
  | sra (d : Reg) (s : Reg) (t : Reg)
  /-- SLT (R90). Writes 1 to rd when a < b signed, else 0. -/
  | slt (d : Reg) (s : Reg) (t : Reg)
  /-- SLTU (R90). Writes 1 to rd when a < b unsigned, else 0. -/
  | sltu (d : Reg) (s : Reg) (t : Reg)
  /-- MIN (R90). Writes the signed minimum to rd. -/
  | min (d : Reg) (s : Reg) (t : Reg)
  /-- MAX (R90). Writes the signed maximum to rd. -/
  | max (d : Reg) (s : Reg) (t : Reg)
  /-- MINU (R90). Writes the unsigned minimum to rd. -/
  | minu (d : Reg) (s : Reg) (t : Reg)
  /-- MAXU (R90). Writes the unsigned maximum to rd. -/
  | maxu (d : Reg) (s : Reg) (t : Reg)
  /-- MUL (R90). Writes bits 63:0 of a × b to rd. -/
  | mul (d : Reg) (s : Reg) (t : Reg)
  /-- MULH (R90). Writes bits 127:64 of the signed product to rd. -/
  | mulh (d : Reg) (s : Reg) (t : Reg)
  /-- MULHU (R90). Writes bits 127:64 of the unsigned product to rd. -/
  | mulhu (d : Reg) (s : Reg) (t : Reg)
  /-- DIV (R91). Writes the signed quotient to rd, saturating instead of trapping. -/
  | div (d : Reg) (s : Reg) (t : Reg)
  /-- DIVU (R91). Writes the unsigned quotient to rd, saturating on a zero divisor. -/
  | divu (d : Reg) (s : Reg) (t : Reg)
  /-- REM (R91). Writes the signed remainder to rd. -/
  | rem (d : Reg) (s : Reg) (t : Reg)
  /-- REMU (R91). Writes the unsigned remainder to rd. -/
  | remu (d : Reg) (s : Reg) (t : Reg)
  /-- CLZ (R90). Writes the count of leading zero bits of X[rs1] to rd. -/
  | clz (d : Reg) (s : Reg)
  /-- CTZ (R90). Writes the count of trailing zero bits of X[rs1] to rd. -/
  | ctz (d : Reg) (s : Reg)
  /-- CPOP (R90). Writes the count of one bits of X[rs1] to rd. -/
  | cpop (d : Reg) (s : Reg)
  /-- SLLI (R92). Shifts X[rs1] left by a constant 0 to 63. -/
  | slli (d : Reg) (s : Reg) (h : Reg) (g : BitVec 1)
  /-- SRLI (R92). Shifts X[rs1] right logically by a constant 0 to 63. -/
  | srli (d : Reg) (s : Reg) (h : Reg) (g : BitVec 1)
  /-- SRAI (R92). Shifts X[rs1] right arithmetically by a constant 0 to 63. -/
  | srai (d : Reg) (s : Reg) (h : Reg) (g : BitVec 1)
  /-- ADDI (R93). Adds the sign-extended immediate to X[rs1]; ADDI x0, x0 forms NOP and hints. -/
  | addi (d : Reg) (s : Reg) (i : BitVec 16)
  /-- ANDI (R93). ANDs X[rs1] with the zero-extended immediate. -/
  | andi (d : Reg) (s : Reg) (i : BitVec 16)
  /-- ORI (R93). ORs X[rs1] with the zero-extended immediate. -/
  | ori (d : Reg) (s : Reg) (i : BitVec 16)
  /-- XORI (R93). XORs X[rs1] with the zero-extended immediate. -/
  | xori (d : Reg) (s : Reg) (i : BitVec 16)
  /-- SLTI (R93). Writes 1 when X[rs1] is below the immediate, signed. -/
  | slti (d : Reg) (s : Reg) (i : BitVec 16)
  /-- SLTIU (R93). Writes 1 when X[rs1] is below the sign-extended immediate, unsigned. -/
  | sltiu (d : Reg) (s : Reg) (i : BitVec 16)
  /-- LUI (R93). Writes SignExt(imm21 × 65,536) to rd. -/
  | lui (d : Reg) (i : BitVec 21)
  /-- AUIPC (R93). Writes PC plus SignExt(imm21 × 65,536) to rd. -/
  | auipc (d : Reg) (i : BitVec 21)
  /-- JAL (R95). Writes PC + 4 to rd and jumps PC-relative; traps illegal in a block-driven wick. -/
  | jal (d : Reg) (o : BitVec 21)
  /-- JALR (R95). Jumps to X[rs1] + imm and writes PC + 4 to rd; traps when the target is misaligned. -/
  | jalr (d : Reg) (s : Reg) (i : BitVec 16)
  /-- BEQ (R94). Branches when the two registers are equal. -/
  | beq (s : Reg) (t : Reg) (o : BitVec 16)
  /-- BNE (R94). Branches when the two registers differ. -/
  | bne (s : Reg) (t : Reg) (o : BitVec 16)
  /-- BLT (R94). Branches when X[rs1] is below X[rs2], signed. -/
  | blt (s : Reg) (t : Reg) (o : BitVec 16)
  /-- BGE (R94). Branches when X[rs1] is at or above X[rs2], signed. -/
  | bge (s : Reg) (t : Reg) (o : BitVec 16)
  /-- BLTU (R94). Branches when X[rs1] is below X[rs2], unsigned. -/
  | bltu (s : Reg) (t : Reg) (o : BitVec 16)
  /-- BGEU (R94). Branches when X[rs1] is at or above X[rs2], unsigned. -/
  | bgeu (s : Reg) (t : Reg) (o : BitVec 16)
  /-- LB (R97). Loads a byte, sign-extended. -/
  | lb (d : Reg) (s : Reg) (i : BitVec 16)
  /-- LBU (R97). Loads a byte, zero-extended. -/
  | lbu (d : Reg) (s : Reg) (i : BitVec 16)
  /-- LH (R97). Loads a halfword, sign-extended. -/
  | lh (d : Reg) (s : Reg) (i : BitVec 16)
  /-- LHU (R97). Loads a halfword, zero-extended. -/
  | lhu (d : Reg) (s : Reg) (i : BitVec 16)
  /-- LW (R97). Loads a word, sign-extended. -/
  | lw (d : Reg) (s : Reg) (i : BitVec 16)
  /-- LWU (R97). Loads a word, zero-extended. -/
  | lwu (d : Reg) (s : Reg) (i : BitVec 16)
  /-- LD (R97). Loads a doubleword. -/
  | ld (d : Reg) (s : Reg) (i : BitVec 16)
  /-- SB (R97). Stores the low byte of the data register. -/
  | sb (t : Reg) (s : Reg) (i : BitVec 16)
  /-- SH (R97). Stores the low halfword of the data register. -/
  | sh (t : Reg) (s : Reg) (i : BitVec 16)
  /-- SW (R97). Stores the low word of the data register. -/
  | sw (t : Reg) (s : Reg) (i : BitVec 16)
  /-- SD (R97). Stores the data register as a doubleword. -/
  | sd (t : Reg) (s : Reg) (i : BitVec 16)
  /-- FADD (R102). Adds two FP32 values, rounded under the encoded mode. -/
  | fadd (d : Reg) (s : Reg) (t : Reg) (m : BitVec 3)
  /-- FSUB (R102). Subtracts two FP32 values. -/
  | fsub (d : Reg) (s : Reg) (t : Reg) (m : BitVec 3)
  /-- FMUL (R102). Multiplies two FP32 values. -/
  | fmul (d : Reg) (s : Reg) (t : Reg) (m : BitVec 3)
  /-- FDIV (R102). Divides two FP32 values. -/
  | fdiv (d : Reg) (s : Reg) (t : Reg) (m : BitVec 3)
  /-- FMA (R102). Computes a × b + X[rd] with one rounding. -/
  | fma (d : Reg) (s : Reg) (t : Reg) (m : BitVec 3)
  /-- FMIN (R103). Writes the lesser FP32 operand, with −0 below +0. -/
  | fmin (d : Reg) (s : Reg) (t : Reg)
  /-- FMAX (R103). Writes the greater FP32 operand. -/
  | fmax (d : Reg) (s : Reg) (t : Reg)
  /-- FCVT_W (R104). Converts FP32 to I32 with saturation, sign-extended. -/
  | fcvtW (d : Reg) (s : Reg) (m : BitVec 3)
  /-- FCVT_F (R104). Converts a signed 64-bit integer to FP32. -/
  | fcvtF (d : Reg) (s : Reg) (m : BitVec 3)
  /-- FCMP (R105). Writes 1 when the FP32 comparison holds. -/
  | fcmp (d : Reg) (s : Reg) (t : Reg) (c : BitVec 3)
  /-- AMOADD (R206). Atomically adds at the L2 and returns the old value. -/
  | amoadd (d : Reg) (s : Reg) (t : Reg) (c : BitVec 3) (q : BitVec 1) (r : BitVec 1) (w : BitVec 1)
  /-- AMOSWAP (R206). Atomically swaps at the L2 and returns the old value. -/
  | amoswap (d : Reg) (s : Reg) (t : Reg) (c : BitVec 3) (q : BitVec 1) (r : BitVec 1) (w : BitVec 1)
  /-- AMOAND (R206). Atomic bitwise AND. -/
  | amoand (d : Reg) (s : Reg) (t : Reg) (c : BitVec 3) (q : BitVec 1) (r : BitVec 1) (w : BitVec 1)
  /-- AMOOR (R206). Atomic bitwise OR. -/
  | amoor (d : Reg) (s : Reg) (t : Reg) (c : BitVec 3) (q : BitVec 1) (r : BitVec 1) (w : BitVec 1)
  /-- AMOXOR (R206). Atomic bitwise XOR. -/
  | amoxor (d : Reg) (s : Reg) (t : Reg) (c : BitVec 3) (q : BitVec 1) (r : BitVec 1) (w : BitVec 1)
  /-- AMOMIN (R206). Atomic signed minimum. -/
  | amomin (d : Reg) (s : Reg) (t : Reg) (c : BitVec 3) (q : BitVec 1) (r : BitVec 1) (w : BitVec 1)
  /-- AMOMAX (R206). Atomic signed maximum. -/
  | amomax (d : Reg) (s : Reg) (t : Reg) (c : BitVec 3) (q : BitVec 1) (r : BitVec 1) (w : BitVec 1)
  /-- AMOMINU (R206). Atomic unsigned minimum. -/
  | amominu (d : Reg) (s : Reg) (t : Reg) (c : BitVec 3) (q : BitVec 1) (r : BitVec 1) (w : BitVec 1)
  /-- AMOMAXU (R206). Atomic unsigned maximum. -/
  | amomaxu (d : Reg) (s : Reg) (t : Reg) (c : BitVec 3) (q : BitVec 1) (r : BitVec 1) (w : BitVec 1)
  /-- AMOCAS (R206). Atomic compare-and-swap against X[rd]. -/
  | amocas (d : Reg) (s : Reg) (t : Reg) (c : BitVec 3) (q : BitVec 1) (r : BitVec 1) (w : BitVec 1)
  /-- AMOFADD (R206). Atomic FP32 add under RNE at the L2. -/
  | amofadd (d : Reg) (s : Reg) (t : Reg) (c : BitVec 3) (q : BitVec 1) (r : BitVec 1)
  /-- LDA (R207). Acquire load performed at the L2; invalidates the scalar data cache. -/
  | lda (d : Reg) (s : Reg) (c : BitVec 3) (w : BitVec 1)
  /-- STL (R207). Release store performed at the L2. -/
  | stl (s : Reg) (t : Reg) (c : BitVec 3) (w : BitVec 1)
  /-- CSRR (R87). Reads a CSR into rd, with its read side effects. -/
  | csrr (d : Reg) (c : BitVec 12)
  /-- CSRW (R87). Reads the CSR into rd and writes X[rs1] to it. -/
  | csrw (d : Reg) (s : Reg) (c : BitVec 12)
  /-- CSRS (R87). Reads the CSR and writes old OR X[rs1]. -/
  | csrs (d : Reg) (s : Reg) (c : BitVec 12)
  /-- CSRC (R87). Reads the CSR and writes old AND NOT X[rs1]. -/
  | csrc (d : Reg) (s : Reg) (c : BitVec 12)
  /-- CSRW_IMM (R87). Reads the CSR and writes the zero-extended uimm5. -/
  | csrwImm (d : Reg) (u : Reg) (c : BitVec 12)
  /-- CSRS_IMM (R87). Reads the CSR and ORs in the uimm5. -/
  | csrsImm (d : Reg) (u : Reg) (c : BitVec 12)
  /-- CSRC_IMM (R87). Reads the CSR and clears the uimm5 bits. -/
  | csrcImm (d : Reg) (u : Reg) (c : BitVec 12)
  /-- BCAST (R118). Fetches the next one to eight words and places them as a block in the broadcast window for the masked wicks. -/
  | bcast (s : Reg) (n : BitVec 3) (m : BitVec 8)
  /-- BFETCH (R119). Puts the wick into free-running at X[rs1] + off. -/
  | bfetch (s : Reg) (o : BitVec 12)
  /-- STOP (R120). Waits for the wick's earlier instructions, records the stopcode and raises a STOP event. -/
  | stop (c : BitVec 8)
  /-- WJOIN (R121). The taper waits for quiescence of the masked wicks. -/
  | wjoin (d : Reg) (s : Reg) (m : BitVec 8)
  /-- XLINK (R122). A wick reads a scalar register of wick (w + 1) mod 8. -/
  | xlink (d : Reg) (s : Reg)
  /-- XLINK_TAPER (R122). The taper reads a scalar register of wick w. -/
  | xlinkTaper (d : Reg) (s : Reg) (w : BitVec 3)
  /-- XLINK_V (R122). Copies a whole vector row from the linked wick. -/
  | xlinkV (d : Reg) (s : Reg)
  /-- WSTAT (R124). Reads wick status or the summary, optionally clearing stop-pending bits. -/
  | wstat (d : Reg) (c : BitVec 1) (s : BitVec 4)
  /-- STRIP (R147). Advances the named address pointers past the ended strip and grants the next vl. -/
  | strip (d : Reg) (s : Reg) (a : BitVec 4)
  /-- STRIP_W (R148). Waits until a watermark slot reaches the strip's upper bound, then grants the strip. -/
  | stripW (d : Reg) (s : Reg) (v : BitVec 1) (w : BitVec 12)
  /-- VSETT (R149). Sets vtype, vrows and vl. -/
  | vsett (d : Reg) (s : Reg) (g : BitVec 2) (a : BitVec 1) (m : BitVec 3) (e : BitVec 3)
  /-- VSETT_AP (R150). Swaps an address pointer register with X[rs1]. -/
  | vsettAp (d : Reg) (s : Reg) (n : BitVec 2)
  /-- VMODE (R151). Drains the wick and toggles between standard and split mode. -/
  | vmode (d : Reg)
  /-- VLOOP (R152). Advances the pipelined-loop pass, rotation and stage predicates, and branches back. -/
  | vloop (o : BitVec 13)
  /-- VLD (R198). Unit-stride vector load with format conversion. -/
  | vld (d : Reg) (b : Reg) (f : Reg) (k : BitVec 3) (m : Reg)
  /-- VLDS (R198). Strided vector load. -/
  | vlds (d : Reg) (b : Reg) (f : Reg) (k : BitVec 3) (m : Reg)
  /-- VLDX (R198). Indexed vector gather. -/
  | vldx (d : Reg) (b : Reg) (f : Reg) (k : BitVec 3) (m : Reg)
  /-- VLDX_P (R200). Gathers from lantern windows of cores of the gang. -/
  | vldxP (d : Reg) (f : Reg) (k : BitVec 3) (m : Reg)
  /-- VLDSEG (R201). Loads records of nf fields into nf groups, optionally permuted. -/
  | vldseg (d : Reg) (b : Reg) (f : Reg) (n : BitVec 3) (m : Reg)
  /-- VLDFF (R199). Unit-stride load that stops without trapping at a later failing element. -/
  | vldff (d : Reg) (b : Reg) (k : BitVec 3) (m : Reg)
  /-- PREF_D (R204). Prefetches 256 B lines into the L2. -/
  | prefD (b : Reg) (f : Reg)
  /-- PREF_I (R204). Prefetches 64 B lines into the instruction cache and L2. -/
  | prefI (b : Reg) (f : Reg)
  /-- VST (R202). Unit-stride vector store with format conversion. -/
  | vst (d : Reg) (b : Reg) (f : Reg) (k : BitVec 3) (m : Reg)
  /-- VSTS (R202). Strided vector store. -/
  | vsts (d : Reg) (b : Reg) (f : Reg) (k : BitVec 3) (m : Reg)
  /-- VSTX (R202). Indexed vector scatter. -/
  | vstx (d : Reg) (b : Reg) (f : Reg) (k : BitVec 3) (m : Reg)
  /-- VSTSEG (R201). Stores nf groups as records of fields. -/
  | vstseg (d : Reg) (b : Reg) (f : Reg) (n : BitVec 3) (m : Reg)
  /-- VADD (R161). Vector integer add. -/
  | vadd (d : Reg) (a : Reg) (b : Reg) (m : BitVec 3) (k : BitVec 1)
  /-- VSUB (R161). Vector integer subtract. -/
  | vsub (d : Reg) (a : Reg) (b : Reg) (m : BitVec 3) (k : BitVec 1)
  /-- VRSUB (R161). Vector reverse subtract b − a. -/
  | vrsub (d : Reg) (a : Reg) (b : Reg) (m : BitVec 3) (k : BitVec 1)
  /-- VMUL (R161). Vector multiply, low bits. -/
  | vmul (d : Reg) (a : Reg) (b : Reg) (m : BitVec 3) (k : BitVec 1)
  /-- VMULH (R161). Vector multiply, high bits, signed. -/
  | vmulh (d : Reg) (a : Reg) (b : Reg) (m : BitVec 3) (k : BitVec 1)
  /-- VMULHU (R161). Vector multiply, high bits, unsigned. -/
  | vmulhu (d : Reg) (a : Reg) (b : Reg) (m : BitVec 3) (k : BitVec 1)
  /-- VDIV (R161). Vector signed division without traps. -/
  | vdiv (d : Reg) (a : Reg) (b : Reg) (m : BitVec 3) (k : BitVec 1)
  /-- VREM (R161). Vector signed remainder. -/
  | vrem (d : Reg) (a : Reg) (b : Reg) (m : BitVec 3) (k : BitVec 1)
  /-- VMIN (R161). Vector signed minimum. -/
  | vmin (d : Reg) (a : Reg) (b : Reg) (m : BitVec 3) (k : BitVec 1)
  /-- VMAX (R161). Vector signed maximum. -/
  | vmax (d : Reg) (a : Reg) (b : Reg) (m : BitVec 3) (k : BitVec 1)
  /-- VMINU (R161). Vector unsigned minimum. -/
  | vminu (d : Reg) (a : Reg) (b : Reg) (m : BitVec 3) (k : BitVec 1)
  /-- VMAXU (R161). Vector unsigned maximum. -/
  | vmaxu (d : Reg) (a : Reg) (b : Reg) (m : BitVec 3) (k : BitVec 1)
  /-- VAND (R161). Vector bitwise AND. -/
  | vand (d : Reg) (a : Reg) (b : Reg) (m : BitVec 3) (k : BitVec 1)
  /-- VOR (R161). Vector bitwise OR. -/
  | vor (d : Reg) (a : Reg) (b : Reg) (m : BitVec 3) (k : BitVec 1)
  /-- VXOR (R161). Vector bitwise XOR. -/
  | vxor (d : Reg) (a : Reg) (b : Reg) (m : BitVec 3) (k : BitVec 1)
  /-- VSLL (R161). Vector shift left. -/
  | vsll (d : Reg) (a : Reg) (b : Reg) (m : BitVec 3) (k : BitVec 1)
  /-- VSRL (R161). Vector logical shift right. -/
  | vsrl (d : Reg) (a : Reg) (b : Reg) (m : BitVec 3) (k : BitVec 1)
  /-- VSRA (R161). Vector arithmetic shift right. -/
  | vsra (d : Reg) (a : Reg) (b : Reg) (m : BitVec 3) (k : BitVec 1)
  /-- VSADD (R161). Vector signed saturating add. -/
  | vsadd (d : Reg) (a : Reg) (b : Reg) (m : BitVec 3) (k : BitVec 1)
  /-- VSSUB (R161). Vector signed saturating subtract. -/
  | vssub (d : Reg) (a : Reg) (b : Reg) (m : BitVec 3) (k : BitVec 1)
  /-- VSADDU (R161). Vector unsigned saturating add. -/
  | vsaddu (d : Reg) (a : Reg) (b : Reg) (m : BitVec 3) (k : BitVec 1)
  /-- VSSUBU (R161). Vector unsigned saturating subtract. -/
  | vssubu (d : Reg) (a : Reg) (b : Reg) (m : BitVec 3) (k : BitVec 1)
  /-- VMACC (R161). Vector multiply-accumulate c + a × b. -/
  | vmacc (d : Reg) (a : Reg) (b : Reg) (m : BitVec 3) (k : BitVec 1)
  /-- VNMSAC (R161). Vector negated multiply-accumulate c − a × b. -/
  | vnmsac (d : Reg) (a : Reg) (b : Reg) (m : BitVec 3) (k : BitVec 1)
  /-- VMERGE (R163). Selects b or a per element by the mask. -/
  | vmerge (d : Reg) (a : Reg) (b : Reg) (m : BitVec 3) (k : BitVec 1)
  /-- VMV (R162). Copies b into the destination group. -/
  | vmv (d : Reg) (b : Reg) (m : BitVec 3) (k : BitVec 1)
  /-- VCMP (R164). Integer compare writing a mask register. -/
  | vcmp (d : Reg) (a : Reg) (b : Reg) (m : BitVec 3) (k : BitVec 1) (c : BitVec 3)
  /-- VWADD (R166). Widening signed add. -/
  | vwadd (d : Reg) (a : Reg) (b : Reg) (m : BitVec 3) (k : BitVec 1)
  /-- VWMUL (R166). Widening signed multiply. -/
  | vwmul (d : Reg) (a : Reg) (b : Reg) (m : BitVec 3) (k : BitVec 1)
  /-- VWMACC (R166). Widening signed multiply-accumulate. -/
  | vwmacc (d : Reg) (a : Reg) (b : Reg) (m : BitVec 3) (k : BitVec 1)
  /-- VWMACCU (R166). Widening unsigned multiply-accumulate. -/
  | vwmaccu (d : Reg) (a : Reg) (b : Reg) (m : BitVec 3) (k : BitVec 1)
  /-- VWMACCSU (R166). Widening signed-by-unsigned multiply-accumulate. -/
  | vwmaccsu (d : Reg) (a : Reg) (b : Reg) (m : BitVec 3) (k : BitVec 1)
  /-- VNCLIP (R167). Narrowing signed shift with rounding and saturation. -/
  | vnclip (d : Reg) (a : Reg) (b : Reg) (m : BitVec 3) (k : BitVec 1)
  /-- VNCLIPU (R167). Narrowing unsigned shift with rounding and saturation. -/
  | vnclipu (d : Reg) (a : Reg) (b : Reg) (m : BitVec 3) (k : BitVec 1)
  /-- VFADD (R169). Vector floating add. -/
  | vfadd (d : Reg) (a : Reg) (b : Reg) (m : BitVec 3) (k : BitVec 1)
  /-- VFSUB (R169). Vector floating subtract. -/
  | vfsub (d : Reg) (a : Reg) (b : Reg) (m : BitVec 3) (k : BitVec 1)
  /-- VFMUL (R169). Vector floating multiply. -/
  | vfmul (d : Reg) (a : Reg) (b : Reg) (m : BitVec 3) (k : BitVec 1)
  /-- VFDIV (R169). Vector floating divide. -/
  | vfdiv (d : Reg) (a : Reg) (b : Reg) (m : BitVec 3) (k : BitVec 1)
  /-- VFSQRT (R169). Vector floating square root. -/
  | vfsqrt (d : Reg) (a : Reg) (m : BitVec 3)
  /-- VFMA (R169). Vector fused a × b + c. -/
  | vfma (d : Reg) (a : Reg) (b : Reg) (m : BitVec 3) (k : BitVec 1)
  /-- VFMS (R169). Vector fused a × b − c. -/
  | vfms (d : Reg) (a : Reg) (b : Reg) (m : BitVec 3) (k : BitVec 1)
  /-- VFNMA (R169). Vector fused c − a × b. -/
  | vfnma (d : Reg) (a : Reg) (b : Reg) (m : BitVec 3) (k : BitVec 1)
  /-- VFMIN (R169). Vector floating minimum. -/
  | vfmin (d : Reg) (a : Reg) (b : Reg) (m : BitVec 3) (k : BitVec 1)
  /-- VFMAX (R169). Vector floating maximum. -/
  | vfmax (d : Reg) (a : Reg) (b : Reg) (m : BitVec 3) (k : BitVec 1)
  /-- VFCMP (R170). Floating compare writing a mask register. -/
  | vfcmp (d : Reg) (a : Reg) (b : Reg) (m : BitVec 3) (k : BitVec 1) (c : BitVec 2)
  /-- VFCVT_XF (R171). Converts float elements to signed integers. -/
  | vfcvtXf (d : Reg) (a : Reg) (m : BitVec 3)
  /-- VFCVT_FX (R171). Converts signed integer elements to float. -/
  | vfcvtFx (d : Reg) (a : Reg) (m : BitVec 3)
  /-- VFCVT_XUF (R171). Converts float elements to unsigned integers. -/
  | vfcvtXuf (d : Reg) (a : Reg) (m : BitVec 3)
  /-- VFCVT_FXU (R171). Converts unsigned integer elements to float. -/
  | vfcvtFxu (d : Reg) (a : Reg) (m : BitVec 3)
  /-- VFCVT_FW (R171). Widens BF16 elements to F32. -/
  | vfcvtFw (d : Reg) (a : Reg) (m : BitVec 3)
  /-- VFCVT_FN (R171). Narrows F32 elements to BF16. -/
  | vfcvtFn (d : Reg) (a : Reg) (m : BitVec 3)
  /-- VFCLASS (R172). Writes each element's sign and class code. -/
  | vfclass (d : Reg) (a : Reg) (m : BitVec 3)
  /-- VFSGNJ (R169). Sign injection from b. -/
  | vfsgnj (d : Reg) (a : Reg) (b : Reg) (m : BitVec 3) (k : BitVec 1)
  /-- VFSGNJ_N (R169). Negated sign injection. -/
  | vfsgnjN (d : Reg) (a : Reg) (b : Reg) (m : BitVec 3) (k : BitVec 1)
  /-- VFSGNJ_X (R169). XOR sign injection. -/
  | vfsgnjX (d : Reg) (a : Reg) (b : Reg) (m : BitVec 3) (k : BitVec 1)
  /-- VFEXP2 (R173). Special function 2^a rounded to BF16. -/
  | vfexp2 (d : Reg) (a : Reg) (m : BitVec 3)
  /-- VFLOG2 (R173). Special function log2 a. -/
  | vflog2 (d : Reg) (a : Reg) (m : BitVec 3)
  /-- VFRCP (R173). Special function 1 ÷ a. -/
  | vfrcp (d : Reg) (a : Reg) (m : BitVec 3)
  /-- VFRSQRT (R173). Special function 1 ÷ √a. -/
  | vfrsqrt (d : Reg) (a : Reg) (m : BitVec 3)
  /-- VFTANH (R173). Special function tanh a. -/
  | vftanh (d : Reg) (a : Reg) (m : BitVec 3)
  /-- VRAND (R174). Fills elements with Philox counter-generator words. -/
  | vrand (d : Reg) (m : BitVec 3)
  /-- VREDSUM (R175). Integer sum reduction into element (0, 0). -/
  | vredsum (d : Reg) (a : Reg) (b : Reg) (m : BitVec 3)
  /-- VREDMAX (R175). Integer signed maximum reduction. -/
  | vredmax (d : Reg) (a : Reg) (b : Reg) (m : BitVec 3)
  /-- VREDMIN (R175). Integer signed minimum reduction. -/
  | vredmin (d : Reg) (a : Reg) (b : Reg) (m : BitVec 3)
  /-- VFREDSUM (R175). Floating pairwise-tree sum reduction. -/
  | vfredsum (d : Reg) (a : Reg) (b : Reg) (m : BitVec 3)
  /-- VFREDMAX (R175). Floating maximum reduction. -/
  | vfredmax (d : Reg) (a : Reg) (b : Reg) (m : BitVec 3)
  /-- VFREDMIN (R175). Floating minimum reduction. -/
  | vfredmin (d : Reg) (a : Reg) (b : Reg) (m : BitVec 3)
  /-- VSLIDEUP (R177). Slides each row up by its distance. -/
  | vslideup (d : Reg) (a : Reg) (b : Reg) (m : BitVec 3) (k : BitVec 1)
  /-- VSLIDEDN (R177). Slides each row down, repeating its last element. -/
  | vslidedn (d : Reg) (a : Reg) (b : Reg) (m : BitVec 3) (k : BitVec 1)
  /-- VSLIDE1 (R177). Slides each row down by one and inserts a value at its end. -/
  | vslide1 (d : Reg) (a : Reg) (b : Reg) (m : BitVec 3) (k : BitVec 1)
  /-- VPERM (R179). Gathers elements over the sweep's linear positions. -/
  | vperm (d : Reg) (a : Reg) (b : Reg) (m : BitVec 3) (k : BitVec 1)
  /-- VCOMPRESS (R180). Packs the selected elements to the front of the destination. -/
  | vcompress (d : Reg) (a : Reg) (m : BitVec 3)
  /-- VID (R181). Writes base plus linear position to each element. -/
  | vid (d : Reg) (b : Reg) (m : BitVec 3) (k : BitVec 1)
  /-- VMVXS (R182). Moves one vector element to a scalar register. -/
  | vmvxs (d : Reg) (a : Reg) (b : Reg) (k : BitVec 1)
  /-- VMVSX (R183). Moves a scalar into element (0, 0). -/
  | vmvsx (d : Reg) (b : Reg)
  /-- MAND (R184). Mask AND. -/
  | mand (d : Reg) (a : Reg) (b : Reg)
  /-- MOR (R184). Mask OR. -/
  | mor (d : Reg) (a : Reg) (b : Reg)
  /-- MXOR (R184). Mask XOR. -/
  | mxor (d : Reg) (a : Reg) (b : Reg)
  /-- MANDN (R184). Mask AND NOT. -/
  | mandn (d : Reg) (a : Reg) (b : Reg)
  /-- MPOP (R184). Counts set mask bits into a scalar. -/
  | mpop (d : Reg) (a : Reg)
  /-- MFIRST (R184). Finds the first set mask bit. -/
  | mfirst (d : Reg) (a : Reg)
  /-- MSETI (R185). Sets a mask pattern from a scalar count. -/
  | mseti (d : Reg) (k : Reg) (b : Reg)
  /-- MZERO (R244). Clears an accumulator tile. -/
  | mzero (a : BitVec 2)
  /-- MZERO_R (R244). Clears an accumulator tile and frees its ownership. -/
  | mzeroR (a : BitVec 2)
  /-- MXP (R246). BF16 × BF16 k-stepped product into a tile. -/
  | mxp (a : BitVec 2) (x : Reg) (y : Reg) (m : BitVec 3)
  /-- MXPI (R246). Integer k-stepped product into an INT32 tile. -/
  | mxpi (a : BitVec 2) (x : Reg) (y : Reg) (m : BitVec 3) (v : BitVec 3)
  /-- MTER (R247). Ternary × 8-bit k-stepped product. -/
  | mter (a : BitVec 2) (x : Reg) (y : Reg) (m : BitVec 3) (v : BitVec 1)
  /-- MSEG (R251). Builds a ragged row layout and mask from group counts. -/
  | mseg (x : Reg) (y : Reg) (m : BitVec 3)
  /-- MRD (R252). Reads tile cells into a vector group. -/
  | mrd (a : BitVec 2) (x : Reg) (y : Reg) (m : BitVec 3) (i : BitVec 1) (s : BitVec 1) (c : BitVec 1)
  /-- MWR (R252). Writes tile cells from a vector group. -/
  | mwr (a : BitVec 2) (x : Reg) (y : Reg) (m : BitVec 3) (i : BitVec 1)
  /-- MWAIT (R253). Waits for earlier array instructions and tile fetches naming the tiles. -/
  | mwait (t : BitVec 4)
  /-- MQUAD_J (R254). Joins a tile of the four cores of a quad into one 256 × 512 tile. -/
  | mquadJ (a : BitVec 2)
  /-- MQUAD_L (R254). Dissolves a joined tile. -/
  | mquadL (a : BitVec 2)
  /-- MXPT (R248). Product with tensor-tile operands fetched through the tile fetch unit. -/
  | mxpt (a : BitVec 2) (s : BitVec 2) (x : Reg) (y : Reg) (m : BitVec 3) (f : BitVec 4) (g : BitVec 4)
  /-- MPIN (R262). Makes a tile a vigil with shape dk × dv. -/
  | mpin (a : BitVec 2) (x : Reg)
  /-- MUNPIN (R263). Turns a vigil back into an ordinary owned tile. -/
  | munpin (a : BitVec 2)
  /-- MDELTA (R264). Applies vl tokens of the gated delta rule to a vigil. -/
  | mdelta (a : BitVec 2) (x : Reg) (y : Reg) (c : Reg)
  /-- MDELTA_Q (R264). Applies the delta rule and writes S·q per token in place. -/
  | mdeltaQ (a : BitVec 2) (x : Reg) (y : Reg) (c : Reg) (z : Reg)
  /-- MREADQ (R265). Reads S·q per token from a vigil. -/
  | mreadq (a : BitVec 2) (x : Reg) (y : Reg)
  /-- MSPILL (R268). Writes a tile's spill image to memory. -/
  | mspill (a : BitVec 2) (x : Reg)
  /-- MSPILL_R (R268). Writes a tile's spill image and releases the tile. -/
  | mspillR (a : BitVec 2) (x : Reg)
  /-- MFILL (R269). Reads and verifies a spill image into a tile. -/
  | mfill (a : BitVec 2) (x : Reg)
  /-- TDEF (R287). Defines a tensor table entry from a 64-byte descriptor. -/
  | tdef (s : Reg) (t : Reg)
  /-- TINV (R287). Invalidates the tile lines of a tensor. -/
  | tinv (s : Reg)
  /-- TSYNC (R287). Invalidates tile lines of tensors whose backing bytes meet a range. -/
  | tsync (s : Reg) (t : Reg)
  /-- CPDRAIN (R308). Waits for the accepted copies of the named channels and reports any error. -/
  | cpdrain (d : Reg) (c : Reg)
  /-- CPCANCEL (R309). Removes or stops a copy by identifier. -/
  | cpcancel (d : Reg) (s : Reg)
  /-- FENCE (R324). Orders the thread's earlier and later accesses of the named classes. -/
  | fence (c : BitVec 3) (p : BitVec 2) (s : BitVec 2)
  /-- BAR (R335). Arrives at a core or quad barrier and waits. -/
  | bar (d : Reg) (s : Reg) (c : BitVec 3) (b : BitVec 4)
  /-- STEP (R337). Arrives at the partition's superstep and waits. -/
  | step (d : Reg) (s : Reg)
  /-- WAITGEN (R340). Waits until a 32-bit generation word reaches a target. -/
  | waitgen (d : Reg) (s : Reg) (t : Reg) (c : BitVec 3)
  /-- WAITMEM (R340). Waits until a memory word meets a condition. -/
  | waitmem (d : Reg) (s : Reg) (t : Reg) (c : BitVec 3) (w : BitVec 1) (q : BitVec 3)
  /-- WMPUB (R343). Releases and raises a watermark slot by MAX or ADD. -/
  | wmpub (d : Reg) (s : Reg) (t : Reg) (c : BitVec 3) (o : BitVec 1)
  /-- SEND (R353). Sends a register group to memory or a landing window anywhere in the domain. -/
  | send (s : Reg) (t : Reg)
  /-- WEXPORT (R346). Exports a group as a read or landing lantern window. -/
  | wexport (d : Reg) (s : Reg) (t : Reg)
  /-- WREVOKE (R350). Revokes a lantern window. -/
  | wrevoke (d : Reg) (t : Reg)
  /-- WICK_EVENT (R386). The taper takes a pending wick fault event at an instruction boundary. -/
  | wickEvent (g c : Nat)
  /-- STOP_EVENT (R120). STOP sets stop-pending and the taper's event flag once the wick's earlier instructions complete. -/
  | stopEvent (g c : Nat) (w : Fin 8) (code : BitVec 8)
  /-- WFE_TIMEOUT (R391). WFE completes without cause 65,536 ac after it starts. -/
  | wfeTimeout (t : Tid)
  /-- WFE_WAKE (R391). WFE completes when the event flag is set. -/
  | wfeWake (t : Tid)
  /-- HALT_RETIRE (R26). A halting taper retires; its wicks stop and its queues and window are discarded. -/
  | haltRetire (g c : Nat)
  /-- WJOIN_RETURN (R121). WJOIN returns once the named wicks are quiescent and accepted, as an acquire. -/
  | wjoinReturn (g c : Nat)
  /-- BAR_COMPLETION (R336). All participants have arrived; the generation rises and all return. -/
  | barCompletion (g : Nat) (qd : Bool) (i b : Nat)
  /-- STEP_COMPLETION (R338). The partition step completes after contributions and forked engines finish. -/
  | stepCompletion (part : Nat)
  /-- WAIT_POLL (R341). The waited word is re-read after a write to its sector or every 1,024 ac. -/
  | waitPoll (t : Tid)
  /-- STRIP_W_RETURN (R148). The watermark reaches the bound and STRIP.W grants its strip. -/
  | stripWReturn (t : Tid)
  /-- CPDRAIN_RETURN (R308). CPDRAIN returns after the named copies end, reporting and clearing an error. -/
  | cpdrainReturn (t : Tid)
  /-- MWAIT_END (R253). MWAIT ends once named array work and tile fetches are done. -/
  | mwaitEnd (t : Tid)
  /-- FENCE_COMPLETE (R324). A FENCE completes once its predecessor accesses are performed. -/
  | fenceComplete (t : Tid)
  /-- MQUAD_RENDEZVOUS (R254). All four cores have issued MQUAD and the operand bus is bound or freed. -/
  | mquadRendezvous (g q : Nat)
  /-- JOINT_STEP (R255). A joint k-stepped form starts 12 ac after the last of four cores issues. -/
  | jointStep (g q : Nat)
  /-- ILLEGAL_ENCODING (R46). A thread executes a word with major 0x00, a reserved major, an unlisted selector or an illegal code value, and it traps with cause illegal. -/
  | illegalEncoding (word : IWord)
  /-- RESERVED_FIELD_WORD (R47). A thread executes a word whose reserved field is nonzero, and it traps with cause reserved-field. -/
  | reservedFieldWord (word : IWord)
  /-- INSTRUCTION_FETCH_FAULT (R96). The fetch of a thread's next instruction word fails translation or reads poison, and the trap is raised with tepc at that word. -/
  | instructionFetchFault (cause : Cause) (va : Word)
  /-- ECALL (R389). Raises a trap with cause ECALL. -/
  | ecall
  /-- EBREAK (R389). Raises a trap with cause EBREAK, or stops the gang for an armed debugger. -/
  | ebreak
  /-- TRAPRET (R390). Leaves the taper's handler, returning to tepc or applying the disposition to a faulted wick. -/
  | trapret
  /-- WFE (R391). Stalls the thread until its event flag is set. -/
  | wfe
  /-- HALT (R392). Waits for the taper's earlier instructions, then retires the taper. -/
  | halt
  /-- YIELD (R123). Moves the wick to youngest in the GTO age order. -/
  | yield
  /-- FENCE_I (R325). Makes the thread's stores visible to its own instruction fetch. -/
  | fenceI
  /-- ETRIG (R344). Marks the taper's core triggered for dependent launches. -/
  | etrig
  /-- CPGO (R302). A read of cpgo snapshots the set-up CSRs and launches a copy, or returns 0 when refused. -/
  | cpgo (d : Reg)
  /-- PSSTAT_READ (R352). A CSR read of psstat returns the code and count of abandoned SENDs and clears them. -/
  | psstatRead (d : Reg)
  /-- WAITMEM_RETURN (R341). A waited word satisfies its condition and the wait returns as an acquire. -/
  | waitmemReturn (t : Tid)
  /-- SLOT_ISSUE (R111). Each ac the slot chooses one slot-ready wick by the issue policy. -/
  | slotIssue (g c : Nat)
  /-- BLOCK_DELIVERY (R114). A block reaches a wick's queue and is accepted whole or refused. -/
  | blockDelivery (g c : Nat) (w : Fin 8)
  /-- BCAST_REPLAY (R115). After the back-off, refused blocks are resent to the wick in window order. -/
  | bcastReplay (g c : Nat) (w : Fin 8)
  /-- TILE_LINE_FILL (R249). A tile line arrives and is pinned, or its failure ends the MXPT at vstart. -/
  | tileLineFill (vf tid bidx m0 k0 : Nat)
  /-- SECTOR_FILL (R275). A sector read from HBM arrives at the L2, poisoned if uncorrectable. -/
  | sectorFill (pa : Nat) (uncorrectable : Bool)
  /-- PAGE_REQUEST_RESEND (R222). A walker resends a refused page request after 256 ac. -/
  | pageRequestResend (vf : Nat)
  /-- PAGE_REQUEST_ANSWER (R223). The hypervisor's answer retries or refuses the attached accesses. -/
  | pageRequestAnswer (vf id code : Nat)
  /-- FAULT_RECORD (R221). A 32-byte fault record is written to the VF's fault queue or dropped. -/
  | faultRecord (vf : Nat)
  /-- DIRTY_LOG_APPEND (R381). An entry is appended to the dirty log, waiting while the log is full. -/
  | dirtyLogAppend (vf : Nat)
  /-- CACHE_LINE_EXPIRY (R101). A scalar data cache line is invalidated 4,096 ac after its fill. -/
  | cacheLineExpiry (pcore line : Nat)
  /-- ACTIVATION_COUNTER_RESET (R294). HBM row activation counters reset every 32 µs. -/
  | activationCounterReset
  /-- HELD_ROW_SERVE (R294). A request held for a throttled row is served within 2 µs. -/
  | heldRowServe
  /-- COPY_CHUNK (R304). A copy performs its next chunk, or stops on a failure and puts its channel in error. -/
  | copyChunk (g c : Nat) (ch : Fin 4)
  /-- COPY_FLAG (R304). After its last chunk is visible, a copy writes its arrival flag as a release. -/
  | copyFlag (g c : Nat) (ch : Fin 4)
  /-- SEND_FLAG (R354). After every byte is visible, a SEND writes its arrival flag. -/
  | sendFlag (g c k : Nat)
  /-- LANDING (R355). The destination accepts or refuses a landing flit. -/
  | landing (f : LandingFlit)
  /-- SEND_REPLAY (R355). After psback.count + 1 ac a refused SEND resends, or is abandoned at its limit. -/
  | sendReplay (g c k : Nat)
  /-- FLIT_RECEIVE (R359). A Wapin port receives a flit, refusing it on a full buffer or bad CRC. -/
  | flitReceive (port : Fin 6) (f : LinkFlit)
  /-- LINK_REPLAY (R359). The link-layer timer expires and unacknowledged flits are resent. -/
  | linkReplay (port : Fin 6)
  /-- LANE_FAILURE (R359). A failed lane makes the port retrain onto its spare lane. -/
  | laneFailure (lane : Lane)
  /-- LINK_LOSS (R397). A port that cannot retrain is lost and its partitions take a device fault. -/
  | linkLoss (port : Fin 6)
  /-- REMOTE_REPLY_TIMEOUT (R397). A request through a lost port gets no reply within 2^20 ac. -/
  | remoteReplyTimeout (part : Nat)
  /-- RINGWP_DOORBELL (R363). A write of ringwp makes descriptors pending or takes an overrun. -/
  | ringwpDoorbell (vf : Nat) (ring : Fin 4) (wp : BitVec 32)
  /-- RING_RESET (R362). Writing ringctl.reset sets rp to wp and clears err. -/
  | ringReset (vf : Nat) (ring : Fin 4)
  /-- RING_ENABLE (R363). Setting ringctl.en acts as a doorbell with the stored wp. -/
  | ringEnable (vf : Nat) (ring : Fin 4)
  /-- S1INV (R227). A write of s1inv requests a stage-1 invalidation of a range or everything. -/
  | s1inv (vf : Nat) (v : Word)
  /-- INVALIDATION_COMPLETE (R227). An invalidation completes once no derived translation or access remains. -/
  | invalidationComplete (vf : Nat) (stage2 : Bool)
  /-- FQOVF_READ (R361). A read of fqovf returns and clears the dropped-record count. -/
  | fqovfRead (vf : Nat)
  /-- VFERR_READ (R361). A read of vferr returns and clears its error counts. -/
  | vferrRead (vf : Nat)
  /-- VF_REGISTER_WRITE (R361). A write to a VF register with no behaviour of its own. -/
  | vfRegisterWrite (vf off : Nat) (v : Word)
  /-- LAUNCH_DESCRIPTOR (R365). A descriptor read from the ring is checked, then made a candidate or rejected. -/
  | launchDescriptor (vf : Nat) (ring : Fin 4) (readFails : Bool)
  /-- PLACEMENT (R369). At a state change, the dispatcher ranks candidates and places, or pre-empts for, the first. -/
  | placement (part : Nat)
  /-- PLACEMENT_HOLD (R369). After 262,144 ac of waiting, the first-ranked candidate blocks other placements. -/
  | placementHold (part : Nat)
  /-- BALANCE_EXHAUSTED (R371). A VF's balance reaches zero and it draws from the pool or becomes unfunded. -/
  | balanceExhausted (vf : Nat)
  /-- PERIOD_START (R372). Every 262,144 ac balances reset, debts are repaid and idle balances pooled. -/
  | periodStart
  /-- PRE_EMPTION (R22). A gang's threads are stopped at an instruction boundary and its in-flight work drained. -/
  | preEmption (g : Nat)
  /-- CONTEXT_SAVE (R378). The drained gang's vigils, tiles, rows and state are saved and its quads released. -/
  | contextSave (g : Nat)
  /-- RESTORE (R378). A resumed gang's header is checked and its context restored before threads resume. -/
  | restore (g : Nat)
  /-- VIGIL_REFILL (R272). A vigil is refilled and verified from its image in the background. -/
  | vigilRefill (g c : Nat) (tile : Fin 4)
  /-- GANG_END (R27). After all tapers halt and its engine writes are visible, the gang's tiles are released. -/
  | gangEnd (g : Nat)
  /-- COMPLETION_RECORD (R367). The completion record is written, done advances and the vector is raised. -/
  | completionRecord (vf : Nat) (ring : Fin 4)
  /-- WATCHDOG (R395). 2^24 ac without progress ends the partition's work as a device fault. -/
  | watchdog (g : Nat)
  /-- UNCORRECTABLE_ERROR (R396). An uncorrectable error in protected state causes a device fault of its partitions. -/
  | uncorrectableError (st : Storage) (place : Nat)
  /-- CORRECTED_ERROR (R396). A corrected error is repaired and counted. -/
  | correctedError (at_ : ErrorPlace)
  /-- THROTTLE_STEP (R414). The power controller changes the module clock step. -/
  | throttleStep (r : Readings)
  /-- OVER_TEMPERATURE (R414). Above 125 °C every partition takes a device fault and the module stops. -/
  | overTemperature
  /-- MCP_FAULT (R399). A fault of the MCP stops management and holds the lowest step. -/
  | mcpFault
  /-- SET_QUOTA (R379). Sets a VF's quota and borrow permission from the next period. -/
  | setQuota (cmd : Cmd) (q : Nat) (borrow : Bool)
  /-- SET_PRIORITY_CAP (R379). Sets the highest priority accepted for a VF. -/
  | setPriorityCap (cmd : Cmd) (cap : Nat)
  /-- SET_CONTEXT_AREA (R377). Sets the base and slot count of a VF's context area. -/
  | setContextArea (cmd : Cmd) (base slots : Nat)
  /-- SET_STAGE2_ROOT (R379). Sets a VF's stage-2 root. -/
  | setStage2Root (cmd : Cmd) (root : Nat)
  /-- SET_WAY_MASK (R278). Sets a VF's L2 way mask. -/
  | setWayMask (cmd : Cmd) (m : BitVec 16)
  /-- WAY_REMOVAL_COMPLETE (R279). Ways removed from a mask are written back and invalidated. -/
  | wayRemovalComplete (vf : Nat)
  /-- ALLOT_BLOCKS (R379). Allots tensor or watermark blocks to a VF. -/
  | allotBlocks (cmd : Cmd) (watermark : Bool) (blocks : List Nat)
  /-- TAKE_BACK_BLOCKS (R284). Takes back blocks, clearing entries and invalidating their tile lines. -/
  | takeBackBlocks (cmd : Cmd) (watermark : Bool) (blocks : List Nat)
  /-- SET_DIRTY_LOG (R379). Sets the base and size of a VF's dirty log. -/
  | setDirtyLog (cmd : Cmd) (base lgsize : Nat)
  /-- PAUSE (R380). Stops placement for a VF and pre-empts its gangs. -/
  | pause (cmd : Cmd)
  /-- PAUSE_COMPLETE (R380). After writes and log entries are done, state 2 is written as a release. -/
  | pauseComplete (vf : Nat)
  /-- EVICT (R379). Pauses a VF and removes every way from its mask. -/
  | evict (cmd : Cmd)
  /-- RESUME (R379). Returns a stopped VF to running. -/
  | resume (cmd : Cmd)
  /-- DISCARD (R379). Ends a stopped VF's saved gangs with status 3. -/
  | discard (cmd : Cmd)
  /-- LAYOUT (R376). Commits a new partition layout in two phases. -/
  | layout (cmd : Cmd) (tables : LayoutTables) (approved : Bool)
  /-- VF_CREATE (R401). Creates a VF bound to a verified tenant policy. -/
  | vfCreate (cmd : Cmd) (vf : Nat) (p : Policy)
  /-- VF_DESTROY (R400). Destroys a VF. -/
  | vfDestroy (cmd : Cmd)
  /-- STAGE2_MAP (R402). Maps granules at stage 2 under the owner records. -/
  | stage2Map (cmd : Cmd) (m : Stage2Mapping)
  /-- STAGE2_UNMAP (R402). Unmaps granules and invalidates. -/
  | stage2Unmap (cmd : Cmd) (ipa lgSize : Nat)
  /-- GRANULE_ZEROED (R402). The RSP finishes zeroing a granule leaving a confidential VF. -/
  | granuleZeroed (granule : Nat)
  /-- STAGE2_INVALIDATE (R227). Requests a stage-2 invalidation of a range or everything. -/
  | stage2Invalidate (cmd : Cmd) (ipa lgSize : Nat) (everything : Bool)
  /-- SET_PEER_ACCEPT (R355). Sets a partition's peer-accept list. -/
  | setPeerAccept (cmd : Cmd) (part : Nat) (senders : List Nat)
  /-- SET_CONTEXT_KEYS (R400). Sets context-area keys. -/
  | setContextKeys (cmd : Cmd)
  /-- PAUSE_TIMEOUT (R401). The RSP resumes a VF paused longer than its pausemax. -/
  | pauseTimeout (vf : Nat)
  /-- SPDM_REQUEST (R408). An SPDM attestation request is answered with the session key. -/
  | spdmRequest (vf : Nat)
  /-- SESSION_KEY_RENEWAL (R407). A spent session key is replaced and certified with the next identity leaf. -/
  | sessionKeyRenewal
  /-- TDISP_LOCK (R408). A tenant locks a confidential VF into TDISP RUN. -/
  | tdispLock (vf : Nat) (sessionOk : Bool)
  /-- LOCKED_VF_CHANGE (R408). A change to a locked VF moves it to ERROR and stops it. -/
  | lockedVfChange (vf : Nat)
  /-- FIRMWARE_UPDATE (R410). Verifies and writes a firmware image to flash. -/
  | firmwareUpdate (img : Firmware)
  /-- SECURITY_VERSION_COMMIT (R410). After a healthy boot the fuse counter rises to the image's version. -/
  | securityVersionCommit
  /-- RECOVERY (R411). With no valid image, the boot ROM accepts one through the recovery BAR. -/
  | recovery (img : Firmware)
  /-- SET_POWER_CAP (R414). Lowers or raises the module power cap. -/
  | setPowerCap (watts : Nat)
  /-- DEBUG_UNLOCK (R415). A reset with a signed token unlocks the debug port and zeroes HBM. -/
  | debugUnlock (tokenOk : Bool)
  /-- COLD_RESET (R413). Runs boot, training, zeroing and link bring-up. -/
  | coldReset (failedChannels : List Nat) (failedPorts : List (Fin 6))
  /-- HOT_RESET (R413). A PCIe hot reset discards all gangs, destroys all VFs and repeats steps 6 to 8. -/
  | hotReset (failedPorts : List (Fin 6))
  /-- FUNCTION_LEVEL_RESET (R412). A VF reset pauses, discards and resets the VF. -/
  | functionLevelReset (vf : Nat)
  /-- RUN_AHEAD_FETCH (R229). The core fetches the next instruction line ahead under kind prefetch, and it counts the line or drops it silently. -/
  | runAheadFetch (t : Tid)
  /-- SEND_FLIT (R354). The SEND engine translates its next 4 KiB destination granule on the sending device and transmits its next 128 B flits, or abandons with code 1. -/
  | sendFlit (g c k : Nat) (ans : FlitAnswer)
  /-- CHANNEL_FAILURE (R290). An HBM channel fails while a gang runs and is handled as a device fault, then remapped at the next reset. -/
  | channelFailure (channel : Nat)
  /-- MCP_RECOVERY (R399). The MCP recovers from a fault or hang, so management traffic, power control and host commands resume. -/
  | mcpRecovery
  /-- DIRTY_LOG_CONSUMED (R381). The hypervisor consumes dirty-log entries, so a write that waited to set its D bit on a full log proceeds. -/
  | dirtyLogConsumed (vf n : Nat)
  /-- DEBT_AT_CAP (R371). A borrowing VF's debt reaches 4 × Q, or the lending pool runs empty, so it stops drawing and its candidates are no longer funded. -/
  | debtAtCap (vf : Nat)
  /-- RINGSTAT_ERR_CLEAR (R362). A W1C write to ringstat.err clears the ring's error code. -/
  | ringstatErrClear (vf : Nat) (ring : Fin 4) (v : BitVec 8)
  /-- DEBUGGER_ARM (R415). The debugger on the unlocked JTAG port arms EBREAK, so a later EBREAK stops the gang for it instead of trapping. -/
  | debuggerArm
  deriving DecidableEq, Repr

end Sys2Proof
end

