-- ==== Sys2Proof/WellFormed.lean ====
section
/-! DEFINITION. Which instructions have an encoding: every code-valued field holds a legal code (02 R42 to R45), every field
that the form reserves for some operand values is zero there (02 R47). An event row is well formed when the numbers it carries
name something the module has (00 R1, R2). -/

namespace Sys2Proof

/-- A rounding-mode code that an instruction may carry (02 R43). -/
abbrev legalRm (m : BitVec 3) : Bool := m != 6
/-- A scope code (02 R44). -/
abbrev legalScope (c : BitVec 3) : Bool := c.toNat ≤ 4
/-- The scope of an AMO form: zero when the form carries no ordering (02 R42). -/
abbrev legalAmoScope (c : BitVec 3) (q r : BitVec 1) : Bool := legalScope c && (c == 0 || q == 1 || r == 1)
/-- A memory format code (02 R45, 03 R64). -/
abbrev legalMfmt (m : BitVec 5) : Bool := m.toNat ≤ 18
/-- An MX memory format (03 R64). -/
abbrev isMx (m : BitVec 5) : Bool := 13 ≤ m.toNat && m.toNat ≤ 15
/-- A matrix format code (02 R45). -/
abbrev legalMat (f : BitVec 4) : Bool := f.toNat ≤ 13
/-- A VF number (19 R412). -/
abbrev legalVf (vf : Nat) : Bool := 1 ≤ vf && vf ≤ 512
/-- A gang core index (01 R13). -/
abbrev legalCore (c : Nat) : Bool := c < 96

/-- The well-formed instructions and events. -/
def Instr.wf : Instr → Bool
  | .fadd _ _ _ m | .fsub _ _ _ m | .fmul _ _ _ m | .fdiv _ _ _ m | .fma _ _ _ m => legalRm m
  | .fcvtW _ _ m | .fcvtF _ _ m => legalRm m
  | .fcmp _ _ _ c => c.toNat < 4
  | .amoadd _ _ _ c q r _ | .amoswap _ _ _ c q r _ | .amoand _ _ _ c q r _ | .amoor _ _ _ c q r _
  | .amoxor _ _ _ c q r _ | .amomin _ _ _ c q r _ | .amomax _ _ _ c q r _ | .amominu _ _ _ c q r _
  | .amomaxu _ _ _ c q r _ | .amocas _ _ _ c q r _ | .amofadd _ _ _ c q r => legalAmoScope c q r
  | .lda _ _ c _ | .stl _ _ c _ => legalScope c
  | .xlinkTaper _ _ w => w != 0
  | .wstat _ _ s => s.toNat ≤ 8
  | .vsett _ _ _ _ m e => e != 7 && m != 6 && m != 7
  | .vld _ _ f _ m | .vst _ _ f _ m => legalMfmt m && (isMx m || f == 0)
  | .vlds _ _ _ _ m | .vldx _ _ _ _ m | .vldseg _ _ _ _ m | .vsts _ _ _ _ m | .vstx _ _ _ _ m
  | .vstseg _ _ _ _ m => legalMfmt m
  | .vldxP _ _ _ m | .vldff _ _ _ m => legalMfmt m
  | .vid _ b _ k => k == 1 || b == 0
  | .vmvxs _ _ b k => k == 1 || b == 0
  | .mseti _ k _ => k.toNat ≤ 2
  | .mxpt _ s _ _ _ f g => s != 0 && legalMat f && legalMat g
  | .mdelta _ _ _ c | .mdeltaQ _ _ _ c _ => c != 31
  | .cpdrain _ c => c.toNat ≤ 4
  | .fence c p s => legalScope c && p != 0 && s != 0
  | .bar _ _ c b => c == 1 || (c == 2 && b.toNat < 4)
  | .waitgen _ _ _ c => legalScope c
  | .waitmem _ _ _ c _ q => legalScope c && q.toNat ≤ 5
  | .wmpub _ _ _ c _ => c == 1 || c == 2 || c == 3
  | .wickEvent _ c | .haltRetire _ c | .wjoinReturn _ c | .slotIssue _ c | .stopEvent _ c _ _
  | .blockDelivery _ c _ | .bcastReplay _ c _ | .copyChunk _ c _ | .copyFlag _ c _ | .sendFlag _ c _
  | .sendReplay _ c _ | .vigilRefill _ c _ | .sendFlit _ c _ _ => legalCore c
  | .wfeTimeout t | .wfeWake t | .waitmemReturn t | .waitPoll t | .stripWReturn t | .cpdrainReturn t | .mwaitEnd t
  | .fenceComplete t | .runAheadFetch t => legalCore t.core
  | .barCompletion _ qd i b => if qd then i < 24 && b < 4 else i < 96 && b < 16
  | .mquadRendezvous _ q | .jointStep _ q => q < 24
  | .stepCompletion p | .placement p | .placementHold p | .remoteReplyTimeout p => p < 24
  | .pageRequestResend vf | .faultRecord vf | .dirtyLogAppend vf | .fqovfRead vf | .vferrRead vf | .balanceExhausted vf
  | .wayRemovalComplete vf | .pauseComplete vf | .pauseTimeout vf | .lockedVfChange vf | .functionLevelReset vf
  | .debtAtCap vf => legalVf vf
  | .pageRequestAnswer vf _ _ | .ringwpDoorbell vf _ _ | .ringReset vf _ | .ringEnable vf _ | .s1inv vf _
  | .invalidationComplete vf _ | .vfRegisterWrite vf _ _ | .launchDescriptor vf _ _ | .completionRecord vf _
  | .dirtyLogConsumed vf _ | .ringstatErrClear vf _ _ | .tdispLock vf _ | .vfCreate _ vf _ => legalVf vf
  | .tileLineFill vf tid _ _ _ => legalVf vf && tid < 8192
  | .channelFailure ch => ch < 384
  | .setPowerCap w => 1500 ≤ w && w ≤ 3000
  | _ => true

end Sys2Proof
end

