-- ==== Sys2Proof/Decode.lean ====
section
/-! DEFINITION. From a 32-bit word to an instruction and back (02 R33 to R48). Decoding is total: it answers an instruction, or
says that the word is illegal (02 R46) or holds a nonzero reserved field (02 R47), in the order of 02 R48. The encoder is written
from the same tables. -/

namespace Sys2Proof

/-- What decode answers instead of an instruction (02 R46, R47). -/
inductive DecodeErr where
  | illegal
  | reservedField
  deriving DecidableEq, Repr

/-- Bits 31:26, the major opcode (02 R34). -/
abbrev wordMajor (w : IWord) : BitVec 6 := w.extractLsb' 26 6
/-- Bits 25:21 (02 R34). -/
abbrev wordRd (w : IWord) : Reg := w.extractLsb' 21 5
/-- Bits 20:16 (02 R34). -/
abbrev wordRs1 (w : IWord) : Reg := w.extractLsb' 16 5
/-- Bits 15:11 (02 R34). -/
abbrev wordRs2 (w : IWord) : Reg := w.extractLsb' 11 5
/-- Bits 10:0 (02 R34). -/
abbrev wordFunct (w : IWord) : BitVec 11 := w.extractLsb' 0 11

/-- Bits 15:0 of a word, from its 15:11 and 10:0 fields (02 R34). -/
abbrev join16 (t : Reg) (f : BitVec 11) : BitVec 16 := t ++ f
/-- Bits 20:0 of a word, from its lower three fields (02 R34). -/
abbrev join21 (s t : Reg) (f : BitVec 11) : BitVec 21 := s ++ (t ++ f)

/-- An unlisted code (02 R41, R46). -/
abbrev illegalWord : Except DecodeErr Instr := .error .illegal
/-- The reserved-field check: the last of the decode checks on a word (02 R47, R48). -/
abbrev ifZero (zero : Bool) (i : Instr) : Except DecodeErr Instr := if zero then .ok i else .error .reservedField
/-- The check of code-valued fields, which comes before the reserved-field check (02 R48). -/
abbrev ifCode (legal : Bool) (k : Except DecodeErr Instr) : Except DecodeErr Instr := if legal then k else .error .illegal

/-- Major OP (02 R41, R42; 04 R90 to R92). -/
def decodeOp (d s t : Reg) (f : BitVec 11) : Except DecodeErr Instr :=
  let hi := f.extractLsb' 7 4
  let g := f.extractLsb' 6 1
  let z := hi == 0 && g == 0
  match (f.extractLsb' 0 6).toNat with
  | 0x00 => ifZero z (.add d s t)
  | 0x01 => ifZero z (.sub d s t)
  | 0x02 => ifZero z (.and d s t)
  | 0x03 => ifZero z (.or d s t)
  | 0x04 => ifZero z (.xor d s t)
  | 0x05 => ifZero z (.sll d s t)
  | 0x06 => ifZero z (.srl d s t)
  | 0x07 => ifZero z (.sra d s t)
  | 0x08 => ifZero z (.slt d s t)
  | 0x09 => ifZero z (.sltu d s t)
  | 0x0A => ifZero z (.min d s t)
  | 0x0B => ifZero z (.max d s t)
  | 0x0C => ifZero z (.minu d s t)
  | 0x0D => ifZero z (.maxu d s t)
  | 0x10 => ifZero z (.mul d s t)
  | 0x11 => ifZero z (.mulh d s t)
  | 0x12 => ifZero z (.mulhu d s t)
  | 0x14 => ifZero z (.div d s t)
  | 0x15 => ifZero z (.divu d s t)
  | 0x16 => ifZero z (.rem d s t)
  | 0x17 => ifZero z (.remu d s t)
  | 0x18 => ifZero (z && t == 0) (.clz d s)
  | 0x19 => ifZero (z && t == 0) (.ctz d s)
  | 0x1A => ifZero (z && t == 0) (.cpop d s)
  | 0x20 => ifZero (hi == 0) (.slli d s t g)
  | 0x21 => ifZero (hi == 0) (.srli d s t g)
  | 0x22 => ifZero (hi == 0) (.srai d s t g)
  | _ => illegalWord

/-- Major SFP (02 R41 to R43; 04 R102 to R105). -/
def decodeSfp (d s t : Reg) (f : BitVec 11) : Except DecodeErr Instr :=
  let hi := f.extractLsb' 7 4 == 0
  let m := f.extractLsb' 4 3
  match (f.extractLsb' 0 4).toNat with
  | 0x0 => ifCode (legalRm m) (ifZero hi (.fadd d s t m))
  | 0x1 => ifCode (legalRm m) (ifZero hi (.fsub d s t m))
  | 0x2 => ifCode (legalRm m) (ifZero hi (.fmul d s t m))
  | 0x3 => ifCode (legalRm m) (ifZero hi (.fdiv d s t m))
  | 0x4 => ifCode (legalRm m) (ifZero hi (.fma d s t m))
  | 0x5 => ifZero (hi && m == 0) (.fmin d s t)
  | 0x6 => ifZero (hi && m == 0) (.fmax d s t)
  | 0x8 => ifCode (legalRm m) (ifZero (hi && t == 0) (.fcvtW d s m))
  | 0x9 => ifCode (legalRm m) (ifZero (hi && t == 0) (.fcvtF d s m))
  | 0xA => ifCode (m.toNat < 4) (ifZero hi (.fcmp d s t m))
  | _ => illegalWord

/-- Major AMO (02 R41, R42, R44; 08 R206, R207). -/
def decodeAmo (d s t : Reg) (f : BitVec 11) : Except DecodeErr Instr :=
  let z := f.extractLsb' 10 1 == 0
  let c := f.extractLsb' 7 3
  let q := f.extractLsb' 6 1
  let r := f.extractLsb' 5 1
  let w := f.extractLsb' 4 1
  let ok := legalAmoScope c q r
  match (f.extractLsb' 0 4).toNat with
  | 0x0 => ifCode ok (ifZero z (.amoadd d s t c q r w))
  | 0x1 => ifCode ok (ifZero z (.amoswap d s t c q r w))
  | 0x2 => ifCode ok (ifZero z (.amoand d s t c q r w))
  | 0x3 => ifCode ok (ifZero z (.amoor d s t c q r w))
  | 0x4 => ifCode ok (ifZero z (.amoxor d s t c q r w))
  | 0x5 => ifCode ok (ifZero z (.amomin d s t c q r w))
  | 0x6 => ifCode ok (ifZero z (.amomax d s t c q r w))
  | 0x7 => ifCode ok (ifZero z (.amominu d s t c q r w))
  | 0x8 => ifCode ok (ifZero z (.amomaxu d s t c q r w))
  | 0x9 => ifCode ok (ifZero z (.amocas d s t c q r w))
  | 0xA => ifCode (ok && w == 0) (ifZero z (.amofadd d s t c q r))
  | 0xC => ifCode (legalScope c && q == 1 && r == 0) (ifZero (z && t == 0) (.lda d s c w))
  | 0xD => ifCode (legalScope c && q == 0 && r == 1) (ifZero (z && d == 0) (.stl s t c w))
  | _ => illegalWord

/-- Major CSR: csr 15:4, op 3:0 (02 R34, R41; 04 R87). -/
def decodeCsr (d s : Reg) (i : BitVec 16) : Except DecodeErr Instr :=
  let c := i.extractLsb' 4 12
  match (i.extractLsb' 0 4).toNat with
  | 0x0 => ifZero (s == 0) (.csrr d c)
  | 0x1 => .ok (.csrw d s c)
  | 0x2 => .ok (.csrs d s c)
  | 0x3 => .ok (.csrc d s c)
  | 0x9 => .ok (.csrwImm d s c)
  | 0xA => .ok (.csrsImm d s c)
  | 0xB => .ok (.csrcImm d s c)
  | _ => illegalWord

/-- Major SYS (02 R41; 18 R389 to R392): every register field is reserved. -/
def decodeSys (d s t : Reg) (f : BitVec 11) : Except DecodeErr Instr :=
  let z := d == 0 && s == 0 && t == 0
  match f.toNat with
  | 0x000 => ifZero z .ecall
  | 0x001 => ifZero z .ebreak
  | 0x002 => ifZero z .trapret
  | 0x003 => ifZero z .wfe
  | 0x004 => ifZero z .halt
  | _ => illegalWord

/-- Major WICK: sub 15:12, operand 11:0 (02 R40, R41; 05 R118 to R124). With operand bit 11 clear, sub 0x4 is the wick's XLINK when
bits 10:8 are zero and the taper's XLINK when they are not (log 12). -/
def decodeWick (d s : Reg) (i : BitVec 16) : Except DecodeErr Instr :=
  let lo8 := i.extractLsb' 0 8
  let x := i.extractLsb' 8 3
  let b11 := i.extractLsb' 11 1
  match (i.extractLsb' 12 4).toNat with
  | 0x0 => ifZero (d == 0 && b11 == 0) (.bcast s x lo8)
  | 0x1 => ifZero (d == 0) (.bfetch s (i.extractLsb' 0 12))
  | 0x2 => ifZero (d == 0 && s == 0 && i.extractLsb' 8 4 == 0) (.stop lo8)
  | 0x3 => ifZero (i.extractLsb' 8 4 == 0) (.wjoin d s lo8)
  | 0x4 =>
    if b11 == 1 then ifZero (x == 0 && lo8 == 0) (.xlinkV d s)
    else if x == 0 then ifZero (lo8 == 0) (.xlink d s)
    else ifZero (lo8 == 0) (.xlinkTaper d s x)
  | 0x5 => ifZero (d == 0 && s == 0 && i.extractLsb' 0 12 == 0) .yield
  | 0x6 =>
    let sel := i.extractLsb' 0 4
    ifCode (sel.toNat ≤ 8) (ifZero (s == 0 && i.extractLsb' 5 7 == 0) (.wstat d (i.extractLsb' 4 1) sel))
  | _ => illegalWord

/-- Major VCFG: sub 15:13, operand 12:0 (02 R40, R41; 06 R147 to R152). -/
def decodeVcfg (d s : Reg) (i : BitVec 16) : Except DecodeErr Instr :=
  match (i.extractLsb' 13 3).toNat with
  | 0 => ifZero (i.extractLsb' 4 9 == 0) (.strip d s (i.extractLsb' 0 4))
  | 1 => .ok (.stripW d s (i.extractLsb' 12 1) (i.extractLsb' 0 12))
  | 2 =>
    if i.extractLsb' 12 1 == 0 then
      let m := i.extractLsb' 4 3
      let e := i.extractLsb' 0 3
      ifCode (e != 7 && m != 6 && m != 7) (ifZero (i.extractLsb' 8 2 == 0 && i.extractLsb' 3 1 == 0)
        (.vsett d s (i.extractLsb' 10 2) (i.extractLsb' 7 1) m e))
    else ifZero (i.extractLsb' 2 10 == 0) (.vsettAp d s (i.extractLsb' 0 2))
  | 3 => ifZero (s == 0 && i.extractLsb' 0 13 == 0) (.vmode d)
  | 4 => ifZero (d == 0 && s == 0) (.vloop (i.extractLsb' 0 13))
  | _ => illegalWord

/-- Major VLOAD (02 R34, R38, R41, R45; 08 R190, R191). -/
def decodeVload (d b t : Reg) (f : BitVec 11) : Except DecodeErr Instr :=
  let k := f.extractLsb' 8 3
  let m := f.extractLsb' 0 5
  match (f.extractLsb' 5 3).toNat with
  | 0 => ifCode (legalMfmt m) (ifZero (isMx m || t == 0) (.vld d b t k m))
  | 1 => ifCode (legalMfmt m) (.ok (.vlds d b t k m))
  | 2 => ifCode (legalMfmt m) (.ok (.vldx d b t k m))
  | 3 => ifCode (legalMfmt m) (ifZero (b == 0) (.vldxP d t k m))
  | 4 => ifCode (legalMfmt m) (.ok (.vldseg d b t k m))
  | 5 => ifCode (legalMfmt m) (ifZero (t == 0) (.vldff d b k m))
  | 6 => ifZero (d == 0 && k == 0 && m == 0) (.prefD b t)
  | _ => ifZero (d == 0 && k == 0 && m == 0) (.prefI b t)

/-- Major VSTORE (02 R34, R38, R41, R45; 08 R190, R191). -/
def decodeVstore (d b t : Reg) (f : BitVec 11) : Except DecodeErr Instr :=
  let k := f.extractLsb' 8 3
  let m := f.extractLsb' 0 5
  match (f.extractLsb' 5 3).toNat with
  | 0 => ifCode (legalMfmt m) (ifZero (isMx m || t == 0) (.vst d b t k m))
  | 1 => ifCode (legalMfmt m) (.ok (.vsts d b t k m))
  | 2 => ifCode (legalMfmt m) (.ok (.vstx d b t k m))
  | 4 => ifCode (legalMfmt m) (.ok (.vstseg d b t k m))
  | _ => illegalWord

/-- Major VINT (02 R41, R42; 07 R161 to R164). -/
def decodeVint (d a b : Reg) (f : BitVec 11) : Except DecodeErr Instr :=
  let m := f.extractLsb' 8 3
  let k := f.extractLsb' 7 1
  match (f.extractLsb' 0 7).toNat with
  | 0x00 => .ok (.vadd d a b m k)
  | 0x01 => .ok (.vsub d a b m k)
  | 0x02 => .ok (.vrsub d a b m k)
  | 0x04 => .ok (.vmul d a b m k)
  | 0x05 => .ok (.vmulh d a b m k)
  | 0x06 => .ok (.vmulhu d a b m k)
  | 0x08 => .ok (.vdiv d a b m k)
  | 0x09 => .ok (.vrem d a b m k)
  | 0x0C => .ok (.vmin d a b m k)
  | 0x0D => .ok (.vmax d a b m k)
  | 0x0E => .ok (.vminu d a b m k)
  | 0x0F => .ok (.vmaxu d a b m k)
  | 0x10 => .ok (.vand d a b m k)
  | 0x11 => .ok (.vor d a b m k)
  | 0x12 => .ok (.vxor d a b m k)
  | 0x14 => .ok (.vsll d a b m k)
  | 0x15 => .ok (.vsrl d a b m k)
  | 0x16 => .ok (.vsra d a b m k)
  | 0x18 => .ok (.vsadd d a b m k)
  | 0x19 => .ok (.vssub d a b m k)
  | 0x1A => .ok (.vsaddu d a b m k)
  | 0x1B => .ok (.vssubu d a b m k)
  | 0x1C => .ok (.vmacc d a b m k)
  | 0x1D => .ok (.vnmsac d a b m k)
  | 0x20 => .ok (.vmerge d a b m k)
  | 0x21 => ifZero (a == 0) (.vmv d b m k)
  | 0x28 => .ok (.vcmp d a b m k 0)
  | 0x29 => .ok (.vcmp d a b m k 1)
  | 0x2A => .ok (.vcmp d a b m k 2)
  | 0x2B => .ok (.vcmp d a b m k 3)
  | 0x2C => .ok (.vcmp d a b m k 4)
  | 0x2D => .ok (.vcmp d a b m k 5)
  | 0x2E => .ok (.vcmp d a b m k 6)
  | 0x2F => .ok (.vcmp d a b m k 7)
  | _ => illegalWord

/-- Major VWIDE (02 R41, R42; 07 R166, R167). -/
def decodeVwide (d a b : Reg) (f : BitVec 11) : Except DecodeErr Instr :=
  let m := f.extractLsb' 8 3
  let k := f.extractLsb' 7 1
  match (f.extractLsb' 0 7).toNat with
  | 0x00 => .ok (.vwadd d a b m k)
  | 0x01 => .ok (.vwmul d a b m k)
  | 0x04 => .ok (.vwmacc d a b m k)
  | 0x05 => .ok (.vwmaccu d a b m k)
  | 0x06 => .ok (.vwmaccsu d a b m k)
  | 0x08 => .ok (.vnclip d a b m k)
  | 0x09 => .ok (.vnclipu d a b m k)
  | _ => illegalWord

/-- VFP funct 0x18: the conversion is picked by the 15:11 field (07 R171). -/
def decodeVfcvt (d a b : Reg) (m : BitVec 3) : Except DecodeErr Instr :=
  match b.toNat with
  | 0 => .ok (.vfcvtXf d a m)
  | 1 => .ok (.vfcvtFx d a m)
  | 2 => .ok (.vfcvtXuf d a m)
  | 3 => .ok (.vfcvtFxu d a m)
  | 4 => .ok (.vfcvtFw d a m)
  | 5 => .ok (.vfcvtFn d a m)
  | _ => illegalWord

/-- Major VFP (02 R41, R42; 07 R169 to R172). -/
def decodeVfp (d a b : Reg) (f : BitVec 11) : Except DecodeErr Instr :=
  let m := f.extractLsb' 8 3
  let k := f.extractLsb' 7 1
  match (f.extractLsb' 0 7).toNat with
  | 0x00 => .ok (.vfadd d a b m k)
  | 0x01 => .ok (.vfsub d a b m k)
  | 0x02 => .ok (.vfmul d a b m k)
  | 0x03 => .ok (.vfdiv d a b m k)
  | 0x08 => .ok (.vfma d a b m k)
  | 0x09 => .ok (.vfms d a b m k)
  | 0x0A => .ok (.vfnma d a b m k)
  | 0x0C => .ok (.vfmin d a b m k)
  | 0x0D => .ok (.vfmax d a b m k)
  | 0x1C => .ok (.vfsgnj d a b m k)
  | 0x1D => .ok (.vfsgnjN d a b m k)
  | 0x1E => .ok (.vfsgnjX d a b m k)
  | 0x04 => ifZero (b == 0 && k == 0) (.vfsqrt d a m)
  | 0x19 => ifZero (b == 0 && k == 0) (.vfclass d a m)
  | 0x18 => ifCode (k == 0) (decodeVfcvt d a b m)
  | 0x10 => .ok (.vfcmp d a b m k 0)
  | 0x11 => .ok (.vfcmp d a b m k 1)
  | 0x12 => .ok (.vfcmp d a b m k 2)
  | 0x13 => .ok (.vfcmp d a b m k 3)
  | _ => illegalWord

/-- Major VSFU (02 R41, R42; 07 R173, R174). -/
def decodeVsfu (d a b : Reg) (f : BitVec 11) : Except DecodeErr Instr :=
  let m := f.extractLsb' 8 3
  let k := f.extractLsb' 7 1
  match (f.extractLsb' 0 7).toNat with
  | 0x00 => ifZero (b == 0 && k == 0) (.vfexp2 d a m)
  | 0x01 => ifZero (b == 0 && k == 0) (.vflog2 d a m)
  | 0x02 => ifZero (b == 0 && k == 0) (.vfrcp d a m)
  | 0x03 => ifZero (b == 0 && k == 0) (.vfrsqrt d a m)
  | 0x04 => ifZero (b == 0 && k == 0) (.vftanh d a m)
  | 0x08 => ifZero (a == 0 && b == 0 && k == 0) (.vrand d m)
  | _ => illegalWord

/-- Major VRED (02 R41, R42; 07 R175). -/
def decodeVred (d a b : Reg) (f : BitVec 11) : Except DecodeErr Instr :=
  let m := f.extractLsb' 8 3
  let k := f.extractLsb' 7 1
  match (f.extractLsb' 0 7).toNat with
  | 0x00 => ifZero (k == 0) (.vredsum d a b m)
  | 0x01 => ifZero (k == 0) (.vredmax d a b m)
  | 0x02 => ifZero (k == 0) (.vredmin d a b m)
  | 0x04 => ifZero (k == 0) (.vfredsum d a b m)
  | 0x05 => ifZero (k == 0) (.vfredmax d a b m)
  | 0x06 => ifZero (k == 0) (.vfredmin d a b m)
  | _ => illegalWord

/-- Major VPERM (02 R41, R42; 07 R177 to R183). -/
def decodeVperm (d a b : Reg) (f : BitVec 11) : Except DecodeErr Instr :=
  let m := f.extractLsb' 8 3
  let k := f.extractLsb' 7 1
  match (f.extractLsb' 0 7).toNat with
  | 0x00 => .ok (.vslideup d a b m k)
  | 0x01 => .ok (.vslidedn d a b m k)
  | 0x02 => .ok (.vslide1 d a b m k)
  | 0x04 => .ok (.vperm d a b m k)
  | 0x05 => ifZero (b == 0 && k == 0) (.vcompress d a m)
  | 0x08 => ifZero (a == 0 && (k == 1 || b == 0)) (.vid d b m k)
  | 0x0C => ifZero (m == 0 && (k == 1 || b == 0)) (.vmvxs d a b k)
  | 0x0D => ifCode (k == 1) (ifZero (a == 0 && m == 0) (.vmvsx d b))
  | _ => illegalWord

/-- Major VMASK (02 R41, R42; 07 R184, R185). -/
def decodeVmask (d a b : Reg) (f : BitVec 11) : Except DecodeErr Instr :=
  let m := f.extractLsb' 8 3
  let k := f.extractLsb' 7 1
  match (f.extractLsb' 0 7).toNat with
  | 0x00 => ifZero (m == 0 && k == 0) (.mand d a b)
  | 0x01 => ifZero (m == 0 && k == 0) (.mor d a b)
  | 0x02 => ifZero (m == 0 && k == 0) (.mxor d a b)
  | 0x03 => ifZero (m == 0 && k == 0) (.mandn d a b)
  | 0x04 => ifZero (b == 0 && m == 0 && k == 0) (.mpop d a)
  | 0x05 => ifZero (b == 0 && m == 0 && k == 0) (.mfirst d a)
  | 0x08 => ifCode (a.toNat ≤ 2) (ifZero (m == 0 && k == 0) (.mseti d a b))
  | _ => illegalWord

/-- Major MAT: the MT layout when bit 23 is set, else the M layout (02 R40, R41, R45; 10 R242 to R254). -/
def decodeMat (d x y : Reg) (f : BitVec 11) : Except DecodeErr Instr :=
  let a := d.extractLsb' 3 2
  let lo := d.extractLsb' 0 2
  let z := lo == 0
  let m := f.extractLsb' 8 3
  let v := f.extractLsb' 0 4
  let g := f.extractLsb' 4 4
  if d.extractLsb' 2 1 == 1 then
    ifCode (lo != 0 && legalMat g && legalMat v) (.ok (.mxpt a lo x y m g v))
  else match g.toNat with
  | 0x0 =>
    let rz := z && x == 0 && y == 0 && m == 0 && v.extractLsb' 1 3 == 0
    ifZero rz (if v.extractLsb' 0 1 == 0 then .mzero a else .mzeroR a)
  | 0x1 => ifZero (z && v == 0) (.mxp a x y m)
  | 0x2 => ifCode (v.extractLsb' 3 1 == 0) (ifZero z (.mxpi a x y m (v.extractLsb' 0 3)))
  | 0x3 => ifCode (v.extractLsb' 2 2 == 0 && v.extractLsb' 0 1 == 0) (ifZero z (.mter a x y m (v.extractLsb' 1 1)))
  | 0x4 => ifZero (z && a == 0 && v == 0) (.mseg x y m)
  | 0x5 => ifZero (z && v.extractLsb' 0 1 == 0) (.mrd a x y m (v.extractLsb' 3 1) (v.extractLsb' 2 1) (v.extractLsb' 1 1))
  | 0x6 => ifZero (z && v.extractLsb' 0 3 == 0) (.mwr a x y m (v.extractLsb' 3 1))
  | 0x7 => ifZero (z && a == 0 && x == 0 && y == 0 && m == 0) (.mwait v)
  | 0x8 =>
    let rz := z && x == 0 && y == 0 && m == 0 && v.extractLsb' 1 3 == 0
    ifZero rz (if v.extractLsb' 0 1 == 0 then .mquadL a else .mquadJ a)
  | _ => illegalWord

/-- Major VIG (02 R40, R41; 11 R261 to R269). -/
def decodeVig (d x y : Reg) (f : BitVec 11) : Except DecodeErr Instr :=
  let a := d.extractLsb' 3 2
  let c := f.extractLsb' 6 5
  let z := f.extractLsb' 1 5
  let q := f.extractLsb' 0 1
  let yc := y == 0 && c == 0 && z == 0
  match (d.extractLsb' 0 3).toNat with
  | 0 => ifZero (yc && q == 0) (.mpin a x)
  | 1 => ifZero (x == 0 && yc && q == 0) (.munpin a)
  | 2 => ifCode (c != 31) (if q == 0 then ifZero (z == 0) (.mdelta a x y c) else .ok (.mdeltaQ a x y c z))
  | 3 => ifZero (c == 0 && z == 0 && q == 0) (.mreadq a x y)
  | 4 => ifZero yc (if q == 0 then .mspill a x else .mspillR a x)
  | 5 => ifZero (yc && q == 0) (.mfill a x)
  | _ => illegalWord

/-- Major TENS (02 R41; 12 R287). -/
def decodeTens (d s t : Reg) (f : BitVec 11) : Except DecodeErr Instr :=
  match f.toNat with
  | 0x000 => ifZero (d == 0) (.tdef s t)
  | 0x001 => ifZero (d == 0 && t == 0) (.tinv s)
  | 0x002 => ifZero (d == 0) (.tsync s t)
  | _ => illegalWord

/-- Major COPY (02 R41; 13 R308, R309). -/
def decodeCopy (d s t : Reg) (f : BitVec 11) : Except DecodeErr Instr :=
  match f.toNat with
  | 0x000 => ifCode (t.toNat ≤ 4) (ifZero (s == 0) (.cpdrain d t))
  | 0x001 => ifZero (t == 0) (.cpcancel d s)
  | _ => illegalWord

/-- Major SYNC (02 R41, R42, R44; 14 R324, R325; 15 R335 to R344). -/
def decodeSync (d s t : Reg) (f : BitVec 11) : Except DecodeErr Instr :=
  let c := f.extractLsb' 8 3
  let m := f.extractLsb' 0 4
  match (f.extractLsb' 4 4).toNat with
  | 0x0 =>
    let p := f.extractLsb' 2 2
    let q := f.extractLsb' 0 2
    ifCode (legalScope c && p != 0 && q != 0) (ifZero (d == 0 && s == 0 && t == 0) (.fence c p q))
  | 0x1 => ifZero (d == 0 && s == 0 && t == 0 && c == 0 && m == 0) .fenceI
  | 0x2 => ifCode (c == 1 || (c == 2 && m.toNat < 4)) (ifZero (t == 0) (.bar d s c m))
  | 0x3 => ifCode (c == 3 && m == 0) (ifZero (t == 0) (.step d s))
  | 0x4 => ifCode (legalScope c && m == 0) (.ok (.waitgen d s t c))
  | 0x5 =>
    let q := f.extractLsb' 0 3
    ifCode (legalScope c && q.toNat ≤ 5) (.ok (.waitmem d s t c (f.extractLsb' 3 1) q))
  | 0x6 => ifCode ((c == 1 || c == 2 || c == 3) && f.extractLsb' 1 3 == 0) (.ok (.wmpub d s t c (f.extractLsb' 0 1)))
  | 0x7 => ifCode (c == 3 && m == 0) (ifZero (d == 0 && s == 0 && t == 0) .etrig)
  | _ => illegalWord

/-- Major PEER (02 R41; 16 R346, R350, R353). -/
def decodePeer (d s t : Reg) (f : BitVec 11) : Except DecodeErr Instr :=
  match f.toNat with
  | 0x000 => ifZero (d == 0) (.send s t)
  | 0x001 => .ok (.wexport d s t)
  | 0x002 => ifZero (s == 0) (.wrevoke d t)
  | _ => illegalWord

/-- The instruction whose five fields are these (02 R39). -/
def decodeFields (maj : BitVec 6) (d s t : Reg) (f : BitVec 11) : Except DecodeErr Instr :=
  let i := join16 t f
  match maj.toNat with
  | 0x01 => decodeOp d s t f
  | 0x02 => .ok (.addi d s i)
  | 0x03 => .ok (.andi d s i)
  | 0x04 => .ok (.ori d s i)
  | 0x05 => .ok (.xori d s i)
  | 0x06 => .ok (.slti d s i)
  | 0x07 => .ok (.sltiu d s i)
  | 0x08 => .ok (.lui d (join21 s t f))
  | 0x09 => .ok (.auipc d (join21 s t f))
  | 0x0A => .ok (.jal d (join21 s t f))
  | 0x0B => .ok (.jalr d s i)
  | 0x0C => .ok (.beq d s i)
  | 0x0D => .ok (.bne d s i)
  | 0x0E => .ok (.blt d s i)
  | 0x0F => .ok (.bge d s i)
  | 0x10 => .ok (.bltu d s i)
  | 0x11 => .ok (.bgeu d s i)
  | 0x12 => .ok (.lb d s i)
  | 0x13 => .ok (.lbu d s i)
  | 0x14 => .ok (.lh d s i)
  | 0x15 => .ok (.lhu d s i)
  | 0x16 => .ok (.lw d s i)
  | 0x17 => .ok (.lwu d s i)
  | 0x18 => .ok (.ld d s i)
  | 0x19 => .ok (.sb d s i)
  | 0x1A => .ok (.sh d s i)
  | 0x1B => .ok (.sw d s i)
  | 0x1C => .ok (.sd d s i)
  | 0x1D => decodeSfp d s t f
  | 0x1E => decodeAmo d s t f
  | 0x1F => decodeCsr d s i
  | 0x20 => decodeSys d s t f
  | 0x21 => decodeWick d s i
  | 0x22 => decodeVcfg d s i
  | 0x23 => decodeVload d s t f
  | 0x24 => decodeVstore d s t f
  | 0x25 => decodeVint d s t f
  | 0x26 => decodeVwide d s t f
  | 0x27 => decodeVfp d s t f
  | 0x28 => decodeVsfu d s t f
  | 0x29 => decodeVred d s t f
  | 0x2A => decodeVperm d s t f
  | 0x2B => decodeVmask d s t f
  | 0x2C => decodeMat d s t f
  | 0x2D => decodeVig d s t f
  | 0x2E => decodeTens d s t f
  | 0x2F => decodeCopy d s t f
  | 0x30 => decodeSync d s t f
  | 0x31 => decodePeer d s t f
  | _ => illegalWord

/-- The instruction of a word, or why there is none (02 R48). -/
def decode (w : IWord) : Except DecodeErr Instr :=
  decodeFields (wordMajor w) (wordRd w) (wordRs1 w) (wordRs2 w) (wordFunct w)

/-- A word from its five fields (02 R34). -/
abbrev packWord (maj : BitVec 6) (d s t : Reg) (f : BitVec 11) : IWord := maj ++ (d ++ (s ++ (t ++ f)))
/-- A word of the I, S, B, C, W and VC layouts, whose low 16 bits are one field or are split elsewhere (02 R34, R40). -/
abbrev packWord16 (maj : BitVec 6) (d s : Reg) (i : BitVec 16) : IWord := maj ++ (d ++ (s ++ i))
/-- A word of the U and J layouts (02 R34). -/
abbrev packWord21 (maj : BitVec 6) (d : Reg) (i : BitVec 21) : IWord := maj ++ (d ++ i)
/-- Funct of an SFP form: reserved 10:7, code 6:4, op 3:0 (02 R42). -/
abbrev functSfp (m : BitVec 3) (op : BitVec 4) : BitVec 11 := 0#4 ++ (m ++ op)
/-- Funct of an AMO form (02 R42). -/
abbrev functAmo (c : BitVec 3) (q r w : BitVec 1) (op : BitVec 4) : BitVec 11 := 0#1 ++ (c ++ (q ++ (r ++ (w ++ op))))
/-- Bits 10:0 of a V form: mask, operand kind, funct 6:0 (02 R34, R42). -/
abbrev functV (m : BitVec 3) (k : BitVec 1) (fn : BitVec 7) : BitVec 11 := m ++ (k ++ fn)
/-- Bits 10:0 of a VM form: mask, mode, mfmt (02 R34). -/
abbrev functVm (k mode : BitVec 3) (m : BitVec 5) : BitVec 11 := k ++ (mode ++ m)
/-- Bits 10:0 of a MAT form: mask, two nibbles (02 R40). -/
abbrev functMat (m : BitVec 3) (hi lo : BitVec 4) : BitVec 11 := m ++ (hi ++ lo)
/-- Bits 25:21 of the M layout (02 R40). -/
abbrev accM (a : BitVec 2) : Reg := a ++ 0#3
/-- Bits 10:0 of a VIG form: C, D, q (02 R40). -/
abbrev functVig (c z : Reg) (q : BitVec 1) : BitVec 11 := c ++ (z ++ q)
/-- Funct of a SYNC form: scope, op, modifier (02 R42). -/
abbrev functSync (c : BitVec 3) (op m : BitVec 4) : BitVec 11 := c ++ (op ++ m)

/-- The word of an instruction (02 R34, R40 to R45 and the owning chapters); an event row has none. -/
def encode : Instr → Option IWord
  | .add d s t => some (packWord 0x01 d s t 0x000)
  | .sub d s t => some (packWord 0x01 d s t 0x001)
  | .and d s t => some (packWord 0x01 d s t 0x002)
  | .or d s t => some (packWord 0x01 d s t 0x003)
  | .xor d s t => some (packWord 0x01 d s t 0x004)
  | .sll d s t => some (packWord 0x01 d s t 0x005)
  | .srl d s t => some (packWord 0x01 d s t 0x006)
  | .sra d s t => some (packWord 0x01 d s t 0x007)
  | .slt d s t => some (packWord 0x01 d s t 0x008)
  | .sltu d s t => some (packWord 0x01 d s t 0x009)
  | .min d s t => some (packWord 0x01 d s t 0x00A)
  | .max d s t => some (packWord 0x01 d s t 0x00B)
  | .minu d s t => some (packWord 0x01 d s t 0x00C)
  | .maxu d s t => some (packWord 0x01 d s t 0x00D)
  | .mul d s t => some (packWord 0x01 d s t 0x010)
  | .mulh d s t => some (packWord 0x01 d s t 0x011)
  | .mulhu d s t => some (packWord 0x01 d s t 0x012)
  | .div d s t => some (packWord 0x01 d s t 0x014)
  | .divu d s t => some (packWord 0x01 d s t 0x015)
  | .rem d s t => some (packWord 0x01 d s t 0x016)
  | .remu d s t => some (packWord 0x01 d s t 0x017)
  | .clz d s => some (packWord 0x01 d s 0 0x018)
  | .ctz d s => some (packWord 0x01 d s 0 0x019)
  | .cpop d s => some (packWord 0x01 d s 0 0x01A)
  | .slli d s h g => some (packWord 0x01 d s h (0#4 ++ (g ++ 0x20#6)))
  | .srli d s h g => some (packWord 0x01 d s h (0#4 ++ (g ++ 0x21#6)))
  | .srai d s h g => some (packWord 0x01 d s h (0#4 ++ (g ++ 0x22#6)))
  | .addi d s i => some (packWord16 0x02 d s i)
  | .andi d s i => some (packWord16 0x03 d s i)
  | .ori d s i => some (packWord16 0x04 d s i)
  | .xori d s i => some (packWord16 0x05 d s i)
  | .slti d s i => some (packWord16 0x06 d s i)
  | .sltiu d s i => some (packWord16 0x07 d s i)
  | .lui d i => some (packWord21 0x08 d i)
  | .auipc d i => some (packWord21 0x09 d i)
  | .jal d i => some (packWord21 0x0A d i)
  | .jalr d s i => some (packWord16 0x0B d s i)
  | .beq d s i => some (packWord16 0x0C d s i)
  | .bne d s i => some (packWord16 0x0D d s i)
  | .blt d s i => some (packWord16 0x0E d s i)
  | .bge d s i => some (packWord16 0x0F d s i)
  | .bltu d s i => some (packWord16 0x10 d s i)
  | .bgeu d s i => some (packWord16 0x11 d s i)
  | .lb d s i => some (packWord16 0x12 d s i)
  | .lbu d s i => some (packWord16 0x13 d s i)
  | .lh d s i => some (packWord16 0x14 d s i)
  | .lhu d s i => some (packWord16 0x15 d s i)
  | .lw d s i => some (packWord16 0x16 d s i)
  | .lwu d s i => some (packWord16 0x17 d s i)
  | .ld d s i => some (packWord16 0x18 d s i)
  | .sb d s i => some (packWord16 0x19 d s i)
  | .sh d s i => some (packWord16 0x1A d s i)
  | .sw d s i => some (packWord16 0x1B d s i)
  | .sd d s i => some (packWord16 0x1C d s i)
  | .fadd d s t m => some (packWord 0x1D d s t (functSfp m 0))
  | .fsub d s t m => some (packWord 0x1D d s t (functSfp m 1))
  | .fmul d s t m => some (packWord 0x1D d s t (functSfp m 2))
  | .fdiv d s t m => some (packWord 0x1D d s t (functSfp m 3))
  | .fma d s t m => some (packWord 0x1D d s t (functSfp m 4))
  | .fmin d s t => some (packWord 0x1D d s t (functSfp 0 5))
  | .fmax d s t => some (packWord 0x1D d s t (functSfp 0 6))
  | .fcvtW d s m => some (packWord 0x1D d s 0 (functSfp m 8))
  | .fcvtF d s m => some (packWord 0x1D d s 0 (functSfp m 9))
  | .fcmp d s t c => some (packWord 0x1D d s t (functSfp c 0xA))
  | .amoadd d s t c q r w => some (packWord 0x1E d s t (functAmo c q r w 0x0))
  | .amoswap d s t c q r w => some (packWord 0x1E d s t (functAmo c q r w 0x1))
  | .amoand d s t c q r w => some (packWord 0x1E d s t (functAmo c q r w 0x2))
  | .amoor d s t c q r w => some (packWord 0x1E d s t (functAmo c q r w 0x3))
  | .amoxor d s t c q r w => some (packWord 0x1E d s t (functAmo c q r w 0x4))
  | .amomin d s t c q r w => some (packWord 0x1E d s t (functAmo c q r w 0x5))
  | .amomax d s t c q r w => some (packWord 0x1E d s t (functAmo c q r w 0x6))
  | .amominu d s t c q r w => some (packWord 0x1E d s t (functAmo c q r w 0x7))
  | .amomaxu d s t c q r w => some (packWord 0x1E d s t (functAmo c q r w 0x8))
  | .amocas d s t c q r w => some (packWord 0x1E d s t (functAmo c q r w 0x9))
  | .amofadd d s t c q r => some (packWord 0x1E d s t (functAmo c q r 0 0xA))
  | .lda d s c w => some (packWord 0x1E d s 0 (functAmo c 1 0 w 0xC))
  | .stl s t c w => some (packWord 0x1E 0 s t (functAmo c 0 1 w 0xD))
  | .csrr d c => some (packWord16 0x1F d 0 (c ++ 0x0#4))
  | .csrw d s c => some (packWord16 0x1F d s (c ++ 0x1#4))
  | .csrs d s c => some (packWord16 0x1F d s (c ++ 0x2#4))
  | .csrc d s c => some (packWord16 0x1F d s (c ++ 0x3#4))
  | .csrwImm d u c => some (packWord16 0x1F d u (c ++ 0x9#4))
  | .csrsImm d u c => some (packWord16 0x1F d u (c ++ 0xA#4))
  | .csrcImm d u c => some (packWord16 0x1F d u (c ++ 0xB#4))
  | .ecall => some (packWord 0x20 0 0 0 0x000)
  | .ebreak => some (packWord 0x20 0 0 0 0x001)
  | .trapret => some (packWord 0x20 0 0 0 0x002)
  | .wfe => some (packWord 0x20 0 0 0 0x003)
  | .halt => some (packWord 0x20 0 0 0 0x004)
  | .bcast s n m => some (packWord16 0x21 0 s (0x0#5 ++ (n ++ m)))
  | .bfetch s o => some (packWord16 0x21 0 s (0x1#4 ++ o))
  | .stop c => some (packWord16 0x21 0 0 (0x20#8 ++ c))
  | .wjoin d s m => some (packWord16 0x21 d s (0x30#8 ++ m))
  | .xlink d s => some (packWord16 0x21 d s 0x4000)
  | .xlinkTaper d s w => some (packWord16 0x21 d s (0x08#5 ++ (w ++ 0#8)))
  | .xlinkV d s => some (packWord16 0x21 d s 0x4800)
  | .yield => some (packWord16 0x21 0 0 0x5000)
  | .wstat d c s => some (packWord16 0x21 d 0 (0x300#11 ++ (c ++ s)))
  | .strip d s a => some (packWord16 0x22 d s (0#12 ++ a))
  | .stripW d s v w => some (packWord16 0x22 d s (1#3 ++ (v ++ w)))
  | .vsett d s g a m e => some (packWord16 0x22 d s (0x4#4 ++ (g ++ (0#2 ++ (a ++ (m ++ (0#1 ++ e)))))))
  | .vsettAp d s n => some (packWord16 0x22 d s (0x1400#14 ++ n))
  | .vmode d => some (packWord16 0x22 d 0 0x6000)
  | .vloop o => some (packWord16 0x22 0 0 (4#3 ++ o))
  | .vld d b f k m => some (packWord 0x23 d b f (functVm k 0 m))
  | .vlds d b f k m => some (packWord 0x23 d b f (functVm k 1 m))
  | .vldx d b f k m => some (packWord 0x23 d b f (functVm k 2 m))
  | .vldxP d f k m => some (packWord 0x23 d 0 f (functVm k 3 m))
  | .vldseg d b f n m => some (packWord 0x23 d b f (functVm n 4 m))
  | .vldff d b k m => some (packWord 0x23 d b 0 (functVm k 5 m))
  | .prefD b f => some (packWord 0x23 0 b f (functVm 0 6 0))
  | .prefI b f => some (packWord 0x23 0 b f (functVm 0 7 0))
  | .vst d b f k m => some (packWord 0x24 d b f (functVm k 0 m))
  | .vsts d b f k m => some (packWord 0x24 d b f (functVm k 1 m))
  | .vstx d b f k m => some (packWord 0x24 d b f (functVm k 2 m))
  | .vstseg d b f n m => some (packWord 0x24 d b f (functVm n 4 m))
  | .vadd d a b m k => some (packWord 0x25 d a b (functV m k 0x00))
  | .vsub d a b m k => some (packWord 0x25 d a b (functV m k 0x01))
  | .vrsub d a b m k => some (packWord 0x25 d a b (functV m k 0x02))
  | .vmul d a b m k => some (packWord 0x25 d a b (functV m k 0x04))
  | .vmulh d a b m k => some (packWord 0x25 d a b (functV m k 0x05))
  | .vmulhu d a b m k => some (packWord 0x25 d a b (functV m k 0x06))
  | .vdiv d a b m k => some (packWord 0x25 d a b (functV m k 0x08))
  | .vrem d a b m k => some (packWord 0x25 d a b (functV m k 0x09))
  | .vmin d a b m k => some (packWord 0x25 d a b (functV m k 0x0C))
  | .vmax d a b m k => some (packWord 0x25 d a b (functV m k 0x0D))
  | .vminu d a b m k => some (packWord 0x25 d a b (functV m k 0x0E))
  | .vmaxu d a b m k => some (packWord 0x25 d a b (functV m k 0x0F))
  | .vand d a b m k => some (packWord 0x25 d a b (functV m k 0x10))
  | .vor d a b m k => some (packWord 0x25 d a b (functV m k 0x11))
  | .vxor d a b m k => some (packWord 0x25 d a b (functV m k 0x12))
  | .vsll d a b m k => some (packWord 0x25 d a b (functV m k 0x14))
  | .vsrl d a b m k => some (packWord 0x25 d a b (functV m k 0x15))
  | .vsra d a b m k => some (packWord 0x25 d a b (functV m k 0x16))
  | .vsadd d a b m k => some (packWord 0x25 d a b (functV m k 0x18))
  | .vssub d a b m k => some (packWord 0x25 d a b (functV m k 0x19))
  | .vsaddu d a b m k => some (packWord 0x25 d a b (functV m k 0x1A))
  | .vssubu d a b m k => some (packWord 0x25 d a b (functV m k 0x1B))
  | .vmacc d a b m k => some (packWord 0x25 d a b (functV m k 0x1C))
  | .vnmsac d a b m k => some (packWord 0x25 d a b (functV m k 0x1D))
  | .vmerge d a b m k => some (packWord 0x25 d a b (functV m k 0x20))
  | .vmv d b m k => some (packWord 0x25 d 0 b (functV m k 0x21))
  | .vcmp d a b m k c => some (packWord 0x25 d a b (functV m k (0x5#4 ++ c)))
  | .vwadd d a b m k => some (packWord 0x26 d a b (functV m k 0x00))
  | .vwmul d a b m k => some (packWord 0x26 d a b (functV m k 0x01))
  | .vwmacc d a b m k => some (packWord 0x26 d a b (functV m k 0x04))
  | .vwmaccu d a b m k => some (packWord 0x26 d a b (functV m k 0x05))
  | .vwmaccsu d a b m k => some (packWord 0x26 d a b (functV m k 0x06))
  | .vnclip d a b m k => some (packWord 0x26 d a b (functV m k 0x08))
  | .vnclipu d a b m k => some (packWord 0x26 d a b (functV m k 0x09))
  | .vfadd d a b m k => some (packWord 0x27 d a b (functV m k 0x00))
  | .vfsub d a b m k => some (packWord 0x27 d a b (functV m k 0x01))
  | .vfmul d a b m k => some (packWord 0x27 d a b (functV m k 0x02))
  | .vfdiv d a b m k => some (packWord 0x27 d a b (functV m k 0x03))
  | .vfma d a b m k => some (packWord 0x27 d a b (functV m k 0x08))
  | .vfms d a b m k => some (packWord 0x27 d a b (functV m k 0x09))
  | .vfnma d a b m k => some (packWord 0x27 d a b (functV m k 0x0A))
  | .vfmin d a b m k => some (packWord 0x27 d a b (functV m k 0x0C))
  | .vfmax d a b m k => some (packWord 0x27 d a b (functV m k 0x0D))
  | .vfsgnj d a b m k => some (packWord 0x27 d a b (functV m k 0x1C))
  | .vfsgnjN d a b m k => some (packWord 0x27 d a b (functV m k 0x1D))
  | .vfsgnjX d a b m k => some (packWord 0x27 d a b (functV m k 0x1E))
  | .vfsqrt d a m => some (packWord 0x27 d a 0 (functV m 0 0x04))
  | .vfclass d a m => some (packWord 0x27 d a 0 (functV m 0 0x19))
  | .vfcmp d a b m k c => some (packWord 0x27 d a b (functV m k (0x4#5 ++ c)))
  | .vfcvtXf d a m => some (packWord 0x27 d a 0 (functV m 0 0x18))
  | .vfcvtFx d a m => some (packWord 0x27 d a 1 (functV m 0 0x18))
  | .vfcvtXuf d a m => some (packWord 0x27 d a 2 (functV m 0 0x18))
  | .vfcvtFxu d a m => some (packWord 0x27 d a 3 (functV m 0 0x18))
  | .vfcvtFw d a m => some (packWord 0x27 d a 4 (functV m 0 0x18))
  | .vfcvtFn d a m => some (packWord 0x27 d a 5 (functV m 0 0x18))
  | .vfexp2 d a m => some (packWord 0x28 d a 0 (functV m 0 0x00))
  | .vflog2 d a m => some (packWord 0x28 d a 0 (functV m 0 0x01))
  | .vfrcp d a m => some (packWord 0x28 d a 0 (functV m 0 0x02))
  | .vfrsqrt d a m => some (packWord 0x28 d a 0 (functV m 0 0x03))
  | .vftanh d a m => some (packWord 0x28 d a 0 (functV m 0 0x04))
  | .vrand d m => some (packWord 0x28 d 0 0 (functV m 0 0x08))
  | .vredsum d a b m => some (packWord 0x29 d a b (functV m 0 0x00))
  | .vredmax d a b m => some (packWord 0x29 d a b (functV m 0 0x01))
  | .vredmin d a b m => some (packWord 0x29 d a b (functV m 0 0x02))
  | .vfredsum d a b m => some (packWord 0x29 d a b (functV m 0 0x04))
  | .vfredmax d a b m => some (packWord 0x29 d a b (functV m 0 0x05))
  | .vfredmin d a b m => some (packWord 0x29 d a b (functV m 0 0x06))
  | .vslideup d a b m k => some (packWord 0x2A d a b (functV m k 0x00))
  | .vslidedn d a b m k => some (packWord 0x2A d a b (functV m k 0x01))
  | .vslide1 d a b m k => some (packWord 0x2A d a b (functV m k 0x02))
  | .vperm d a b m k => some (packWord 0x2A d a b (functV m k 0x04))
  | .vcompress d a m => some (packWord 0x2A d a 0 (functV m 0 0x05))
  | .vid d b m k => some (packWord 0x2A d 0 b (functV m k 0x08))
  | .vmvxs d a b k => some (packWord 0x2A d a b (functV 0 k 0x0C))
  | .vmvsx d b => some (packWord 0x2A d 0 b (functV 0 1 0x0D))
  | .mand d a b => some (packWord 0x2B d a b (functV 0 0 0x00))
  | .mor d a b => some (packWord 0x2B d a b (functV 0 0 0x01))
  | .mxor d a b => some (packWord 0x2B d a b (functV 0 0 0x02))
  | .mandn d a b => some (packWord 0x2B d a b (functV 0 0 0x03))
  | .mpop d a => some (packWord 0x2B d a 0 (functV 0 0 0x04))
  | .mfirst d a => some (packWord 0x2B d a 0 (functV 0 0 0x05))
  | .mseti d k b => some (packWord 0x2B d k b (functV 0 0 0x08))
  | .mzero a => some (packWord 0x2C (accM a) 0 0 (functMat 0 0 0))
  | .mzeroR a => some (packWord 0x2C (accM a) 0 0 (functMat 0 0 1))
  | .mxp a x y m => some (packWord 0x2C (accM a) x y (functMat m 1 0))
  | .mxpi a x y m v => some (packWord 0x2C (accM a) x y (functMat m 2 (0#1 ++ v)))
  | .mter a x y m v => some (packWord 0x2C (accM a) x y (functMat m 3 (0#2 ++ (v ++ 0#1))))
  | .mseg x y m => some (packWord 0x2C 0 x y (functMat m 4 0))
  | .mrd a x y m i s c => some (packWord 0x2C (accM a) x y (functMat m 5 (i ++ (s ++ (c ++ 0#1)))))
  | .mwr a x y m i => some (packWord 0x2C (accM a) x y (functMat m 6 (i ++ 0#3)))
  | .mwait t => some (packWord 0x2C 0 0 0 (functMat 0 7 t))
  | .mquadJ a => some (packWord 0x2C (accM a) 0 0 (functMat 0 8 1))
  | .mquadL a => some (packWord 0x2C (accM a) 0 0 (functMat 0 8 0))
  | .mxpt a s x y m f g => some (packWord 0x2C (a ++ (1#1 ++ s)) x y (functMat m f g))
  | .mpin a x => some (packWord 0x2D (a ++ 0#3) x 0 0)
  | .munpin a => some (packWord 0x2D (a ++ 1#3) 0 0 0)
  | .mdelta a x y c => some (packWord 0x2D (a ++ 2#3) x y (functVig c 0 0))
  | .mdeltaQ a x y c z => some (packWord 0x2D (a ++ 2#3) x y (functVig c z 1))
  | .mreadq a x y => some (packWord 0x2D (a ++ 3#3) x y 0)
  | .mspill a x => some (packWord 0x2D (a ++ 4#3) x 0 0)
  | .mspillR a x => some (packWord 0x2D (a ++ 4#3) x 0 1)
  | .mfill a x => some (packWord 0x2D (a ++ 5#3) x 0 0)
  | .tdef s t => some (packWord 0x2E 0 s t 0)
  | .tinv s => some (packWord 0x2E 0 s 0 1)
  | .tsync s t => some (packWord 0x2E 0 s t 2)
  | .cpdrain d c => some (packWord 0x2F d 0 c 0)
  | .cpcancel d s => some (packWord 0x2F d s 0 1)
  | .fence c p s => some (packWord 0x30 0 0 0 (functSync c 0 (p ++ s)))
  | .fenceI => some (packWord 0x30 0 0 0 (functSync 0 1 0))
  | .bar d s c b => some (packWord 0x30 d s 0 (functSync c 2 b))
  | .step d s => some (packWord 0x30 d s 0 (functSync 3 3 0))
  | .waitgen d s t c => some (packWord 0x30 d s t (functSync c 4 0))
  | .waitmem d s t c w q => some (packWord 0x30 d s t (functSync c 5 (w ++ q)))
  | .wmpub d s t c o => some (packWord 0x30 d s t (functSync c 6 (0#3 ++ o)))
  | .etrig => some (packWord 0x30 0 0 0 (functSync 3 7 0))
  | .send s t => some (packWord 0x31 0 s t 0)
  | .wexport d s t => some (packWord 0x31 d s t 1)
  | .wrevoke d t => some (packWord 0x31 d 0 t 2)
  | .cpgo _ => none
  | .psstatRead _ => none
  | .wickEvent _ _ => none
  | .stopEvent _ _ _ _ => none
  | .wfeTimeout _ => none
  | .wfeWake _ => none
  | .haltRetire _ _ => none
  | .wjoinReturn _ _ => none
  | .barCompletion _ _ _ _ => none
  | .stepCompletion _ => none
  | .waitmemReturn _ => none
  | .waitPoll _ => none
  | .stripWReturn _ => none
  | .cpdrainReturn _ => none
  | .mwaitEnd _ => none
  | .fenceComplete _ => none
  | .slotIssue _ _ => none
  | .blockDelivery _ _ _ => none
  | .bcastReplay _ _ _ => none
  | .mquadRendezvous _ _ => none
  | .jointStep _ _ => none
  | .tileLineFill _ _ _ _ _ => none
  | .sectorFill _ _ => none
  | .pageRequestResend _ => none
  | .pageRequestAnswer _ _ _ => none
  | .faultRecord _ => none
  | .dirtyLogAppend _ => none
  | .cacheLineExpiry _ _ => none
  | .activationCounterReset => none
  | .heldRowServe => none
  | .copyChunk _ _ _ => none
  | .copyFlag _ _ _ => none
  | .sendFlag _ _ _ => none
  | .landing _ => none
  | .sendReplay _ _ _ => none
  | .flitReceive _ _ => none
  | .linkReplay _ => none
  | .laneFailure _ => none
  | .linkLoss _ => none
  | .remoteReplyTimeout _ => none
  | .ringwpDoorbell _ _ _ => none
  | .ringReset _ _ => none
  | .ringEnable _ _ => none
  | .s1inv _ _ => none
  | .invalidationComplete _ _ => none
  | .fqovfRead _ => none
  | .vferrRead _ => none
  | .vfRegisterWrite _ _ _ => none
  | .launchDescriptor _ _ _ => none
  | .placement _ => none
  | .placementHold _ => none
  | .balanceExhausted _ => none
  | .periodStart => none
  | .preEmption _ => none
  | .contextSave _ => none
  | .restore _ => none
  | .vigilRefill _ _ _ => none
  | .gangEnd _ => none
  | .completionRecord _ _ => none
  | .watchdog _ => none
  | .uncorrectableError _ _ => none
  | .correctedError _ => none
  | .throttleStep _ => none
  | .overTemperature => none
  | .mcpFault => none
  | .setQuota _ _ _ => none
  | .setPriorityCap _ _ => none
  | .setContextArea _ _ _ => none
  | .setStage2Root _ _ => none
  | .setWayMask _ _ => none
  | .wayRemovalComplete _ => none
  | .allotBlocks _ _ _ => none
  | .takeBackBlocks _ _ _ => none
  | .setDirtyLog _ _ _ => none
  | .pause _ => none
  | .pauseComplete _ => none
  | .evict _ => none
  | .resume _ => none
  | .discard _ => none
  | .layout _ _ _ => none
  | .vfCreate _ _ _ => none
  | .vfDestroy _ => none
  | .stage2Map _ _ => none
  | .stage2Unmap _ _ _ => none
  | .granuleZeroed _ => none
  | .stage2Invalidate _ _ _ _ => none
  | .setPeerAccept _ _ _ => none
  | .setContextKeys _ => none
  | .pauseTimeout _ => none
  | .spdmRequest _ => none
  | .sessionKeyRenewal => none
  | .tdispLock _ _ => none
  | .lockedVfChange _ => none
  | .firmwareUpdate _ => none
  | .securityVersionCommit => none
  | .recovery _ => none
  | .setPowerCap _ => none
  | .debugUnlock _ => none
  | .coldReset _ _ => none
  | .hotReset _ => none
  | .functionLevelReset _ => none
  | .illegalEncoding _ => none
  | .reservedFieldWord _ => none
  | .instructionFetchFault _ _ => none
  | .runAheadFetch _ => none
  | .sendFlit _ _ _ _ => none
  | .channelFailure _ => none
  | .mcpRecovery => none
  | .dirtyLogConsumed _ _ => none
  | .debtAtCap _ => none
  | .ringstatErrClear _ _ _ => none
  | .debuggerArm => none

/-- The instruction of the table-numbered bits `w`: a word of 32 bits is laid out little-endian at its address, so bit 0 of the word
is bit 0 here, and every row has one word (02 R33). -/
def decodeTableWord (nbits w : Nat) : Option Instr :=
  if nbits ≤ 32 then (decode (BitVec.ofNat 32 (w % 2 ^ nbits))).toOption else none

end Sys2Proof
end

