-- ==== Sys2Proof/Config.lean ====
section
/-! DEFINITION. The values that the manual leaves open, as constants without a body (log 6). Each is applied to the counter
`State.free` or to what it depends on, so that nothing can be proved of its value. -/

namespace Sys2Proof.Config

/-- An open choice among alternatives: which way of a cache is replaced (04 R100, 09 R219). -/
opaque freeNat : Nat → Nat
/-- The bits of one vector row that VMODE leaves undefined (06 R151). -/
opaque freeRow : Nat → BitVec 65536
/-- A byte whose value is undefined: a copy's destination that meets its own source (13 R301). -/
opaque freeByte : Nat → Byte
/-- The scale of an MX block stored from infinite values alone, by format (03 R66): the manual gives none. -/
opaque infScale : Nat → Nat
/-- The HBM row of a line: the manual gives no map (12 R294). -/
opaque hbmRow : Nat → Nat
/-- The table entries that the walkers of a die keep (09 R219): the manual gives no number. -/
opaque walkRoom : Nat
/-- One less than the flits that the receive buffer of a Wapin port holds in each class and virtual channel (16 R359): the manual gives no
size. -/
opaque portRoom : Nat
/-- One less than the flits that the replay window of a Wapin port holds (01 R31, 16 R359): the manual gives no size. -/
opaque linkWindow : Nat
/-- The ciphertext of a byte: key, nonce, the byte's place, the byte (19 R405, R406). -/
opaque cipherByte : Nat → Nat → Nat → Byte → Byte
/-- A byte of the tag of 4 KiB of ciphertext: key, nonce, page, byte (19 R406). -/
opaque tagByte : Nat → Nat → Nat → Nat → Byte
/-- The measurement of the boot ROM (19 R408 block 1). -/
opaque romMeasure : Nat
/-- The measurement of a part of the image, 2 root and 3 management firmware, by the hash of the image that its manifest holds (19 R408, R409). -/
opaque partMeasure : Nat → Nat → Nat
/-- The revision of the boot ROM (19 R409). -/
opaque romRevision : Nat

end Sys2Proof.Config
end

