-- ==== Sys2Proof/Machine/State.lean ====
section
/-! DEFINITION. Everything the manual gives the module, as plain data, and its value after reset. The model's own fields are
`agenda`, `cur`, `free`, `nextGang`, `time`, `late` and `busy` (log 1, log 2, log 3, log 6); `time` is the time of the real clock, in parts
of which 12,600,000 make a millisecond, so that an ac is a whole number of them at every step of the arithmetic clock (19 R414). -/

namespace Sys2Proof.Machine

/-- Raised by `step` when the agenda holds something that is not a move. -/
inductive Fault where
  /-- Raised by `step` when an agenda entry names an encoded instruction as an event (log 1). Safe: no move of the machine is lost,
  since such an entry stands for none. -/
  | notAnEvent
  deriving DecidableEq, Repr

/-- Raised by `exec` for an instruction without a meaning. -/
inductive Refusal where
  /-- Raised by an arm of `exec` whose meaning is not written yet. Safe: the machine stops. -/
  | notModelled (mnemonic : String)
  deriving DecidableEq, Repr

/-- A table from numbers to data, sorted by number, one entry a number. -/
abbrev Tab (α : Type) := List (Nat × α)

/-- Byte-addressed memory in canonical form: addresses rising, no byte that equals what an unlisted address reads as (log 4). -/
abbrev Mem := List Host.Cell

/-- One byte of a queued store: its physical address, the bits written and their values (08 R202). -/
structure PendByte where
  pa : Nat
  mask : Byte
  val : Byte
  deriving DecidableEq, Repr

/-- Where an element of a vector load goes once it is read (08 R198): the load that it belongs to (`flight`, the wick's own count), its
register as named after rotation, or none when a later load has taken fresh rows for that name and writes the element itself (06 R141,
R142); its position and width there, its bits in the bytes read, the format codes, the rounding mode with its draw, and the scale code
of its MX block. -/
structure LateElem where
  flight : Nat
  reg : Option Nat
  e : Nat
  w : Nat
  shift : Nat
  bits : Nat
  mf : Nat
  et : Nat
  rm : BitVec 3
  draw : Nat
  scale : Option Nat
  deriving DecidableEq, Repr

/-- Where the value of a load goes that its thread has issued and that is still to be performed (14 R312; log 3). -/
inductive LoadInto where
  | x (rd : Reg) (bytes : Nat) (signed : Bool)
  | v (e : LateElem)
  deriving DecidableEq, Repr

/-- An access that its thread has made and that is not yet performed at the L2 (08 R188, R205, 14 R312): a scalar access, or one
element of a vector access; a store, unless `load` says where the value of a load goes. A queue is in program order, and in ascending
position within one vector form (08 R203). `clears` names the sectors whose last byte of a covering store this is, so that their poison
ends (12 R275); `scope` is the scope of a release that has followed a store without performing it (14 R311, R314); `group` names the vector
store and its 64 B element group, and `begun` is whether another element of that group has been performed (18 R394). -/
structure PendAccess where
  vector : Bool
  bytes : List PendByte
  watched : Bool
  cmp : Bool
  clears : List Nat
  load : Option LoadInto := none
  scope : Option (BitVec 3) := none
  group : Option (Nat × Nat) := none
  begun : Bool := false
  deriving DecidableEq, Repr

/-- What a fault record says of where a translation failed: the intermediate address and the `where` byte (09 R221). -/
structure FaultPlace where
  ipa : Nat
  place : BitVec 8
  deriving DecidableEq, Repr

/-- A page request that an access waits for: the region, the granule's bit, the kind, and what its refusal would report
(09 R222, R223). -/
structure Miss where
  region : Nat
  granule : Nat
  kind : Kind
  place : FaultPlace
  deriving DecidableEq, Repr

/-- An access that waits for the answer of a page request: `id` is its entry, or none while the queue refuses it, since the ac
`refusedAt` (09 R222). With `room` it waits for no request, but for room in the dirty log or in the L2 (12 R277, R280, 17 R381). -/
structure PageWait where
  id : Option Nat
  va : Word
  kind : Kind
  miss : Miss
  refusedAt : Nat := 0
  room : Bool := false
  deriving DecidableEq, Repr

/-- What a thread waits for (01 R18, 18 R386). A thread that waits on a page request waits for that of its instruction fetch, or of
the access of its instruction. -/
inductive Wait where
  | page (w : PageWait)
  /-- A write that would set a D bit while the dirty log is full (17 R381). -/
  | dirtyLog
  /-- WFE, since this ac. -/
  | wfe (since : Nat)
  /-- BAR at .qd or at .co, barrier object, destination. -/
  | bar (qd : Bool) (b : Nat) (rd : Reg)
  | step (rd : Reg)
  /-- WAITGEN or WAITMEM at the word at `pa`: width, condition (6 is WAITGEN's test), comparand, destination, scope, and the ac of the
  last reading. -/
  | word (va : Word) (pa : Nat) (bytes : Nat) (cond : Nat) (v : Word) (rd : Reg) (scope : BitVec 3) (readAt : Nat)
  | stripW (xd xn : Reg) (slot : Nat) (adv : Bool)
  | wjoin (rd : Reg) (mask : BitVec 8)
  | bcast
  /-- CPDRAIN: destination, and for each named channel the sequence numbers still waited for. -/
  | cpdrain (rd : Reg) (chans : List Nat) (ids : List Nat)
  | fence (scope : BitVec 3) (pred succ : BitVec 2)
  | stop (code : BitVec 8)
  | halt
  /-- MWAIT on these tiles. -/
  | mwait (tiles : BitVec 4)
  /-- MQUAD.J or MQUAD.L of a tile, until the four cores have issued it. -/
  | mquad (join : Bool) (tile : Fin 4)
  /-- A joint step on a joined tile, until the four cores have issued theirs: the instruction word's own fields. -/
  | joint (i : Instr)
  /-- A vector memory form with elements that wait (09 R224); its record is `Wick.vmem`. -/
  | vmem
  /-- An MXPT whose tile fetch finds every way that it may pin pinned, its record being `Wick.fetch`, or another array instruction whose access
  waits for room (01 R30, 12 R277, 18 R397). -/
  | tile
  deriving DecidableEq, Repr

/-- The copy set-up CSRs of a thread (13 R298). -/
structure CopySetup where
  src : Word
  dst : Word
  dim : Vector (BitVec 32) 4
  str : Vector Word 4
  fmt : BitVec 16
  xf : Word
  flag : Word
  ch : BitVec 2
  deriving DecidableEq, Repr

/-- What every thread holds, taper or wick (04 R81, R85). -/
structure Thread where
  x : Vector Word 32
  pc : Word
  fflags : BitVec 7
  vtype : BitVec 8
  rkey0 : BitVec 32
  rkey1 : BitVec 32
  rctr : Word
  copy : CopySetup
  psflag : Word
  pscfg : Word
  psCode : BitVec 4
  psFails : BitVec 32
  event : Bool
  relCount : BitVec 16
  wait : Option Wait
  pend : List PendAccess
  deriving DecidableEq, Repr

/-- Whether a taper has begun, runs or has halted (01 R10, R26). -/
inductive TaperRun where
  | unstarted | running | halted
  deriving DecidableEq, Repr

/-- A taper: its thread and the CSRs and hidden registers of its traps (18 R384, R386). `arrival` is the hidden record of a BAR or
STEP arrival whose wait was abandoned for an event: the address of that instruction. -/
structure Taper where
  th : Thread
  run : TaperRun
  tvec : BitVec 62
  act : Bool
  disp : BitVec 2
  ev : Bool
  evWick : Fin 8
  code : BitVec 8
  tval : Word
  tepc : Word
  hidden : Word
  arrival : Option Word
  deriving DecidableEq, Repr

/-- The states of a wick (01 R18); `back` is whether the state that a stall or a fault came from, and returns to, is
free-running (01 R18, 18 R387). -/
inductive WickState where
  | idle | blockDriven | freeRunning | stopped
  | stalled (back : Bool)
  | faulted (back : Bool)
  deriving DecidableEq, Repr

/-- A block: the words after a BCAST with the address of the first, and how many of them have started (05 R113, R116). -/
structure Block where
  base : Word
  words : List IWord
  pos : Nat
  deriving DecidableEq, Repr

/-- What has happened to one access of a vector memory form that waits (09 R224, R225): its value with its flags (a store's bytes as they
will be queued), the page request it waits for, or its failure, with where the translation failed if it did. -/
inductive Slot where
  | done (v : Nat) (fl : BitVec 7) (st : Option PendAccess) | pending (w : PageWait)
  | failed (c : Cause) (va : Word) (place : Option FaultPlace)
  deriving DecidableEq, Repr

/-- A vector memory form that has begun and waits on page requests: its instruction and its positions by linear index. -/
structure VMem where
  instr : Instr
  slots : Tab Slot
  deriving DecidableEq, Repr

/-- A tensor table entry (12 R285): its 64 descriptor bytes. -/
structure Tensor where
  base : Word
  scalebase : Word
  fmt : Nat
  rank : Nat
  dim0 : Nat
  dim1 : Nat
  dim2 : Nat
  dim3 : Nat
  stride1 : Nat
  stride2 : Nat
  stride3 : Nat
  deriving DecidableEq, Repr

/-- A tile operand (10 R234): the entry's number, the block's index over dimensions 2 and 3, its first row and first k element, and the
entry as read at issue (12 R288). -/
structure TileRef where
  tid : Nat
  bidx : Nat
  morg : Nat
  k0 : Nat
  ten : Tensor
  deriving DecidableEq, Repr

/-- What a core supplies as an operand of a product: a register group's rows as they stood at issue (10 R241), or a tile. -/
inductive MatOperand where
  | reg (rows : List (BitVec 65536)) (cap : Nat)
  | tile (r : TileRef)
  deriving DecidableEq, Repr

/-- The tile fetch of an MXPT that has issued and waits (10 R249, 12 R288): its instruction, its operands as read at issue, and whether it
belongs to a joint step (10 R255). -/
structure TileFetch where
  instr : Instr
  a : MatOperand
  b : MatOperand
  joint : Bool
  deriving DecidableEq, Repr

/-- A 4 KiB page that an engine operation has translated: its virtual page, its physical base, its intermediate page, and CMP. -/
structure Page where
  va : Nat
  pa : Nat
  ipage : Nat
  cmp : Bool
  deriving DecidableEq, Repr

/-- An MXPT that its wick has left behind, as the engine operation that it forked (10 R249, R250, 14 R310; log 3): its operands, its
format codes, its enabled cells and k-steps, and its pages as they stood at issue; the next k-step and the depth. -/
structure TileJob where
  wick : Fin 8
  tile : BitVec 2
  a : MatOperand
  b : MatOperand
  fa : Nat
  fb : Nat
  rows : List Nat
  cols : List Nat
  on : List Nat
  pages : List Page
  k : Nat
  depth : Nat
  deriving DecidableEq, Repr

/-- Fresh rows that a wick has taken for a name (06 R141, R143): how many, and the loads that still hold the old rows. -/
structure Rename where
  rows : Nat
  flights : List Nat
  deriving DecidableEq, Repr

/-- A wick (01 R16 to R18, 06 R127 to R145). `rows` holds the rows that its 32 names map to and that are not
zero; `extent` and `dirty` are R145's; `renames` is its part of the rename pool beside its snapshots (06 R143); `flights` counts the
vector memory forms that it has left to be performed. -/
structure Wick where
  th : Thread
  state : WickState
  queue : List Block
  tepc : Word
  code : BitVec 8
  tval : Word
  reported : Bool
  stopcode : BitVec 8
  stopPend : Bool
  vl : BitVec 16
  vrows : BitVec 4
  vstart : BitVec 18
  split : Bool
  vlcapLg : BitVec 4
  ap : Vector Word 4
  apStride : Vector (BitVec 32) 4
  apEsz : Vector (BitVec 3) 4
  pipeItems : BitVec 56
  pipeDepth : BitVec 3
  pipepass : Word
  vrot : BitVec 5
  smode : BitVec 7
  pred : BitVec 7
  mkBase : BitVec 15
  mkReg : BitVec 3
  rows : Tab (BitVec 65536)
  masks : Tab (BitVec 32768)
  dirty : BitVec 32
  extent : Tab Nat
  vmem : Option VMem
  fetch : Option TileFetch
  renames : List Rename
  flights : Nat
  deriving DecidableEq, Repr

/-- A block in the broadcast unit's replay window: the block, the wicks that have not accepted it, and the ac of each refusal whose
back-off is not over (05 R114, R115). -/
structure WinBlock where
  block : Block
  left : BitVec 8
  refused : Tab Nat
  deriving DecidableEq, Repr

/-- The issue slot (05 R111, R112): policy, GTO age order (oldest first), greedy wick, its consecutive issues, the wick that
issued last and the ac in which it did, and the wicks whose move to youngest takes effect after this ac's selection (22 R429). -/
structure Issue where
  rr : Bool
  age : List (Fin 8)
  greedy : Option (Fin 8)
  count : Nat
  last : Fin 8
  issuedAt : Option Nat
  moves : BitVec 8
  deriving DecidableEq, Repr

/-- One accumulator tile: its rows of 256 cells that are not zero, its dirty bit, and whether a save has written its image
(10 R230, R238). -/
structure Tile where
  rows : Tab (BitVec 8192)
  dirty : Bool
  imaged : Bool
  deriving DecidableEq, Repr

/-- One entry of the accumulator-ownership table (10 R237, 11 R257). `dk` and `dv` are 0 on a tile that is not a vigil. -/
structure Owner where
  owner : Option (Fin 8)
  pinned : Bool
  vigil : Bool
  dk : BitVec 9
  dv : BitVec 8
  tokens : Word
  hidx : BitVec 32
  handle : Word
  deriving DecidableEq, Repr

/-- A barrier object (15 R334): generation, open mask, arrivals. -/
structure Bar where
  gen : BitVec 32
  mask : BitVec 36
  arrived : BitVec 36
  deriving DecidableEq, Repr

/-- A lantern window (16 R345). A read window's `snap` is the snapshot itself, and `moved` is whether the owner has taken fresh rows for
the names since, so that the snapshot counts towards its pool holding (16 R347); a landing window's `snap` is empty and its rows are
the owner's, from `first` on, in the mode of export. -/
structure Window where
  valid : Bool
  owner : Fin 8
  landing : Bool
  tag : BitVec 16
  rows : BitVec 4
  rb : BitVec 14
  gen : BitVec 32
  first : Nat
  split : Bool
  snap : List (BitVec 65536)
  moved : Bool := false
  deriving DecidableEq, Repr

/-- A copy in a channel's queue (13 R302 to R305): its identifier, its set-up, the launching thread and the rounding mode resolved at
launch, how many elements of it are done, whether a superstep in progress waits for it (15 R338), and the page request it waits for. -/
structure Copy where
  id : BitVec 16
  setup : CopySetup
  rm : BitVec 3
  who : Who
  done : Nat
  started : Bool
  hold : Bool
  wait : Option PageWait
  deriving DecidableEq, Repr

/-- A copy channel (13 R296, R302, R305): its queue, the last sequence number given, the error it holds (cause, identifier), and the ac
at which its head last moved (18 R395). -/
structure Chan where
  queue : List Copy
  seq : BitVec 14
  error : Option (BitVec 8 × BitVec 16)
  movedAt : Nat
  deriving DecidableEq, Repr

/-- A SEND in the core's queue (16 R354, R355): its data, destination, flag set-up, the back-off and limit of psback, the bytes sent,
refusals so far, the ac of a refusal whose back-off it waits for, whether a superstep in progress waits for it (15 R338), the page
request it waits for, and the ac at which it last moved (18 R395). -/
structure Send where
  who : Who
  hold : Bool
  data : List Byte
  landing : Bool
  dest : Word
  psflag : Word
  pscfg : Word
  count : Nat
  limit : Nat
  sent : Nat
  refusals : Nat
  refusedAt : Option Nat
  wait : Option PageWait
  movedAt : Nat
  deriving DecidableEq, Repr

/-- A gang core: its threads and every unit the manual gives one core of a gang (00 R1, 01 R13). `stepMask` is the taper's STEP mask
once it has arrived and `stepWicks` the wicks that have arrived (15 R337). -/
structure Core where
  taper : Taper
  wicks : Vector Wick 8
  issue : Issue
  bcbackoff : BitVec 16
  window : List WinBlock
  tiles : Vector Tile 4
  owners : Vector Owner 4
  resident : Fin 4
  refill : Vector (Option Nat) 4
  bars : Vector Bar 16
  windows : Vector Window 8
  chans : Vector Chan 4
  sends : List Send
  psLimit : BitVec 16
  psCount : BitVec 16
  cycle : Word
  pfissued : Word
  pfused : Word
  pflate : Word
  pfdropped : Word
  triggered : Bool
  stepMask : Option (BitVec 9)
  stepWicks : BitVec 8
  job : Option TileJob
  deriving DecidableEq, Repr

/-- A launch descriptor's fields (17 R364). -/
structure Desc where
  entry : Word
  args : Word
  gtag : BitVec 16
  ncm1 : BitVec 7
  nsm1 : BitVec 4
  prio : BitVec 2
  dep : BitVec 2
  lg : BitVec 4
  wmen : Bool
  stages : BitVec 96
  wmslot : BitVec 12
  wmbound : Word
  crec : Word
  deriving DecidableEq, Repr

/-- Where a gang stands (01 R9, R22 to R27, 17 R368, R378). -/
inductive Life where
  /-- Placed; its threads run. -/
  | running
  /-- Stopped at instruction boundaries, its quads still held, its save to come. -/
  | stopping
  /-- Saved in its slots; a candidate unless its VF is stopped. -/
  | saved
  /-- Placed again; its restore to come. -/
  | restoring
  deriving DecidableEq, Repr

/-- The joined tile of a gang quad, and which of its cores have issued an MQUAD (10 R254). -/
structure Quad where
  joined : Option (Fin 4)
  deriving DecidableEq, Repr

/-- A gang (01 R9 to R13, R22 to R27, 17 R364 to R378). `preempt` is whether the dispatcher has chosen it for pre-emption, and `forLayout`
whether for a layout commit alone (17 R376); `sealed`
is the ciphertext of its context slots, by physical byte, as the root wrote it (19 R406). -/
structure Gang where
  vf : Nat
  ring : Fin 4
  seq : BitVec 32
  desc : Desc
  life : Life
  quads : List Nat
  cores : Tab Core
  qbars : Tab Bar
  quadMode : Tab Quad
  stepMember : Bool
  tokens : Word
  wcause : BitVec 8
  wcore : BitVec 8
  wwick : BitVec 8
  nfault : BitVec 8
  dcode : BitVec 8
  dcause : BitVec 8
  dcore : BitVec 8
  ndouble : BitVec 8
  slots : List Nat
  candAt : Nat
  placedAt : Nat
  progressAt : Nat
  saves : Nat
  debugStop : Bool
  preempt : Bool
  forLayout : Bool
  sealed : Tab Byte
  deriving DecidableEq, Repr

/-- A completion record that waits to be written (17 R367): its address, its 32 bytes, and whether the ring's irq is asked. -/
structure Compl where
  crec : Word
  gtag : BitVec 16
  bytes : List Byte
  wait : Option PageWait
  deriving DecidableEq, Repr

/-- A descriptor taken at rp that waits to be placed: its age is the time of becoming a candidate (17 R366, R368). -/
structure Pending where
  desc : Desc
  candAt : Option Nat
  deriving DecidableEq, Repr

/-- A launch ring of a VF (17 R361 to R363, R366): descriptors rp to avail - 1 are pending, `head` is the one at rp once it is read.
`last` is the gang of the launch that the ring took last, none when that counts as triggered and ended. -/
structure Ring where
  base : Word
  lgsize : BitVec 5
  en : Bool
  irq : Bool
  wp : BitVec 32
  rp : BitVec 32
  avail : BitVec 32
  err : BitVec 8
  stopped : Bool
  done : BitVec 32
  head : Option Pending
  last : Option Nat
  compl : List Compl
  deriving DecidableEq, Repr

/-- A record for the fault queue (09 R221). -/
structure FaultRec where
  va : Word
  ipa : Nat
  gtag : BitVec 16
  core : BitVec 8
  who : BitVec 8
  cause : BitVec 8
  kind : BitVec 8
  place : BitVec 8
  deriving DecidableEq, Repr

/-- An entry of a VF's page-request queue (09 R222), and the ac since when it stands there (18 R395). -/
structure PageReq where
  id : Nat
  region : Nat
  mask : BitVec 16
  kinds : BitVec 8
  since : Nat
  deriving DecidableEq, Repr

/-- An invalidation in progress (09 R227): its first 4 KiB page, how many, or everything; the host command that it completes, and the
granules that the root then zeroes (19 R402, R404). -/
structure Inval where
  lo : Nat
  pages : Nat
  all : Bool
  seq : Option (BitVec 32)
  zero : List Nat
  deriving DecidableEq, Repr

/-- What follows a pause (17 R379, R380, 19 R408, R412). -/
inductive PauseThen where
  | nothing | evict | functionReset
  deriving DecidableEq, Repr

/-- A pause in progress: the host command that it completes, and what follows it. -/
structure Pausing where
  seq : Option (BitVec 32)
  andThen : PauseThen
  deriving DecidableEq, Repr

/-- The TDISP state of a confidential VF (19 R408). -/
inductive Tdisp where
  | unlocked | run | error
  deriving DecidableEq, Repr

/-- A VF that exists: its register block, the limits of its policy and what host commands have set (17 R361, R379, 19 R401); `ideKey` is the
key of its IDE stream, 0 before a session sets one (19 R405, R408). -/
structure Vf where
  gen : BitVec 32
  policy : Policy
  part : Nat
  state : BitVec 2
  rings : Vector Ring 4
  fqbase : Word
  fqLg : BitVec 5
  fqEn : Bool
  fqhead : BitVec 32
  fqtail : BitVec 32
  fqovf : Word
  s1root : Word
  s1done : BitVec 32
  inval1 : List Inval
  inval2 : List Inval
  errAnswers : BitVec 16
  errCompl : BitVec 16
  cmpwr : Word
  cmpfall : Word
  cmprd : Word
  bal : Nat
  debt : Nat
  cred : Nat
  contrib : Nat
  owing : Nat
  quota : Nat
  borrow : Bool
  nextQuota : Nat
  nextBorrow : Bool
  prioCap : BitVec 2
  ctxBase : Nat
  ctxSlots : Nat
  saveCount : Nat
  ctxKey : Nat
  s2root : Nat
  wayMask : BitVec 16
  wayGone : BitVec 16
  waySeq : Option (BitVec 32)
  dlogBase : Nat
  dlogLg : Option Nat
  dlogHead : Nat
  dlogTail : Nat
  dlogWait : List Word
  reqs : List PageReq
  faults : List FaultRec
  faultWait : Option PageWait
  pausing : Option Pausing
  pausedAt : Option Nat
  tdisp : Tdisp
  ideKey : Nat
  everRan : Bool
  deriving DecidableEq, Repr

/-- A candidate of a dispatcher: the launch at the head of a ring, or a saved gang (17 R366, R368). -/
inductive CandId where
  | head (vf : Nat) (ring : Fin 4) | gang (g : Nat)
  deriving DecidableEq, Repr

/-- A partition (15 R337, 16 R355, 17 R369, R375): its quads, its step generation, the tenant keys of its peer-accept list, its torus
domain, the candidate that blocks all others, the quads that serve one candidate only, and the ac at which the watchdog last tripped for a
unit of it (18 R395). -/
structure Part where
  quads : List Nat
  stepGen : BitVec 32
  peers : List Nat
  domain : List Nat
  hold : Option CandId
  reserved : List (Nat × CandId)
  trippedAt : Nat := 0
  deriving DecidableEq, Repr

/-- A cached translation (09 R219): VF, virtual page base, page size, physical base, permissions of both stages, D, WCH, CMP, the
intermediate base, and the 4 KiB pages of the stage-1 tables that gave it. -/
structure TlbEntry where
  vf : Nat
  va : Nat
  lg : Nat
  pa : Nat
  ipa : Nat
  tables : List Nat
  r : Bool
  w : Bool
  x : Bool
  s1r : Bool
  s1w : Bool
  s1x : Bool
  d : Bool
  wch : Bool
  cmp : Bool
  deriving DecidableEq, Repr

/-- A table entry that a walker keeps: whose walk read it, where, and its value (09 R219). -/
structure WalkEntry where
  vf : Nat
  pa : Nat
  entry : Nat
  deriving DecidableEq, Repr

/-- A line of a scalar data cache or of an instruction cache: its 64-byte line number, its bytes, the ac of its fill, and whether a
prefetch brought it and no fetch has hit it yet (04 R100, R101, 12 R295). -/
structure CacheLine where
  line : Nat
  data : BitVec 512
  filled : Nat
  ahead : Bool
  deriving DecidableEq, Repr

/-- What a physical core holds that is not the gang's: its scalar data cache, instruction cache and TLB (00 R1, 04 R100, 09 R219). -/
structure PCore where
  dcache : List CacheLine
  icache : List CacheLine
  tlb : List TlbEntry
  deriving DecidableEq, Repr

/-- What a line of the L2 is tagged by (12 R274, R281). -/
inductive L2Tag where
  | linear (line : Nat)
  | tile (vf tid bidx m0 k0 : Nat)
  deriving DecidableEq, Repr

/-- A sector's state in the L2 (12 R275). -/
structure Sector where
  valid : Bool
  dirty : Bool
  mask : BitVec 16
  deriving DecidableEq, Repr

/-- A line of the L2 (12 R274 to R283): place, tag, owner VF, sectors; a tile line's bytes, the 4 KiB
intermediate pages that they came from, the tile fetches that pin it and its stale mark; the core whose prefetch brought it while no demand has hit it, and whether that prefetch is in flight; whether its page is
BF16-compressible. The list of lines is in order of recency, the most recent first. -/
structure L2Line where
  slice : Nat
  set : Nat
  way : Nat
  tag : L2Tag
  vf : Nat
  sectors : Vector Sector 4
  data : List Byte
  backing : List Nat := []
  pins : List (Nat × Nat)
  stale : Bool
  prefetched : Option (Nat × Nat)
  inflight : Bool
  cmp : Bool
  deriving DecidableEq, Repr

/-- A line of the bypass buffer that a tile fetch of a VF with an empty way mask pins (12 R280): its slice, the core, the tile line's tag and
its bytes. -/
structure BypassLine where
  slice : Nat
  gang : Nat
  core : Nat
  tag : L2Tag
  data : List Byte
  deriving DecidableEq, Repr

/-- The last plain writer of a watched sector (14 R330). -/
structure WatchRec where
  gang : Nat
  gtag : BitVec 16
  core : Nat
  who : Who
  epoch : BitVec 16
  deriving DecidableEq, Repr

/-- A Wapin port (16 R359, 18 R397): whether it is up, whether each direction's spare lane is used, the next sequence number it sends and
expects, its replay window, its receive buffer, its run of failed tags, and the keys of its two directions by confidential partition
(19 R405). -/
structure Port where
  up : Bool
  spareTx : Bool
  spareRx : Bool
  txSeq : Nat
  rxSeq : Nat
  replay : List LinkFlit
  buffer : List LinkFlit
  tagFails : Nat
  keys : Tab (Nat × Nat)
  deriving DecidableEq, Repr

/-- A request to another device that no reply has answered: whose partition's, to which device, and the ac since when (18 R397). -/
structure LinkRequest where
  part : Nat
  dev : Nat
  since : Nat
  deriving DecidableEq, Repr

/-- What the root records of a granule of local HBM (19 R402): the confidential VF that owns it, by number and generation, with how many of
its mappings name it; unmapped, its invalidation to come; or being zeroed. -/
inductive GranuleState where
  | owned (vf : Nat) (gen : BitVec 32) (maps : Nat) | leaving | zeroing
  deriving DecidableEq, Repr

/-- The answer to an attestation request: the VF that it names, whether it is signed, and the measurement blocks 1 to 5 with, for a VF that
exists, its policy's hash and conf (19 R407, R408). -/
structure Attest where
  vf : Nat
  ok : Bool
  blocks : List Nat
  deriving DecidableEq, Repr

/-- A completion of a host command (19 R400): sequence number and status. -/
structure CmdDone where
  seq : BitVec 32
  status : Nat
  deriving DecidableEq, Repr

/-- What the root and the management processor hold (19 R399 to R416): `completions` is the PF's completion ring and `requests` its request
ring, in the order written; `failedReset` is the report of a reset that too many failed channels stopped (12 R290). -/
structure Root where
  mcpUp : Bool
  granules : Tab GranuleState
  completions : List CmdDone
  identityLeaf : Nat
  sessionKey : Bool
  sessionLeaf : Nat
  flash : Option Firmware
  running : Option Firmware
  fuse : Nat
  recovery : Bool
  unlocked : Bool
  armed : Bool
  nextHandle : Tab (BitVec 32)
  nextKey : Nat
  corrected : Tab Nat
  attests : List Attest
  requests : List (List Byte)
  failedReset : Bool
  deriving DecidableEq, Repr

/-- The clock and the power controller (19 R414). -/
structure Power where
  step : ClockStep
  cap : Nat
  stopped : Bool
  deriving DecidableEq, Repr

/-- One move of one agent: a thread takes its next step, or an event of the table happens (log 1). -/
inductive Move where
  | thread (t : Tid)
  | event (i : Instr)
  deriving DecidableEq, Repr

/-- One entry of the agenda: the ac that pass before the move, which queued accesses are performed before it (the k-th of a thread's
queue) and then which cores' tile fetches go on (gang and core) (log 1, log 3); if they change, the sectors of host memory that the
host's root port refuses to read (08 R209; log 10), and the devices from which no reply comes (18 R397; log 10); whether a load that the move makes is left to be performed later (log 3); and the
wicks that the scoreboard or their pipe class keeps from being slot-ready in its ac (05 R107, R109; log 2). -/
structure Turn where
  ac : Nat
  perf : List (Tid × Nat)
  move : Move
  denied : Option (List Nat) := none
  silent : Option (List Nat) := none
  jobs : List (Nat × Nat) := []
  late : Bool := false
  busy : List Tid := []
  deriving DecidableEq, Repr

/-- The module. -/
structure State where
  agenda : List Turn
  cur : Tid
  free : Nat
  nextGang : Nat
  ac : Nat
  time : Nat
  coord : BitVec 14
  denied : List Nat
  silent : List Nat
  linkReqs : List LinkRequest
  late : Bool
  busy : List Tid
  mem : Mem
  poison : List Nat
  watch : Tab WatchRec
  l2 : List L2Line
  bypass : List BypassLine
  compressed : Tab (List Byte)
  chanMap : Tab Nat
  chanFailed : List Nat
  activations : Tab Nat
  held : List (Nat × Nat)
  actAt : Nat
  dieTlb : Vector (List TlbEntry) 4
  walkers : Vector (List WalkEntry) 4
  pcores : Tab PCore
  gangs : Tab Gang
  vfs : Tab Vf
  parts : Tab Part
  quadMap : Tab Nat
  layoutVer : BitVec 32
  shadow : Option (BitVec 32 × LayoutTables)
  periodAt : Nat
  tensors : Tab Tensor
  tensorBlocks : Tab Nat
  marks : Tab Word
  markBlocks : Tab Nat
  landing : List LandingFlit
  ports : Vector Port 6
  msi : List (Nat × Nat)
  root : Root
  power : Power
  ready : Bool
  deriving DecidableEq, Repr

/-- A sector with nothing in it. -/
def Sector.empty : Sector := { valid := false, dirty := false, mask := 0 }

/-- The copy set-up CSRs at gang start (13 R298): zero but the four counts, which are 1. -/
def CopySetup.start : CopySetup :=
  { src := 0, dst := 0, dim := #v[1, 1, 1, 1], str := #v[0, 0, 0, 0], fmt := 0, xf := 0, flag := 0, ch := 0 }

/-- A thread at gang start (01 R12). -/
def Thread.start : Thread :=
  { x := Vector.replicate 32 0, pc := 0, fflags := 0, vtype := 0, rkey0 := 0, rkey1 := 0, rctr := 0, copy := CopySetup.start,
    psflag := 0, pscfg := 0, psCode := 0, psFails := 0, event := false, relCount := 0, wait := none, pend := [] }

/-- A taper that has not started (01 R10, 18 R384). -/
def Taper.start : Taper :=
  { th := Thread.start, run := .unstarted, tvec := 0, act := false, disp := 0, ev := false, evWick := 0, code := 0, tval := 0,
    tepc := 0, hidden := 0, arrival := none }

/-- A wick at gang start (01 R12, 06 R130 to R140). -/
def Wick.start : Wick :=
  { th := Thread.start, state := .idle, queue := [], tepc := 0, code := 0, tval := 0, reported := false, stopcode := 0,
    stopPend := false, vl := 0, vrows := 1, vstart := 0, split := false, vlcapLg := 11, ap := Vector.replicate 4 0,
    apStride := Vector.replicate 4 0, apEsz := Vector.replicate 4 0, pipeItems := 0, pipeDepth := 0, pipepass := 0, vrot := 0,
    smode := 0, pred := 0, mkBase := 0, mkReg := 0, rows := [], masks := [], dirty := 0, extent := [], vmem := none,
    fetch := none, renames := [], flights := 0 }

/-- The issue slot at gang start: GTO, wick 0 oldest (05 R111, R112). -/
def Issue.start : Issue := { rr := false, age := [0, 1, 2, 3, 4, 5, 6, 7], greedy := none, count := 0, last := 7, issuedAt := none, moves := 0 }
/-- A tile at gang start (01 R12). -/
def Tile.zero : Tile := { rows := [], dirty := false, imaged := false }
/-- A free ownership entry (10 R237). -/
def Owner.free : Owner :=
  { owner := none, pinned := false, vigil := false, dk := 0, dv := 0, tokens := 0, hidx := 0, handle := 0 }
/-- A barrier object at gang start (15 R334). -/
def Bar.zero : Bar := { gen := 0, mask := 0, arrived := 0 }
/-- A window at gang start (16 R345). -/
def Window.zero : Window :=
  { valid := false, owner := 0, landing := false, tag := 0, rows := 0, rb := 0, gen := 0, first := 0, split := false, snap := [] }
/-- A channel at gang start (13 R296). -/
def Chan.zero : Chan := { queue := [], seq := 0, error := none, movedAt := 0 }

/-- A gang core at gang start, its taper not yet begun (01 R12). -/
def Core.start : Core :=
  { taper := Taper.start, wicks := Vector.replicate 8 Wick.start, issue := Issue.start, bcbackoff := 16, window := [],
    tiles := Vector.replicate 4 Tile.zero, owners := Vector.replicate 4 Owner.free, resident := 0,
    refill := Vector.replicate 4 none, bars := Vector.replicate 16 Bar.zero, windows := Vector.replicate 8 Window.zero,
    chans := Vector.replicate 4 Chan.zero, sends := [], psLimit := 0, psCount := 63, cycle := 0, pfissued := 0, pfused := 0,
    pflate := 0, pfdropped := 0, triggered := false, stepMask := none, stepWicks := 0, job := none }

/-- A descriptor with every field zero. -/
def Desc.zero : Desc :=
  { entry := 0, args := 0, gtag := 0, ncm1 := 0, nsm1 := 0, prio := 0, dep := 0, lg := 0, wmen := false, stages := 0, wmslot := 0,
    wmbound := 0, crec := 0 }

/-- A gang as its placement finds it, before its descriptor is filled in. -/
def Gang.start : Gang :=
  { vf := 0, ring := 0, seq := 0, desc := Desc.zero, life := .running, quads := [], cores := [], qbars := [], quadMode := [],
    stepMember := false, tokens := 0, wcause := 0, wcore := 0, wwick := 0, nfault := 0, dcode := 0, dcause := 0, dcore := 0,
    ndouble := 0, slots := [], candAt := 0, placedAt := 0, progressAt := 0, saves := 0, debugStop := false, preempt := false, forLayout := false, sealed := [] }

/-- A launch ring after reset (17 R362; log 14 for what the manual gives no reset value). -/
def Ring.reset : Ring :=
  { base := 0, lgsize := 4, en := false, irq := false, wp := 0, rp := 0, avail := 0, err := 0, stopped := false, done := 0, head := none, last := none,
    compl := [] }

/-- A tenant policy that limits nothing: the VF that withFetchWord makes (log 5). -/
def Policy.open : Policy :=
  { version := 0, key := 0, conf := false, qmin := 0, pmin := 0, wmin := 0, pausemaxMs := 0, peers := [], cotenant := true,
    fwmin := 0, hash := 0, verifies := true }

/-- A new VF (17 R361, R362, 12 R278, 19 R401; log 14). -/
def Vf.new (gen : BitVec 32) (p : Policy) : Vf :=
  { gen := gen, policy := p, part := 31, state := 0, rings := Vector.replicate 4 Ring.reset, fqbase := 0, fqLg := 5, fqEn := false,
    fqhead := 0, fqtail := 0, fqovf := 0, s1root := 0, s1done := 0, inval1 := [], inval2 := [], errAnswers := 0, errCompl := 0,
    cmpwr := 0, cmpfall := 0, cmprd := 0, bal := 0, debt := 0, cred := 0, contrib := 0, owing := 0, quota := 0, borrow := false, nextQuota := 0,
    nextBorrow := false, prioCap := 0, ctxBase := 0, ctxSlots := 0, saveCount := 0, ctxKey := 0, s2root := 0, wayMask := 0xFFFF,
    wayGone := 0, waySeq := none, dlogBase := 0, dlogLg := none, dlogHead := 0, dlogTail := 0, dlogWait := [], reqs := [], faults := [],
    faultWait := none, pausing := none, pausedAt := none, tdisp := .unlocked, ideKey := 0, everRan := false }

/-- A partition as a layout commit creates it (17 R376). -/
def Part.new (quads peers domain : List Nat) : Part :=
  { quads := quads, stepGen := 0, peers := peers, domain := domain, hold := none, reserved := [] }

/-- A physical core after reset: empty caches (log 14). -/
def PCore.reset : PCore := { dcache := [], icache := [], tlb := [] }
/-- A Wapin port after it has trained (19 R413). -/
def Port.reset : Port :=
  { up := true, spareTx := false, spareRx := false, txSeq := 0, rxSeq := 0, replay := [], buffer := [], tagFails := 0, keys := [] }

/-- The root after a cold reset of a module whose flash holds a verifying image (19 R413; log 14). -/
def Root.reset : Root :=
  { mcpUp := true, granules := [], completions := [], identityLeaf := 1, sessionKey := true, sessionLeaf := 0,
    flash := some { version := 0, lowestRom := 0, verifies := true }, running := some { version := 0, lowestRom := 0, verifies := true },
    fuse := 0, recovery := false, unlocked := false, armed := false, nextHandle := [], nextKey := 1,
    corrected := [], attests := [], requests := [], failedReset := false }

/-- The module right after a cold reset (19 R413): HBM zero, every register file zero, no gang, no VF, no partition; it accepts
commands. -/
def State.reset : State :=
  { agenda := [], cur := { gang := 0, core := 0, who := .taper }, free := 0, nextGang := 0, ac := 0, time := 0, coord := 0, denied := [], silent := [], linkReqs := [], late := false, busy := [], mem := [],
    poison := [], watch := [], l2 := [], bypass := [], compressed := [], chanMap := [], chanFailed := [], activations := [], held := [], actAt := 0,
    dieTlb := Vector.replicate 4 [], walkers := Vector.replicate 4 [], pcores := [], gangs := [], vfs := [], parts := [], quadMap := [], layoutVer := 0, shadow := none,
    periodAt := 0, tensors := [], tensorBlocks := [], marks := [], markBlocks := [], landing := [], ports := Vector.replicate 6 Port.reset,
    msi := [], root := Root.reset, power := { step := .mhz1050, cap := 3000, stopped := false }, ready := true }

end Sys2Proof.Machine
end

