-- ==== Sys2Proof/Machine/Tab.lean ====
section
/-! DEFINITION. Tables from numbers to data, and byte-addressed memory in canonical form (log 4). -/

namespace Sys2Proof.Machine

/-- The entry of a number. -/
def tabGet? {α : Type} : Tab α → Nat → Option α
  | [], _ => none
  | (a, v) :: t, k => if a = k then some v else tabGet? t k

/-- The entry of a number, or a default. -/
def tabGet {α : Type} (d : α) (t : Tab α) (k : Nat) : α := (tabGet? t k).getD d

/-- The table with the entry of a number set. -/
def tabPut {α : Type} : Tab α → Nat → α → Tab α
  | [], k, v => [(k, v)]
  | (a, w) :: t, k, v => if a = k then (k, v) :: t else if k < a then (k, v) :: (a, w) :: t else (a, w) :: tabPut t k v

/-- The table without a number. -/
def tabDel {α : Type} : Tab α → Nat → Tab α
  | [], _ => []
  | (a, w) :: t, k => if a = k then tabDel t k else (a, w) :: tabDel t k

/-- The byte at an address; an unlisted address reads as zero (log 4). -/
def memByte : Mem → Nat → Byte
  | [], _ => 0
  | (x, v) :: t, a => if x = a then v else memByte t a

/-- Memory with the byte at an address set; zero is not listed. -/
def memPut (m : Mem) (a : Nat) (b : Byte) : Mem := if b = 0 then tabDel m a else tabPut m a b

/-- The canonical form: every address above `lo`, rising, and no listed byte zero. -/
def memFrom : Nat → Mem → Bool
  | _, [] => true
  | lo, (x, v) :: t => lo ≤ x && v != 0 && memFrom (x + 1) t

/-- The canonical form of memory (log 4). -/
def Memory.wf (m : Mem) : Bool := memFrom 0 m

/-- `n` bytes from an address, little-endian (00 R4). -/
def memRead (m : Mem) (a : Nat) : Nat → Nat
  | 0 => 0
  | n + 1 => (memByte m a).toNat + 256 * memRead m (a + 1) n

/-- Memory after `n` bytes are written from an address, little-endian (00 R4). -/
def memWrite (m : Mem) (a : Nat) : Nat → Nat → Mem
  | 0, _ => m
  | n + 1, v => memPut (memWrite m (a + 1) n (v / 256)) a (BitVec.ofNat 8 v)

/-- Memory after a list of bytes is written from an address. -/
def memWriteBytes (m : Mem) (a : Nat) : List Byte → Mem
  | [] => m
  | b :: bs => memPut (memWriteBytes m (a + 1) bs) a b

/-- `n` bytes from an address, the lowest address first. -/
def memBytes (m : Mem) (a : Nat) : Nat → List Byte
  | 0 => []
  | n + 1 => memByte m a :: memBytes m (a + 1) n

/-- The little-endian bytes of a number. -/
def leBytes : Nat → Nat → List Byte
  | 0, _ => []
  | n + 1, v => BitVec.ofNat 8 v :: leBytes n (v / 256)

/-- The number of little-endian bytes. -/
def leNat : List Byte → Nat
  | [] => 0
  | b :: bs => b.toNat + 256 * leNat bs

/-- The bits of `b` under the mask, the others from `old` (08 R202). -/
def mergeByte (old mask b : Byte) : Byte := (old &&& ~~~mask) ||| (b &&& mask)

/-- Memory after the bytes of a queued store. -/
def memPend (m : Mem) : List PendByte → Mem
  | [] => m
  | p :: ps => memPend (memPut m p.pa (mergeByte (memByte m p.pa) p.mask p.val)) ps

/-- The first `n` naturals from `lo`. -/
def natsFrom (lo : Nat) : Nat → List Nat
  | 0 => []
  | n + 1 => lo :: natsFrom (lo + 1) n

/-- Whether one bit of a vector is set. -/
abbrev bitOf {n : Nat} (v : BitVec n) (i : Nat) : Bool := v.getLsbD i

/-- A vector with one bit set or cleared. -/
def setBit {n : Nat} (v : BitVec n) (i : Nat) (b : Bool) : BitVec n :=
  if b then v ||| BitVec.ofNat n (2 ^ i) else v &&& ~~~BitVec.ofNat n (2 ^ i)

/-- A function over every place of a vector, as data that evaluates place by place. -/
def vmap {α β : Type} {n : Nat} (f : α → β) (v : Vector α n) : Vector β n := ⟨⟨v.toList.map f⟩, by simp⟩

/-- The vector of a function's values, as data that evaluates place by place. -/
def vof {α : Type} {n : Nat} (f : Fin n → α) : Vector α n := ⟨⟨(List.finRange n).map f⟩, by simp⟩

/-- An element of a vector of fixed length, by number. -/
abbrev vget {α : Type} {n : Nat} (v : Vector α n) (i : Fin n) : α := v[i]

/-- A number as an index below 4 (its low two bits). -/
abbrev fin4 (n : Nat) : Fin 4 := ⟨n % 4, Nat.mod_lt _ (by decide)⟩
/-- A number as an index below 8 (its low three bits). -/
abbrev fin8 (n : Nat) : Fin 8 := ⟨n % 8, Nat.mod_lt _ (by decide)⟩
/-- A number as an index below 16. -/
abbrev fin16 (n : Nat) : Fin 16 := ⟨n % 16, Nat.mod_lt _ (by decide)⟩

end Sys2Proof.Machine
end

