-- ==== Sys2Proof/Machine/Compress.lean ====
section
/-! DEFINITION. Where a line of local HBM lies (12 R289, R290), and the stored form of a BF16-compressible line (12 R291, R292). -/

namespace Sys2Proof.Machine

/-- The logical bank of a line (12 R289). -/
def bankOf (line : Nat) : Nat := line % 127
/-- The channel of a line within its bank (12 R289). -/
def bankChannel (line : Nat) : Nat := line / 127 % 3
/-- The line within its channel (12 R289). -/
def channelLine (line : Nat) : Nat := line / 381
/-- The logical channel of a line, among 381: three to a bank (12 R289, R290). -/
def logicalChannel (line : Nat) : Nat := 3 * bankOf line + bankChannel line

/-- The exponent fields of the elements of a group that are not ±0 (12 R291). -/
def groupExps (es : List Nat) : List Nat := (es.filter fun v => v % 2 ^ 15 != 0).map fun v => v / 128 % 256

/-- E of a group: its least exponent field; 0 for a group of zeros (12 R291). -/
def groupBase (es : List Nat) : Nat :=
  match groupExps es with
  | [] => 0
  | e :: t => t.foldl min e

/-- Whether a group of 32 BF16 values is compressible: the field of each element that is not ±0 lies in E to E + 6 (12 R291). -/
def groupCompressible (es : List Nat) : Bool := (groupExps es).all fun e => e ≤ groupBase es + 6

/-- The 11 bits of an element of a compressed group: its sign, then the offset of its exponent, 7 for ±0, then its mantissa (12 R291). -/
def packElem (base v : Nat) : Nat :=
  v / 2 ^ 15 % 2 + 2 * ((if v % 2 ^ 15 == 0 then 7 else v / 128 % 256 - base) + 8 * (v % 128))

/-- The element that 11 stored bits stand for (12 R291, R292). -/
def unpackElem (base x : Nat) : Nat :=
  let off := x / 2 % 8
  (x % 2) * 2 ^ 15 + (if off == 7 then 0 else (base + off) * 128 + x / 16 % 128)

/-- Elements packed one after another, 11 bits each. -/
def packElements (base : Nat) : List Nat → Nat
  | [] => 0
  | v :: vs => packElem base v + 2 ^ 11 * packElements base vs

/-- The 360 bits of a compressed group: E, then its 32 elements (12 R291). -/
def packGroup (es : List Nat) : Nat := groupBase es + 256 * packElements (groupBase es) es

/-- The elements that a compressed group stands for (12 R292). -/
def unpackGroup (x : Nat) : List Nat := (natsFrom 0 32).map fun n => unpackElem (x % 256) (x / 256 / 2 ^ (11 * n) % 2 ^ 11)

/-- The 32 BF16 values of a 64-byte group at a physical address. -/
def bf16Group (m : Mem) (pa : Nat) : List Nat := (natsFrom 0 32).map fun i => memRead m (pa + 2 * i) 2

/-- Whether a 256-byte line is stored compressed (12 R291). -/
def lineCompressible (m : Mem) (line : Nat) : Bool :=
  (natsFrom 0 4).all fun g => groupCompressible (bf16Group m (line * 256 + 64 * g))

/-- The stored form of a compressible line: its four groups of 45 bytes (12 R291). -/
def packLine (m : Mem) (line : Nat) : List Byte :=
  (natsFrom 0 4).flatMap fun g => leBytes 45 (packGroup (bf16Group m (line * 256 + 64 * g)))

end Sys2Proof.Machine
end

