-- ==== Sys2Proof/Machine/Links.lean ====
section
/-! DEFINITION. Physical addresses and the devices that they name (09 R210, R211), and the links between devices: routes, flits, windows, and
the requests that no reply has answered (16 R358, R359, 18 R397, 19 R405). The data of a remote access stands in `State.mem` and is read and
written at once; its flit's time is timing (log 2). -/

namespace Sys2Proof.Machine

/-- The torus coordinates of a physical address (09 R210). -/
def paCoord (pa : Nat) : Nat := pa / 2 ^ 46 % 2 ^ 14
/-- The class of a physical address (09 R210). -/
def paClass (pa : Nat) : Nat := pa / 2 ^ 44 % 4
/-- The offset of a physical address (09 R210). -/
def paOffset (pa : Nat) : Nat := pa % 2 ^ 44
/-- Whether a physical address is local HBM (09 R211). -/
def localHbm (s : State) (pa : Nat) : Bool := paCoord pa == s.coord.toNat && paClass pa == 0
/-- Whether a physical address is host memory (09 R211). -/
def isHost (pa : Nat) : Bool := paClass pa == 2
/-- Whether a physical address names another device (09 R211). -/
def isRemote (s : State) (pa : Nat) : Bool := paCoord pa != s.coord.toNat
/-- The VF record, or a new one. -/
def State.vf (s : State) (v : Nat) : Vf := tabGet (Vf.new 0 Policy.open) s.vfs v
/-- The state with a VF's record changed. -/
def State.modVf (s : State) (v : Nat) (f : Vf → Vf) : State := { s with vfs := tabPut s.vfs v (f (s.vf v)) }

/-- The way round a ring of `n` from `a` to `b`: none when they are equal, else whether it is the positive one; equally long, it is
(16 R358). -/
def ringWay (n a b : Nat) : Option Bool :=
  let d := (b + n - a) % n
  if d == 0 then none else some (d ≤ n / 2)

/-- The port through which a flit to a device leaves: 0 to 5 are +x, -x, +y, -y, +z, -z; none for this device (16 R358). -/
def portTo (own dest : Nat) : Option (Fin 6) :=
  match ringWay 16 (own / 1024) (dest / 1024), ringWay 32 (own / 32 % 32) (dest / 32 % 32), ringWay 32 (own % 32) (dest % 32) with
  | some up, _, _ => some (if up then 0 else 1)
  | none, some up, _ => some (if up then 2 else 3)
  | none, none, some up => some (if up then 4 else 5)
  | none, none, none => none

/-- The state with a port changed. -/
def State.modPort (s : State) (port : Fin 6) (f : Port → Port) : State := { s with ports := s.ports.set port (f s.ports[port]) }

/-- Whether a partition is confidential: a VF of it is (19 R405). -/
def partConf (s : State) (part : Nat) : Bool := s.vfs.any fun (_, v) => v.part == part && v.policy.conf

/-- The keys of a port's two directions for a partition, agreed between the two roots when its first flit leaves (19 R405; log 41). -/
def linkKeys (s : State) (port : Fin 6) (part : Nat) : (Nat × Nat) × State :=
  match tabGet? s.ports[port].keys part with
  | some ks => (ks, s)
  | none =>
    let k := s.root.nextKey
    ((k, k + 1), { s.modPort port fun p => { p with keys := tabPut p.keys part (k, k + 1) } with root := { s.root with nextKey := k + 2 } })

/-- The payload of a flit as it leaves: ciphertext for a confidential partition, under the key of the direction and the flit's number
(19 R405, log 6). -/
def sealFlit (s : State) (port : Fin 6) (part : Nat) (bs : List Byte) : List Byte × State :=
  if partConf s part then
    let (ks, s) := linkKeys s port part
    ((bs.zip (natsFrom 0 bs.length)).map fun (b, i) => Config.cipherByte ks.1 (s.ports[port].txSeq) i b, s)
  else (bs, s)

/-- The flits that the replay window of a port holds (01 R31, log 6). -/
def windowRoom : Nat := Config.linkWindow + 1

/-- The flits that the receive buffer of a port holds in each class and virtual channel (01 R31, 16 R359, log 6). -/
def bufferRoom : Nat := Config.portRoom + 1

/-- A flit leaves through a port and stays in its replay window until the neighbour acknowledges it (16 R359). Where an access that cannot
wait finds the window full, the neighbour has acknowledged the oldest flit by the time that this one leaves (log 2). -/
def Port.push (p : Port) (f : LinkFlit) : Port :=
  { p with
    txSeq := p.txSeq + 1
    replay := (if p.replay.length < windowRoom then p.replay else p.replay.tail) ++ [{ f with seq := p.txSeq, ack := p.rxSeq }] }

/-- A device's place on the ring of a port, and the ring's length. -/
def ringPlace (dev : Nat) (port : Fin 6) : Nat × Nat :=
  if port.val < 2 then (dev / 1024, 16) else if port.val < 4 then (dev / 32 % 32, 32) else (dev % 32, 32)

/-- The virtual channel of a flit that leaves a device through a port: 0 as it enters the ring, 1 once it crosses coordinate 0, between the
last place and the first (16 R358; log 41). -/
def hopVc (own : Nat) (port : Fin 6) (vc : Bool) : Bool :=
  let (x, n) := ringPlace own port
  vc || (if port.val % 2 == 0 then x + 1 == n else x == 0)

/-- Bytes leave for another device through the port towards it; a lost port takes none (16 R358, R359, 18 R397). -/
def sendFlitOut (s : State) (part dest : Nat) (reply : Bool) (bs : List Byte) : State :=
  match portTo s.coord.toNat dest with
  | some port =>
    if !s.ports[port].up then s else
    let (bs, s) := sealFlit s port part bs
    s.modPort port (·.push
      { dest := dest, reply := reply, vc := hopVc s.coord.toNat port false, seq := 0, ack := 0, crcOk := true, tagOk := true, payload := bs })
  | none => s

/-- Whether a request to a device gets its reply: it is this device, or the port towards it is up and the device not silent
(18 R397; log 10). -/
def reachable (s : State) (dest : Nat) : Bool :=
  match portTo s.coord.toNat dest with
  | some port => s.ports[port].up && !s.silent.contains dest
  | none => true

/-- Whether a flit to a device need not wait: the replay window of its port has room (01 R30, R31). -/
def linkRoom (s : State) (dest : Nat) : Bool :=
  match portTo s.coord.toNat dest with
  | some port => s.ports[port].replay.length < windowRoom
  | none => true

/-- A request of a partition to a device that does not answer is outstanding, from the first one on (18 R397). -/
def noteRequest (s : State) (part dev : Nat) : State :=
  if reachable s dev || s.linkReqs.any (fun q => q.part == part && q.dev == dev) then s
  else { s with linkReqs := s.linkReqs ++ [{ part := part, dev := dev, since := s.ac }] }

/-- A device has answered: no request of the partition to it is outstanding. -/
def dropRequest (s : State) (part dev : Nat) : State :=
  if s.linkReqs.any (fun q => q.part == part && q.dev == dev) then
    { s with linkReqs := s.linkReqs.filter fun q => !(q.part == part && q.dev == dev) }
  else s

/-- A request to another device leaves as a flit: the address, and the bytes that it writes (16 R358, R359; log 41). -/
def requestFlit (s : State) (vf pa : Nat) (bs : List Byte) : State :=
  let part := (s.vf vf).part
  sendFlitOut (dropRequest s part (paCoord pa)) part (paCoord pa) false (leBytes 8 pa ++ bs)

/-- The bytes of a write to another device leave in flits of at most 128 bytes; `fuel` bounds them (16 R359). -/
def requestFlits (vf : Nat) : Nat → State → Nat → List Byte → State
  | 0, s, _, _ => s
  | fuel + 1, s, pa, bs =>
    if bs.isEmpty then s else requestFlits vf fuel (requestFlit s vf pa (bs.take 128)) (pa + 128) (bs.drop 128)

/-- A flit of another device's leaves a port's receive buffer: through the port towards its destination, in the channel of the ring that it
goes round; none while that port's window is full. A flit for this device is taken (16 R358, R359). -/
def forwardFlit (s : State) (port : Fin 6) (f : LinkFlit) : Option State :=
  match portTo s.coord.toNat f.dest with
  | none => some s
  | some out =>
    if !s.ports[out].up then some s
    else if s.ports[out].replay.length ≥ windowRoom then none
    else some (s.modPort out (·.push { f with vc := hopVc s.coord.toNat out (port.val / 2 == out.val / 2 && f.vc) }))

/-- The flits of a receive buffer go on, in order; those that wait are left. -/
def forwardAll (port : Fin 6) : List LinkFlit → State → List LinkFlit × State
  | [], s => ([], s)
  | f :: fs, s =>
    match forwardFlit s port f with
    | some s => forwardAll port fs s
    | none => let (l, s) := forwardAll port fs s; (f :: l, s)

/-- The ports' receive buffers empty into the device or onwards (16 R358). -/
def drainPorts (s : State) : State :=
  (List.finRange 6).foldl (fun s k =>
    if s.ports[k].buffer.isEmpty then s
    else
      let (l, s) := forwardAll k s.ports[k].buffer s
      s.modPort k fun p => { p with buffer := l }) s

end Sys2Proof.Machine
end

