-- ==== Sys2Proof/Machine/L2.lean ====
section
/-! DEFINITION. The directory of the shared cache and main memory behind it (12 R274 to R294): which lines are held, in which ways,
which sectors are valid and dirty, what eviction writes back. The bytes of linear lines stand in `State.mem` (log 17). -/

namespace Sys2Proof.Machine

/-- Whether the host's root port refuses a read or an atomic operation of a byte of host memory: which sectors it refuses comes from outside
(08 R209; log 10). -/
def hostRefuses (s : State) (pa : Nat) : Bool := isHost pa && s.denied.contains (pa / 64)
/-- The number of usable HBM bytes (09 R211). -/
def hbmBytes : Nat := 0xBE80000000

/-- The 64 B sector of a physical address. -/
abbrev sectorOf (pa : Nat) : Nat := pa / 64
/-- Whether the sector of a byte carries poison (12 R275). -/
def poisoned (s : State) (pa : Nat) : Bool := s.poison.contains (sectorOf pa)
/-- Whether any of `n` bytes carries poison. -/
def poisonedRange (s : State) (pa n : Nat) : Bool := (natsFrom pa n).any (poisoned s)

/-- Set bits of one nibble to sixteen words: the words of a sector that `n` bytes from `off` cover whole (12 R275). -/
def wholeWords (off n : Nat) : BitVec 16 :=
  (natsFrom 0 16).foldl (fun m w => if off ≤ 4 * w && 4 * w + 4 ≤ off + n then setBit m w true else m) 0
/-- Whether `n` bytes from `off` cover part of a word only (12 R275). -/
def partWord (off n : Nat) : Bool := off % 4 != 0 || (off + n) % 4 != 0

/-- The state with the record of a VF changed, if it exists still. -/
def State.countVf (s : State) (v : Nat) (f : Vf → Vf) : State :=
  match tabGet? s.vfs v with
  | some x => { s with vfs := tabPut s.vfs v (f x) }
  | none => s

/-- A written-back line of a CMP page is offered for compression and counted, its stored form kept with its flag; other lines are stored
plain (12 R291 to R293). -/
def writeBackLine (s : State) (vf line : Nat) (cmp : Bool) : State :=
  if cmp then
    if lineCompressible s.mem line then
      { s.countVf vf (fun v => { v with cmpwr := v.cmpwr + 1 }) with compressed := tabPut s.compressed line (packLine s.mem line) }
    else { s.countVf vf (fun v => { v with cmpfall := v.cmpfall + 1 }) with compressed := tabDel s.compressed line }
  else { s with compressed := tabDel s.compressed line }

/-- The physical channel of a line: its logical channel, or the spare that stands for it (12 R289, R290). -/
def channelOf (s : State) (line : Nat) : Nat := tabGet (logicalChannel line) s.chanMap (logicalChannel line)

/-- The number of the HBM row of a line: rows of different channels differ, which lines of one channel share a row is open (12 R294;
log 6). -/
def rowOfLine (s : State) (line : Nat) : Nat := channelOf s line * 2 ^ 23 + Config.hbmRow (channelLine line) % 2 ^ 23

/-- A line is read from HBM: its row's activation counter rises, or, on a row activated 512 times, its request is held, and a compressed
line is counted (12 R292 to R294). The wait of a held request is timing (log 2). -/
def hbmRead (s : State) (vf line : Nat) : State :=
  let row := rowOfLine s line
  let n := tabGet 0 s.activations row
  let s1 := { s with
    activations := if n < 512 then tabPut s.activations row (n + 1) else s.activations
    held := if n < 512 then s.held else s.held ++ [(line, s.time)] }
  if (tabGet? s.compressed line).isSome then s1.countVf vf (fun v => { v with cmprd := v.cmprd + 1 }) else s1

/-- Whether a sector is completed by a read of HBM before it is written back: dirty, with some words absent (12 R275). -/
def Sector.lacks (c : Sector) : Bool := c.dirty && !c.valid && c.mask != 0xFFFF

/-- What becomes of a line that leaves the L2: dirty sectors are completed and written back, watch records go with it (12 R275, 14 R332). -/
def evictLine (s : State) (l : L2Line) : State :=
  match l.tag with
  | .tile .. => s
  | .linear line =>
    let s1 := { s with watch := (natsFrom (line * 4) 4).foldl (fun w k => tabDel w k) s.watch }
    if !l.sectors.toList.any (·.dirty) then s1
    else if l.sectors.toList.any Sector.lacks then writeBackLine (hbmRead s1 l.vf line) l.vf line l.cmp
    else writeBackLine s1 l.vf line l.cmp

/-- The slice and the set of a linear line (12 R274): its index counts bits 43:0 of the address. -/
def linearPlace (pa : Nat) : Nat × Nat := let l := paOffset pa / 256; (l % 192, l / 192 % 512)

/-- Whether a VF may allocate into a way (12 R278). -/
def wayAllowed (s : State) (vf way : Nat) : Bool := bitOf (s.vf vf).wayMask way

/-- The way a new line takes in a set: a free allowed way, else that of the least recently used allowed line without pins; none when
every allowed way is pinned (12 R277, R278). -/
def chooseWay (s : State) (vf slice set : Nat) : Option (Nat × Option L2Line) :=
  let here := s.l2.filter fun l => l.slice == slice && l.set == set
  match (natsFrom 0 16).find? fun w => wayAllowed s vf w && !here.any (·.way == w) with
  | some w => some (w, none)
  | none =>
    match (here.filter fun l => wayAllowed s vf l.way && l.pins.isEmpty).reverse with
    | [] => none
    | l :: _ => some (l.way, some l)

/-- Whether two lines stand in one place. -/
def samePlace (a b : L2Line) : Bool := a.slice == b.slice && a.set == b.set && a.way == b.way

/-- A new line put first in recency, after the eviction of the one it replaces; nothing when no way is to be had. -/
def insertLine (s : State) (l : L2Line) : State :=
  match chooseWay s l.vf l.slice l.set with
  | none => s
  | some (w, old) =>
    let s1 := match old with
      | none => s
      | some o => { evictLine s o with l2 := s.l2.filter fun x => !samePlace x o }
    { s1 with l2 := { l with way := w } :: s1.l2 }

/-- How an access uses a sector (12 R275). -/
inductive L2Use where
  | read | write (words : BitVec 16) (part : Bool)
  deriving DecidableEq, Repr

/-- Whether an access to a sector reads it from HBM, and the sector afterwards (12 R275). -/
def useSector (c : Sector) : L2Use → Bool × Sector
  | .read => (!c.valid && c.mask != 0xFFFF, { c with valid := true, mask := 0xFFFF })
  | .write words part =>
    if c.valid then (false, { c with dirty := true })
    else if part then (true, { valid := true, dirty := true, mask := 0xFFFF })
    else (false, { c with dirty := true, mask := c.mask ||| words })

/-- Whether the L2 of this device holds the line of an address. -/
def l2Present (s : State) (pa : Nat) : Bool := s.l2.any fun l => l.tag == .linear (pa / 256)

/-- Whether an access of a VF is served through the bypass buffer: its way mask is empty and no way holds the line (12 R280). -/
def l2Bypass (s : State) (vf pa : Nat) : Bool := (s.vf vf).wayMask == 0 && !l2Present s pa

/-- The prefetch counters of the core whose prefetch brought a line that a demand access hits (12 R295). -/
def countPrefetchHit (s : State) (l : L2Line) : State :=
  match l.prefetched with
  | none => s
  | some (g, c) =>
    match tabGet? s.gangs g with
    | none => s
    | some gang =>
      let core := tabGet Core.start gang.cores c
      let core := { core with pfused := core.pfused + 1, pflate := if l.inflight then core.pflate + 1 else core.pflate }
      { s with gangs := tabPut s.gangs g { gang with cores := tabPut gang.cores c core } }

/-- Whether an access of a VF finds what it needs: another device answers and the port's window has room; else its line is present, or one of
its ways has no pin, or, for a VF with an empty mask, one of the four buffer lines of its slice is free (01 R30, 12 R277, R280,
18 R397). -/
def l2Room (s : State) (vf pa : Nat) : Bool :=
  if isRemote s pa then reachable s (paCoord pa) && linkRoom s (paCoord pa)
  else !localHbm s pa || l2Present s pa ||
    let (sl, st) := linearPlace pa
    if (s.vf vf).wayMask == 0 then (s.bypass.filter (·.slice == sl)).length < 4 else (chooseWay s vf sl st).isSome

/-- Whether every line of `n` bytes finds what it needs (12 R277, R280). -/
def rangeRoom (s : State) (vf pa n : Nat) : Bool := (natsFrom (pa / 256) ((pa + n - 1) / 256 + 1 - pa / 256)).all fun l => l2Room s vf (256 * l)

/-- The state of an access of a VF that finds no room: a request to a device that does not answer is outstanding (18 R397). -/
def noRoom (s : State) (vf pa : Nat) : State := if isRemote s pa then noteRequest s (s.vf vf).part (paCoord pa) else s

/-- What an access to a sector that is not local HBM asks of the links: a request flit to another device, with the sector's bytes when it
writes; host memory asks nothing (12 R274, 16 R358). -/
def remoteTouch (s : State) (vf pa : Nat) (use : L2Use) : State :=
  if isRemote s pa then
    requestFlit s vf pa (match use with | .read => [] | .write .. => memBytes s.mem (pa / 64 * 64) 64)
  else s

/-- One access to a sector, as the L2 of this device serves it when it is local HBM (12 R274 to R280); other addresses are not cached here.
`pf` is the core whose prefetch it is. -/
def l2Touch (s : State) (vf pa : Nat) (use : L2Use) (cmp : Bool) (pf : Option (Nat × Nat)) : State :=
  if !localHbm s pa then remoteTouch s vf pa use else
  let line := pa / 256
  let k := fin4 (pa / 64)
  match s.l2.find? fun l => l.tag == .linear line with
  | some l =>
    let (rd, c) := useSector l.sectors[k] use
    let s1 := if rd then hbmRead s vf line else s
    let s2 := if pf.isNone then countPrefetchHit s1 l else s1
    let l' := { l with
      sectors := l.sectors.set k c, cmp := cmp
      prefetched := if pf.isNone then none else l.prefetched
      inflight := if pf.isNone then false else l.inflight }
    { s2 with l2 := l' :: s2.l2.filter fun x => x.tag != .linear line }
  | none =>
    let (rd, c) := useSector Sector.empty use
    if (s.vf vf).wayMask == 0 then
      match use with
      | .read => hbmRead s vf line
      | .write .. => writeBackLine (hbmRead s vf line) vf line cmp
    else
      let s1 := if rd then hbmRead s vf line else s
      let (sl, st) := linearPlace pa
      insertLine s1
        { slice := sl, set := st, way := 0, tag := .linear line, vf := vf,
          sectors := (Vector.replicate 4 Sector.empty).set k c, data := [], pins := [], stale := false, prefetched := pf,
          inflight := pf.isSome, cmp := cmp }

/-- The slice and set of a tile line (12 R281). -/
def tilePlace (tid t : Nat) : Nat × Nat := ((t + 37 * tid) % 192, t / 192 % 512)

/-- Whether a set may pin one more line: at most 8 of its 16 ways hold pinned lines (12 R277). -/
def mayPin (s : State) (slice set : Nat) : Bool :=
  (s.l2.filter fun l => l.slice == slice && l.set == set && !l.pins.isEmpty).length < 8

/-- The tile lines for which `hit` says so are dropped, or become stale while a tile fetch pins them (12 R283, R287). -/
def dropLines (s : State) (hit : L2Line → Bool) : State :=
  { s with l2 := (s.l2.filter fun l => !(hit l && l.pins.isEmpty)).map fun l => if hit l then { l with stale := true } else l }

/-- Whether a line is a tile line of a VF and an entry for which `p` says so. -/
def L2Line.isTile (l : L2Line) (p : Nat → Nat → Bool) : Bool := match l.tag with | .tile vf tid _ _ _ => p vf tid | .linear _ => false

/-- Tile lines of a tag set are dropped, or become stale while a tile fetch pins them (12 R287). -/
def dropTiles (s : State) (p : Nat → Nat → Bool) : State := dropLines s (·.isTile p)

/-- A core's pins of the lines for which `p` says so end, and its buffer lines with them; a stale line goes with its last pin (12 R277, R280,
R287). -/
def unpinWhere (s : State) (g c : Nat) (p : L2Tag → Bool) : State :=
  let l2 := s.l2.map fun l => if p l.tag then { l with pins := l.pins.filter (· != (g, c)) } else l
  { s with l2 := l2.filter fun l => !(l.stale && l.pins.isEmpty), bypass := s.bypass.filter fun l => !(l.gang == g && l.core == c && p l.tag) }

/-- The pins of a core's tile fetch end (12 R277, R287). -/
def unpin (s : State) (g c : Nat) : State := unpinWhere s g c fun _ => true

/-- Bytes written at the L2 at once by a unit that is no thread, or by an atomic form: the bytes, their sectors, poison that a whole
sector clears, and the watch record that they end (12 R275, R276, 14 R330). -/
def l2WriteBytes (s : State) (vf pa : Nat) (bs : List Byte) (cmp : Bool) : State :=
  if bs.isEmpty then s else
  let n := bs.length
  let s := { s with mem := memWriteBytes s.mem pa bs }
  let s := if isRemote s pa then requestFlits vf (n / 128 + 1) s pa bs else s
  let secs := natsFrom (sectorOf pa) (sectorOf (pa + n - 1) + 1 - sectorOf pa)
  secs.foldl (fun s k =>
    let lo := max pa (k * 64)
    let hi := min (pa + n) (k * 64 + 64)
    let s :=
      if localHbm s pa then l2Touch s vf (k * 64) (.write (wholeWords (lo - k * 64) (hi - lo)) (partWord (lo - k * 64) (hi - lo))) cmp none else s
    { s with watch := tabDel s.watch k, poison := if hi - lo == 64 then s.poison.filter (· != k) else s.poison }) s

end Sys2Proof.Machine
end

