-- ==== Sys2Proof/Machine/Ops.lean ====
section
/-! DEFINITION. The named operations over threads: reading and writing their registers, completing an instruction, waiting, taking a
trap and halting a taper. -/

namespace Sys2Proof.Machine

/-- A gang's record, by the model's number. -/
def State.gang (s : State) (g : Nat) : Gang := tabGet Gang.start s.gangs g
/-- The state with a gang's record changed. -/
def State.modGang (s : State) (g : Nat) (f : Gang → Gang) : State := { s with gangs := tabPut s.gangs g (f (s.gang g)) }
/-- A gang core's record. -/
def State.core (s : State) (g c : Nat) : Core := tabGet Core.start (s.gang g).cores c
/-- The state with a gang core's record changed. -/
def State.modCore (s : State) (g c : Nat) (f : Core → Core) : State :=
  s.modGang g fun G => { G with cores := tabPut G.cores c (f (tabGet Core.start G.cores c)) }
/-- The state with a core's taper changed. -/
def State.modTaper (s : State) (g c : Nat) (f : Taper → Taper) : State := s.modCore g c fun C => { C with taper := f C.taper }
/-- A wick's record. -/
def State.wick (s : State) (g c : Nat) (w : Fin 8) : Wick := (s.core g c).wicks[w]
/-- The state with a wick changed. -/
def State.modWick (s : State) (g c : Nat) (w : Fin 8) (f : Wick → Wick) : State :=
  s.modCore g c fun C => { C with wicks := C.wicks.set w (f C.wicks[w]) }
/-- A gang issues or completes an instruction, or an engine of it moves a byte, now (18 R395). -/
def State.progress (s : State) (g : Nat) : State := s.modGang g fun G => { G with progressAt := s.ac }
/-- A thread's record, taper's or wick's. -/
def State.thread (s : State) (t : Tid) : Thread :=
  match t.who with
  | .taper => (s.core t.gang t.core).taper.th
  | .wick w => (s.wick t.gang t.core w).th
/-- The state with a thread's record changed. -/
def State.modThread (s : State) (t : Tid) (f : Thread → Thread) : State :=
  match t.who with
  | .taper => s.modTaper t.gang t.core fun T => { T with th := f T.th }
  | .wick w => s.modWick t.gang t.core w fun W => { W with th := f W.th }

/-- A scalar register: x0 reads zero (04 R81). -/
def Thread.getX (th : Thread) (r : Reg) : Word := if r = 0 then 0 else th.x[r.toFin]
/-- A thread with a scalar register written: a write to x0 is discarded (02 R49, 04 R81). -/
def Thread.setX (th : Thread) (r : Reg) (v : Word) : Thread := if r = 0 then th else { th with x := th.x.set r.toFin v }
/-- A scalar register of a thread. -/
def State.getX (s : State) (t : Tid) (r : Reg) : Word := (s.thread t).getX r
/-- The state with a scalar register of a thread written. -/
def State.setX (s : State) (t : Tid) (r : Reg) (v : Word) : State := s.modThread t (·.setX r v)

/-- The wick of a thread, when it is one. -/
def wickOf? (t : Tid) : Option (Fin 8) := match t.who with | .taper => none | .wick w => some w
/-- Whether a thread is a taper. -/
def isTaper (t : Tid) : Bool := t.who == .taper
/-- The VF of a thread's gang. -/
def State.vfOf (s : State) (t : Tid) : Nat := (s.gang t.gang).vf
/-- The physical core that a gang core runs on while its gang is placed (01 R11). -/
def Gang.pcore (G : Gang) (c : Nat) : Nat := (G.quads[c / 4]?).getD 0 * 4 + c % 4
/-- The partition of a gang. -/
def State.partOf (s : State) (g : Nat) : Nat := (s.vf (s.gang g).vf).part

/-- Whether a wick is free-running, or returns to that when its stall or fault ends (01 R18). -/
def Wick.isFree (w : Wick) : Bool :=
  match w.state with
  | .freeRunning => true
  | .stalled b | .faulted b => b
  | _ => false

/-- The state that a wick runs in. -/
def Wick.runState (w : Wick) : WickState := if w.isFree then .freeRunning else .blockDriven

/-- The address of a wick's current instruction: its own program counter, or the block word's place in the taper's stream
(05 R113). -/
def Wick.pc (w : Wick) : Word :=
  if w.isFree then w.th.pc
  else match w.queue with
    | b :: _ => b.base + 4 * BitVec.ofNat 64 b.pos
    | [] => w.th.pc

/-- PC: the address of a thread's current instruction (02 R50). -/
def State.pcOf (s : State) (t : Tid) : Word :=
  match t.who with
  | .taper => (s.core t.gang t.core).taper.th.pc
  | .wick w => (s.wick t.gang t.core w).pc

/-- Whether a wick is block-driven: it has no program counter to transfer (04 R96). -/
def State.blockDriven (s : State) (t : Tid) : Bool :=
  match t.who with
  | .taper => false
  | .wick w => !(s.wick t.gang t.core w).isFree

/-- A wick is quiescent when it is idle, or stopped with an empty queue (01 R20). -/
def Wick.quiescent (w : Wick) : Bool :=
  match w.state with
  | .idle => true
  | .stopped => w.queue.isEmpty
  | _ => false

/-- A move of a wick to youngest arises: it takes effect after this ac's selection (05 R111, 22 R429). -/
def Issue.toYoungest (i : Issue) (w : Fin 8) : Issue := { i with moves := setBit i.moves w.val true }
/-- A wick moves to youngest in the age order, and is greedy no longer (05 R111). -/
def Issue.youngest (i : Issue) (w : Fin 8) : Issue :=
  { i with
    age := i.age.filter (· != w) ++ [w]
    greedy := if i.greedy == some w then none else i.greedy }
/-- The moves that arose in an ac take effect at its end, in ascending wick number (05 R111, 22 R429). -/
def Issue.settle (i : Issue) : Issue :=
  { (List.finRange 8).foldl (fun j w => if bitOf i.moves w.val then j.youngest w else j) i with moves := 0 }
/-- A wick issues a slot instruction in an ac: the greedy wick, its count, and its move after the 16th issue in a row (05 R111). -/
def Issue.note (i : Issue) (w : Fin 8) (ac : Nat) : Issue :=
  let n := if i.greedy == some w then i.count + 1 else 1
  let j := { i with greedy := some w, count := n, last := w, issuedAt := some ac }
  if n ≥ 16 then j.toYoungest w else j

/-- The wick after its current instruction has completed: the next word of its block, the next block, idle, or its own next word
(01 R17, R18, 05 R116). -/
def Wick.completed (w : Wick) : Wick :=
  let w := { w with th := { w.th with wait := none }, vmem := none, fetch := none }
  if w.isFree then { w with state := .freeRunning, th := { w.th with pc := w.th.pc + 4 } }
  else match w.queue with
    | [] => { w with state := .idle }
    | b :: q =>
      if b.pos + 1 < b.words.length then { w with state := .blockDriven, queue := { b with pos := b.pos + 1 } :: q }
      else { w with queue := q, state := if q.isEmpty then .idle else .blockDriven }

/-- The taper after its current instruction has completed. -/
def Taper.completed (T : Taper) : Taper := { T with th := { T.th with pc := T.th.pc + 4, wait := none } }

/-- Whether a wick is stalled. -/
def Wick.isStalled (w : Wick) : Bool := match w.state with | .stalled _ => true | _ => false

/-- A wick changed in its core; one that leaves stalled, idle or stopped to run moves to youngest (05 R111). -/
def Core.runWick (C : Core) (w : Fin 8) (youngest : Bool) (f : Wick → Wick) : Core :=
  { C with wicks := C.wicks.set w (f C.wicks[w]), issue := if youngest then C.issue.toYoungest w else C.issue }

/-- The state after a thread's current instruction has completed: the thread moves to its next one. -/
def State.done (s : State) (t : Tid) : State :=
  let s := match t.who with
    | .taper => s.modTaper t.gang t.core Taper.completed
    | .wick w => s.modCore t.gang t.core fun C => C.runWick w C.wicks[w].isStalled Wick.completed
  s.progress t.gang

/-- The state after a taken transfer to `target` by a taper or by a free-running wick (04 R94 to R96). -/
def State.jump (s : State) (t : Tid) (target : Word) : State :=
  (s.modThread t fun th => { th with pc := target, wait := none }).progress t.gang

/-- Whether a wait puts a wick into stalled (01 R18). A wait for room in the dirty log is contention (17 R381), not one of its causes. -/
def Wait.stalls : Wait → Bool
  | .page _ | .wfe _ | .bar .. | .step _ | .word .. | .stripW .. | .vmem => true
  | _ => false

/-- The state in which a thread waits (01 R18). -/
def State.setWait (s : State) (t : Tid) (w : Wait) : State :=
  match t.who with
  | .taper => s.modTaper t.gang t.core fun T => { T with th := { T.th with wait := some w } }
  | .wick k => s.modWick t.gang t.core k fun W =>
      { W with th := { W.th with wait := some w }, state := if w.stalls then .stalled W.isFree else W.state }

/-- The state in which a thread waits no longer and is about to execute its instruction again (01 R18). -/
def State.endWait (s : State) (t : Tid) : State :=
  match t.who with
  | .taper => s.modTaper t.gang t.core fun T => { T with th := { T.th with wait := none } }
  | .wick k => s.modCore t.gang t.core fun C => C.runWick k C.wicks[k].isStalled fun W =>
      { W with
        th := { W.th with wait := none }
        state := match W.state with | .stalled _ => W.runState | st => st }

/-- The word of an instruction, as a trap value (18 R382). -/
def wordOf (i : Instr) : Word := ((encode i).getD 0).zeroExtend 64

/-- A wick takes a trap: its context records it, it enters faulted, and a fault event is raised at its taper (02 R51, 18 R386). -/
def wickFault (s : State) (g c : Nat) (w : Fin 8) (cause : Cause) (val : Word) : State :=
  let s := s.modWick g c w fun W =>
    { W with
      tepc := W.pc, code := cause.code, tval := val, reported := false, state := .faulted W.isFree, vmem := none, fetch := none
      th := { W.th with wait := none } }
  s.modTaper g c fun T => { T with th := { T.th with event := true } }

/-- The gang cores of a gang quad. -/
def quadCores (c : Nat) : List Nat := natsFrom (c / 4 * 4) 4

/-- Whether a wait is one for the other cores of a quad (10 R254, R255), and the instruction that waits. -/
def Wait.quadInstr : Wait → Option Instr
  | .mquad join a => some (if join then .mquadJ (BitVec.ofNat 2 a.val) else .mquadL (BitVec.ofNat 2 a.val))
  | .joint i => some i
  | _ => none

/-- The quad-mode form or joint step in which a wick waits, be it for the other cores, or for a page or a way as a supplier of a joint
step that has begun (10 R254 to R256). -/
def Wick.quadInstr (W : Wick) : Option Instr :=
  match W.th.wait.bind Wait.quadInstr with
  | some i => some i
  | none => match W.fetch with
    | some f => if f.joint then some f.instr else none
    | none => none

/-- The joined tile of a quad dissolves, and every wick of the quad that waits in a joint step or an MQUAD traps with cause illegal, the
pins of its step released (10 R249, R256). -/
def dissolve (s : State) (g c : Nat) : State :=
  let s := s.modGang g fun G => { G with quadMode := tabPut G.quadMode (c / 4) { joined := none } }
  (quadCores c).foldl (fun s k =>
    (List.finRange 8).foldl (fun s w =>
      match (s.wick g k w).quadInstr with
      | some i => wickFault (unpin s g k) g k w .illegal (wordOf i)
      | none => s) s) s

/-- Whether a wick holds the joined tile of its quad in its core (10 R256). -/
def holdsJoined (s : State) (g c : Nat) (w : Fin 8) : Bool :=
  match (tabGet { joined := none } (s.gang g).quadMode (c / 4)).joined with
  | some a => (s.core g c).owners[a].owner == some w
  | none => false

/-- A thread whose loads in flight are dropped with it (01 R26). -/
def Thread.dropLoads (th : Thread) : Thread := { th with wait := none, pend := th.pend.filter (·.load.isNone) }

/-- A wick is discarded or stopped at its taper's halt: nothing of it runs on (01 R26). -/
def Wick.halted (w : Wick) : Wick :=
  { w with
    state := match w.state with | .stopped => .stopped | _ => .idle
    queue := [], vmem := none, fetch := none, th := w.th.dropLoads }

/-- The gang's record of a faulted wick that a halt discards (17 R367): the first to be recorded gives the completion record its cause.
Of several that are faulted at one halt the manual names none first: the lowest-numbered is (DESIGN CHOICE, log 25). -/
def Gang.noteFault (G : Gang) (c : Nat) (w : Fin 8) (code : BitVec 8) : Gang :=
  { G with
    wcause := if G.nfault = 0 then code else G.wcause
    wcore := if G.nfault = 0 then BitVec.ofNat 8 c else G.wcore
    wwick := if G.nfault = 0 then BitVec.ofNat 8 w.val else G.wwick
    nfault := if G.nfault = 255 then 255 else G.nfault + 1 }

/-- A taper halts: its wicks stop, its queues, its window and its tile fetches are discarded and their pins released, faulted wicks are
recorded, a joined tile dissolves (01 R26, 05 R116, 10 R249, R256, 12 R277, 17 R367). -/
def haltTaper (s : State) (g c : Nat) : State :=
  let C := s.core g c
  let s := (List.finRange 8).foldl (fun s w =>
    match C.wicks[w].state with
    | .faulted _ => s.modGang g fun G => G.noteFault c w C.wicks[w].code
    | _ => s) s
  let s := s.modCore g c fun C =>
    { C with
      window := [], wicks := vmap Wick.halted C.wicks, job := none
      taper := { C.taper with run := .halted, arrival := none, th := { C.taper.th with wait := none } } }
  dissolve (unpin (s.progress g) g c) g c

/-- A trap that the taper cannot take: it halts, and the completion record says so (18 R385). -/
def doubleTrap (s : State) (g c : Nat) (cause : BitVec 8) : State :=
  let s := s.modGang g fun G =>
    { G with
      dcode := Cause.doubleTrap.code
      dcause := if G.ndouble = 0 then cause else G.dcause
      dcore := if G.ndouble = 0 then BitVec.ofNat 8 c else G.dcore
      ndouble := if G.ndouble = 255 then 255 else G.ndouble + 1 }
  haltTaper s g c

/-- A taper trap (18 R385): the saved pc and value, the cause, and the handler's address; a double trap when a handler is active or
there is none. -/
def taperTrap (s : State) (g c : Nat) (cause : Cause) (val : Word) : State :=
  let T := (s.core g c).taper
  if T.act || T.tvec == 0 then doubleTrap s g c cause.code
  else s.modTaper g c fun T =>
    { T with
      tepc := T.th.pc, tval := val, code := cause.code, ev := false, evWick := 0, disp := 0, act := true
      th := { T.th with pc := T.tvec ++ 0#2, wait := none } }

/-- Trap(cause, val): taking an exception, in a taper or in a wick (02 R51, 18 R385, R386). -/
def trap (s : State) (t : Tid) (cause : Cause) (val : Word) : State :=
  match t.who with
  | .taper => taperTrap s t.gang t.core cause val
  | .wick w =>
    let s' := wickFault s t.gang t.core w cause val
    if holdsJoined s t.gang t.core w then dissolve s' t.gang t.core else s'

/-- The outcome in which the acting thread has trapped. -/
abbrev trapNext (s : State) (t : Tid) (cause : Cause) (val : Word) : Host.Outcome State Fault Refusal := .next (trap s t cause val)

/-- The lowest-numbered wick whose fault is not yet reported (18 R386). -/
def pendingFault (C : Core) : Option (Fin 8) :=
  (List.finRange 8).find? fun w => match C.wicks[w].state with | .faulted _ => !C.wicks[w].reported | _ => false

/-- The physical core's own units, and the state with them changed. -/
def State.pcoreOf (s : State) (p : Nat) : PCore := tabGet PCore.reset s.pcores p
/-- The state with a physical core's units changed. -/
def State.modPcore (s : State) (p : Nat) (f : PCore → PCore) : State := { s with pcores := tabPut s.pcores p (f (s.pcoreOf p)) }
/-- The physical core of a thread. -/
def State.pcoreNum (s : State) (t : Tid) : Nat := (s.gang t.gang).pcore t.core

/-- Raising sticky flags of a thread: TR SAT NV DZ OF UF NX from the highest bit (03 R72). -/
def raiseFlags (s : State) (t : Tid) (f : BitVec 7) : State := s.modThread t fun th => { th with fflags := th.fflags ||| f }

/-- The outcome in which the acting thread has written a register and moved on. -/
abbrev writeRd (s : State) (d : Reg) (v : Word) : Host.Outcome State Fault Refusal := .next ((s.setX s.cur d v).done s.cur)
/-- The outcome in which the acting thread has moved on. -/
abbrev moveOn (s : State) : Host.Outcome State Fault Refusal := .next (s.done s.cur)

end Sys2Proof.Machine
end

