-- ==== Sys2Proof/Machine/Candidate.lean ====
section
/-! DEFINITION. The dispatcher's candidates: which launches wait for nothing more, who is funded, and how they rank (17 R366 to R373). -/

namespace Sys2Proof.Machine

/-- The running cores of a gang (01 R10). -/
def gangCores (G : Gang) : List Nat := natsFrom 0 (G.desc.ncm1.toNat + 1)

/-- A gang is triggered when each of its cores is triggered or has halted, or the gang has ended (15 R344). -/
def gangTriggered (s : State) (g : Nat) : Bool :=
  match tabGet? s.gangs g with
  | none => true
  | some G => (gangCores G).all fun c =>
    let C := tabGet Core.start G.cores c
    C.triggered || C.taper.run == .halted

/-- Whether a watermark slot reaches a bound (15 R343). -/
def markReaches (s : State) (slot : Nat) (bound : Word) : Bool := (tabGet 0 s.marks slot - bound).toNat < 2 ^ 63

/-- The dependence of a launch on the one that its ring took before it is met (17 R366). -/
def depMet (s : State) (r : Ring) (d : Desc) : Bool :=
  match r.last with
  | none => true
  | some g => if d.dep == 1 then gangTriggered s g else if d.dep == 2 then (tabGet? s.gangs g).isNone else true

/-- Every wait of a launch is met (17 R366). -/
def waitsMet (s : State) (r : Ring) (d : Desc) : Bool := depMet s r d && (!d.wmen || markReaches s d.wmslot.toNat d.wmbound)

/-- A ring's head becomes a candidate, now, once its waits are met. -/
def Ring.noteHead (s : State) (r : Ring) : Ring :=
  match r.head with
  | some p => if p.candAt.isNone && waitsMet s r p.desc then { r with head := some { p with candAt := some s.ac } } else r
  | none => r

/-- The launches whose waits have been met become candidates, at every change of the state (17 R366). -/
def noteCandidates (s : State) : State :=
  { s with vfs := s.vfs.map fun (k, v) => (k, if v.state == 0 then { v with rings := vmap (Ring.noteHead s) v.rings } else v) }

/-- A candidate as the dispatcher ranks it: what it is, its VF and ring, priority, age, quads, and the ac since when it waits. -/
structure Cand where
  id : CandId
  vf : Nat
  ring : Nat
  prio : Nat
  age : Nat
  need : Nat
  since : Nat
  deriving DecidableEq, Repr

/-- The quads of a launch (01 R9). -/
def Desc.quadCount (d : Desc) : Nat := d.ncm1.toNat / 4 + 1

/-- The candidates of a VF among its rings' heads. -/
def headCands (k : Nat) (v : Vf) : List Cand :=
  (List.finRange 4).filterMap fun n =>
    let r := v.rings[n]
    match r.head with
    | some { desc := d, candAt := some a } =>
      if r.en && !r.stopped then
        some { id := .head k n, vf := k, ring := n.val, prio := d.prio.toNat, age := a, need := d.quadCount, since := a }
      else none
    | _ => none

/-- The candidates of a VF among its saved gangs (17 R368). -/
def savedCands (s : State) (k : Nat) : List Cand :=
  s.gangs.filterMap fun (g, G) =>
    if G.vf == k && G.life == .saved then
      some { id := .gang g, vf := k, ring := G.ring.val, prio := G.desc.prio.toNat, age := G.candAt, need := G.desc.quadCount
             since := G.placedAt }
    else none

/-- The candidates of a VF: none while it is stopped or stopping. -/
def vfCands (s : State) (k : Nat) (v : Vf) : List Cand := if v.state == 0 then headCands k v ++ savedCands s k else []

/-- The VFs of a partition. -/
def partVfs (s : State) (part : Nat) : List (Nat × Vf) := s.vfs.filter fun (_, v) => v.part == part

/-- The candidates of a partition. -/
def partCands (s : State) (part : Nat) : List Cand := (partVfs s part).flatMap fun (k, v) => vfCands s k v

/-- The lending pool of a partition (17 R371). -/
def poolOf (s : State) (part : Nat) : Nat := ((partVfs s part).map fun (_, v) => v.contrib).foldl (· + ·) 0

/-- What a VF may draw from its partition's pool (17 R371). -/
def drawable (s : State) (v : Vf) : Nat := if v.borrow then min (poolOf s v.part) (4 * v.quota - v.debt) else 0

/-- Whether a VF's work is funded (17 R368). -/
def funded (s : State) (v : Vf) : Bool := 0 < v.bal || (v.borrow && 0 < poolOf s v.part && v.debt < 4 * v.quota)

/-- Whether a VF is idle: no placed gang and no candidate (17 R372). -/
def vfIdle (s : State) (k : Nat) (v : Vf) : Bool :=
  !(s.gangs.any fun (_, G) => G.vf == k && G.life != .saved) && (vfCands s k v).isEmpty

/-- A VF's balance moves into the pool when it is idle; what was not drawn of its contribution returns when it is not (17 R372). -/
def Vf.settle (v : Vf) (idle : Bool) : Vf :=
  if idle then { v with contrib := v.contrib + v.bal, bal := 0 } else { v with bal := v.bal + v.contrib, contrib := 0 }

/-- Idleness judged in a partition (17 R372). -/
def settleIdle (s : State) (part : Nat) : State :=
  { s with vfs := s.vfs.map fun (k, v) => (k, if v.part == part then v.settle (vfIdle s k v) else v) }

/-- Class and priority: the rank that counts for pre-emption (17 R369). -/
def rankOf (s : State) (vf prio : Nat) : Nat := (if funded s (s.vf vf) then 4 else 0) + prio

/-- Whether a candidate ranks before another (17 R368). -/
def Cand.before (s : State) (a b : Cand) : Bool :=
  let ra := rankOf s a.vf a.prio
  let rb := rankOf s b.vf b.prio
  if ra != rb then rb < ra
  else if a.age != b.age then a.age < b.age
  else if a.vf != b.vf then a.vf < b.vf
  else a.ring ≤ b.ring

/-- A candidate put in its place. -/
def Cand.insert (s : State) (a : Cand) : List Cand → List Cand
  | [] => [a]
  | b :: bs => if a.before s b then a :: b :: bs else b :: a.insert s bs

/-- The candidates of a partition, the first-ranked first (17 R368). -/
def rankedCands (s : State) (part : Nat) : List Cand := (partCands s part).foldr (fun c l => c.insert s l) []

end Sys2Proof.Machine
end

