-- ==== Sys2Proof/Machine/Translate.lean ====
section
/-! DEFINITION. Two-stage translation (09 R210 to R229): the walks, cached translations, the D bit and the dirty log, page requests
and fault records. -/

namespace Sys2Proof.Machine

/-- What an access asks of a page (09 R216). -/
structure Need where
  r : Bool
  w : Bool
  x : Bool
  deriving DecidableEq, Repr

/-- What each kind of access needs (09 R216); a prefetch for instructions needs X. -/
def needOf (k : Kind) (ifetch : Bool) : Need :=
  match k with
  | .read => { r := true, w := false, x := false }
  | .write | .peer => { r := false, w := true, x := false }
  | .rmw => { r := true, w := true, x := false }
  | .fetch => { r := false, w := false, x := true }
  | .prefetch => { r := !ifetch, w := false, x := ifetch }

/-- Bit `i` of a table entry. -/
abbrev ebit (e i : Nat) : Bool := e.testBit i
/-- Bits `hi` to `lo` of a table entry. -/
abbrev efield (e hi lo : Nat) : Nat := e / 2 ^ lo % 2 ^ (hi - lo + 1)

/-- Whether an entry of a stage at a level is malformed (09 R210, R213 to R215). -/
def malformed (stage1 : Bool) (level e : Nat) : Bool :=
  efield e 63 60 != 0 ||
  (stage1 && efield e 59 48 != 0) ||
  (if ebit e 1 then
    level == 0 || efield e 3 2 != 0 || ebit e 7 ||
    (stage1 && (ebit e 11 || ebit e 8)) || (!stage1 && ebit e 10) ||
    (ebit e 9 && level != 3) ||
    (level == 1 && efield e 29 12 != 0) || (level == 2 && efield e 20 12 != 0)
  else level == 3 || efield e 11 2 != 0)

/-- The page size of a leaf at a level, as a power of two (09 R214). An entry of a 64 KiB page is followed as such when its output
address lies where its place in the page asks; one that does not is followed for its own 4 KiB, which 09 R215 lets a disagreeing page
do. `a` is the address that the walk translates. -/
def leafLg (level e a : Nat) : Nat :=
  if level == 1 then 30 else if level == 2 then 21 else if ebit e 9 && efield e 15 12 == a / 4096 % 16 then 16 else 12

/-- The index of an address in the table of a level (09 R212). -/
def tableIndex (level a : Nat) : Nat := a / 2 ^ (39 - 9 * level) % 512

/-- Whether a physical address exists for this device's use (09 R211). -/
def physOk (s : State) (part pa : Nat) : Bool :=
  if paClass pa == 0 then
    paOffset pa < hbmBytes && (!isRemote s pa || (tabGet (Part.new [] [] []) s.parts part).domain.contains (paCoord pa))
  else isHost pa && !isRemote s pa

/-- A stage-2 leaf as a walk finds it: output address, page size, permissions, D, CMP, where its entry lies, the intermediate base of
its page and the size code of a dirty-log entry (09 R214, 17 R381). -/
structure Leaf2 where
  pa : Nat
  lg : Nat
  r : Bool
  w : Bool
  x : Bool
  d : Bool
  cmp : Bool
  entry : Nat
  base : Nat
  sizeCode : Nat
  deriving DecidableEq, Repr

/-- How a stage-2 walk ends (09 R218); the host may refuse the read of an entry in its memory (08 R209). -/
inductive Walk2 where
  | ok (l : Leaf2) | miss (level : Nat) | protection (level : Nat) | poison (level : Nat) | refused
  deriving DecidableEq, Repr

/-- One table entry that a walk has read at the L2: its address, its value, and whether a walker may keep it (09 R219). -/
structure WalkRead where
  pa : Nat
  entry : Nat
  keep : Bool
  deriving DecidableEq, Repr

/-- The entry that the walkers of a die keep for a VF at an address (09 R219). -/
def keptEntry (s : State) (die : Fin 4) (vf pa : Nat) : Option Nat := (s.walkers[die].find? fun e => e.vf == vf && e.pa == pa).map (·.entry)

/-- A table entry as a walk of a VF on a die reads it, and what it has read at the L2 (09 R219, R220). -/
def readEntry (s : State) (die : Fin 4) (vf : Nat) (stage1 : Bool) (level a : Nat) : Nat × List WalkRead :=
  match keptEntry s die vf a with
  | some e => (e, [])
  | none =>
    let e := memRead s.mem a 8
    (e, [{ pa := a, entry := e, keep := ebit e 0 && !malformed stage1 level e }])

/-- Whether a walker reads an entry at the L2 and finds it poisoned (09 R218). -/
def entryPoisoned (s : State) (die : Fin 4) (vf a : Nat) : Bool := (keptEntry s die vf a).isNone && poisoned s a

/-- The stage-2 walk from a table at a level, and the entries that it reads (09 R212 to R215, R218). -/
def walk2From (s : State) (die : Fin 4) (vf ipa : Nat) : List Nat → Nat → List WalkRead → Walk2 × List WalkRead
  | [], _, tr => (.miss 3, tr)
  | level :: rest, table, tr =>
    let a := table + 8 * tableIndex level ipa
    if !physOk s (s.vf vf).part a then (.protection level, tr)
    else if hostRefuses s a then (.refused, tr)
    else if entryPoisoned s die vf a then (.poison level, tr)
    else
      let (e, r) := readEntry s die vf false level a
      let tr := tr ++ r
      if !ebit e 0 || malformed false level e then (.miss level, tr)
      else if ebit e 1 then
        let lg := leafLg level e ipa
        let oa := efield e 59 12 * 4096
        (.ok { pa := oa / 2 ^ lg * 2 ^ lg + ipa % 2 ^ lg, lg := lg, r := ebit e 4, w := ebit e 5, x := ebit e 6, d := ebit e 8,
               cmp := ebit e 11, entry := a, base := if ebit e 9 then ipa / 2 ^ 16 * 2 ^ 16 else ipa / 2 ^ lg * 2 ^ lg,
               sizeCode := if level == 1 then 3 else if level == 2 then 2 else if ebit e 9 then 1 else 0 }, tr)
      else walk2From s die vf ipa rest (efield e 59 12 * 4096) tr

/-- The stage-2 walk of an intermediate address for a VF, and the entries that it reads. -/
def walk2 (s : State) (die : Fin 4) (vf ipa : Nat) : Walk2 × List WalkRead :=
  walk2From s die vf ipa [0, 1, 2, 3] (s.vf vf).s2root []

/-- A stage-1 leaf as a walk finds it; `tables` are the intermediate addresses of the entries read on the way. -/
structure Leaf1 where
  ipa : Nat
  lg : Nat
  level : Nat
  tables : List Nat
  r : Bool
  w : Bool
  x : Bool
  wch : Bool
  deriving DecidableEq, Repr

/-- How a walk, or a whole translation, fails or misses (09 R218, R221, R222). -/
inductive Stop where
  | fail (c : Cause) (p : FaultPlace) | miss (m : Miss)
  deriving DecidableEq, Repr

/-- The `where` byte: level in bits 1:0, bit 2 stage 2, bit 3 poisoned entry, bit 4 the stage-2 walk of a stage-1 table (09 R221). -/
def placeByte (level : Nat) (stage2 poison table : Bool) : BitVec 8 :=
  BitVec.ofNat 8 (level + (if stage2 then 4 else 0) + (if poison then 8 else 0) + (if table then 16 else 0))

/-- The page request of a stage-2 miss (09 R222). -/
def missOf (ipa : Nat) (k : Kind) (p : FaultPlace) : Miss :=
  { region := ipa / 65536 * 65536, granule := ipa / 4096 % 16, kind := k, place := p }

/-- An access that waits for room in the dirty log or in the L2 (12 R277, R280, 17 R381). -/
def roomWait (va : Word) (k : Kind) : PageWait :=
  { id := none, va := va, kind := k, miss := missOf 0 k { ipa := 0, place := 0 }, room := true }

/-- The stage-1 walk from a table at a level, and the entries that it reads (09 R218 step 2). -/
def walk1From (s : State) (die : Fin 4) (vf va : Nat) : List Nat → Nat → List Nat → List WalkRead → Except Stop Leaf1 × List WalkRead
  | [], _, _, tr => (.error (.fail .stage1 { ipa := 0, place := placeByte 3 false false false }), tr)
  | level :: rest, table, ts, tr =>
    let a := table + 8 * tableIndex level va
    let at2 := FaultPlace.mk table (placeByte level true false true)
    let (w, r) := walk2 s die vf a
    let tr := tr ++ r
    match w with
    | .miss _ => (.error (.miss (missOf a .read at2)), tr)
    | .protection _ => (.error (.fail .protection at2), tr)
    | .refused => (.error (.fail .protection { at2 with place := 0 }), tr)
    | .poison _ => (.error (.fail .poison { at2 with place := placeByte level true true true }), tr)
    | .ok l =>
      if !l.r then (.error (.miss (missOf a .read at2)), tr)
      else if !physOk s (s.vf vf).part l.pa then (.error (.fail .protection at2), tr)
      else if hostRefuses s l.pa then (.error (.fail .protection { ipa := 0, place := 0 }), tr)
      else if entryPoisoned s die vf l.pa then (.error (.fail .poison { ipa := 0, place := placeByte level false true false }), tr)
      else
        let (e, r) := readEntry s die vf true level l.pa
        let tr := tr ++ r
        if !ebit e 0 || malformed true level e then (.error (.fail .stage1 { ipa := 0, place := placeByte level false false false }), tr)
        else if ebit e 1 then
          let lg := leafLg level e va
          (.ok { ipa := efield e 59 12 * 4096 / 2 ^ lg * 2 ^ lg + va % 2 ^ lg, lg := lg, level := level, tables := a :: ts,
                 r := ebit e 4, w := ebit e 5, x := ebit e 6, wch := ebit e 10 }, tr)
        else walk1From s die vf va rest (efield e 59 12 * 4096) (a :: ts) tr

/-- Stage 1 of a virtual address: the walk, or the equal intermediate address when it is not enabled (09 R212). -/
def stage1 (s : State) (die : Fin 4) (vf : Nat) (va : Word) : Except Stop Leaf1 × List WalkRead :=
  let root := (s.vf vf).s1root
  let a := va.toNat % 2 ^ 48
  if bitOf root 0 then walk1From s die vf a [0, 1, 2, 3] (efield root.toNat 59 12 * 4096) [] []
  else (.ok { ipa := a, lg := 30, level := 3, tables := [], r := true, w := true, x := true, wch := false }, [])

/-- A virtual address is valid when bits 63:48 equal bit 47 (09 R210). -/
def validVa (va : Word) : Bool := va.extractLsb' 47 17 == 0 || va.extractLsb' 47 17 == 0x1FFFF

/-- Whether permissions cover a need. -/
def Need.within (n : Need) (r w x : Bool) : Bool := (!n.r || r) && (!n.w || w) && (!n.x || x)

/-- A full walk: both stages, their permissions, and the physical check, in the order of 09 R218, with the entries that it reads. A failure
of a stage-1 permission gives the intermediate address that the leaf would have given (DEDUCED, log 24). -/
def walkAll (s : State) (die : Fin 4) (vf : Nat) (va : Word) (k : Kind) (n : Need) : Except Stop (TlbEntry × Leaf2) × List WalkRead :=
  if !validVa va then (.error (.fail .stage1 { ipa := 0, place := 0 }), [])
  else match stage1 s die vf va with
  | (.error e, tr) => (.error e, tr)
  | (.ok l1, tr) =>
    if !n.within l1.r l1.w l1.x then (.error (.fail .protection { ipa := l1.ipa, place := placeByte l1.level false false false }), tr)
    else
      let (w, r) := walk2 s die vf l1.ipa
      let tr := tr ++ r
      match w with
      | .miss lv => (.error (.miss (missOf l1.ipa k { ipa := l1.ipa, place := placeByte lv true false false })), tr)
      | .protection lv => (.error (.fail .protection { ipa := l1.ipa, place := placeByte lv true false false }), tr)
      | .refused => (.error (.fail .protection { ipa := l1.ipa, place := 0 }), tr)
      | .poison lv => (.error (.fail .poison { ipa := l1.ipa, place := placeByte lv true true false }), tr)
      | .ok l2 =>
        let lv := if l2.lg == 30 then 1 else if l2.lg == 21 then 2 else 3
        if !n.within l2.r l2.w l2.x then
          (.error (.miss (missOf l1.ipa k { ipa := l1.ipa, place := placeByte lv true false false })), tr)
        else if !physOk s (s.vf vf).part l2.pa then
          (.error (.fail .protection { ipa := l1.ipa, place := placeByte lv true false false }), tr)
        else
          let lg := min l1.lg l2.lg
          (.ok ({ vf := vf, va := va.toNat / 2 ^ lg * 2 ^ lg, lg := lg, pa := l2.pa / 2 ^ lg * 2 ^ lg, ipa := l1.ipa / 2 ^ lg * 2 ^ lg,
                  tables := l1.tables.map (· / 4096), r := l2.r, w := l2.w, x := l2.x, s1r := l1.r, s1w := l1.w, s1x := l1.x, d := l2.d,
                  wch := l1.wch, cmp := l2.cmp }, l2), tr)

/-- Where an access goes: the physical and the intermediate address, and the WCH and CMP attributes of its page. -/
structure Xlat where
  pa : Nat
  ipa : Nat
  wch : Bool
  cmp : Bool
  deriving DecidableEq, Repr

/-- How a translation ends: an address; a failure; a stage-2 miss; a write that waits for room in the dirty log (09 R218, 17 R381). -/
inductive Xres where
  | ok (x : Xlat) | fail (c : Cause) (p : FaultPlace) | miss (m : Miss) | logFull
  deriving DecidableEq, Repr

/-- Whether a cached translation serves a virtual address for a need: it must grant it, and a write needs D set (09 R217, R219);
`dirty` is whether the access writes for certain. -/
def TlbEntry.grants (e : TlbEntry) (vf : Nat) (va : Word) (n : Need) (dirty : Bool) : Bool :=
  e.vf == vf && e.va == va.toNat / 2 ^ e.lg * 2 ^ e.lg && n.within (e.r && e.s1r) (e.w && e.s1w) (e.x && e.s1x) &&
  (!(n.w && dirty) || e.d)

/-- The address that a cached translation gives. -/
def TlbEntry.out (e : TlbEntry) (va : Word) : Xlat :=
  { pa := e.pa + va.toNat % 2 ^ e.lg, ipa := e.ipa + va.toNat % 2 ^ e.lg, wch := e.wch, cmp := e.cmp }

/-- A cached translation joins a TLB of `cap` entries; a full one loses an entry that the manual leaves open (09 R219, log 7). -/
def tlbInsert (cap free : Nat) (t : List TlbEntry) (e : TlbEntry) : List TlbEntry :=
  let t := t.filter fun x => !(x.vf == e.vf && x.va == e.va && x.lg == e.lg)
  if t.length < cap then e :: t else e :: t.eraseIdx (Config.freeNat free % cap)

/-- A translation cached in the TLB of a physical core and of its die (09 R219). -/
def cacheXlat (s : State) (p : Nat) (e : TlbEntry) : State :=
  let s := s.modPcore p fun q => { q with tlb := tlbInsert 256 s.free q.tlb e }
  let k := fin4 (p / 24)
  { s with dieTlb := s.dieTlb.set k (tlbInsert 16384 s.free s.dieTlb[k] e), free := s.free + 1 }

/-- The dirty log of a VF has room for one more entry, those still to be appended counted (17 R381). -/
def dlogRoom (v : Vf) : Bool :=
  match v.dlogLg with
  | none => true
  | some lg => v.dlogHead - v.dlogTail + v.dlogWait.length < 2 ^ lg

/-- Setting D in a stage-2 leaf by an atomic OR at the L2, and the dirty-log entry that follows (09 R217, 17 R381). -/
def setDirty (s : State) (vf : Nat) (l : Leaf2) : State :=
  let s := l2WriteBytes s vf (l.entry + 1) [memByte s.mem (l.entry + 1) ||| 1] false
  match (s.vf vf).dlogLg with
  | none => s
  | some _ => s.modVf vf fun v => { v with dlogWait := v.dlogWait ++ [BitVec.ofNat 64 (l.base + l.sizeCode)] }

/-- The table entries that a walk has read: reads of the L2, which the walkers of the die keep while there is room; a full walker loses
an entry that the manual leaves open (09 R219; log 7). -/
def noteWalk (s : State) (die : Fin 4) (vf : Nat) (tr : List WalkRead) : State :=
  tr.foldl (fun s r =>
    let s := l2Touch s vf r.pa .read false none
    if r.keep then
      let old := s.walkers[die].filter fun e => !(e.vf == vf && e.pa == r.pa)
      let old := if old.length < Config.walkRoom then old else old.eraseIdx (Config.freeNat s.free % (Config.walkRoom + 1))
      { s with walkers := s.walkers.set die ({ vf := vf, pa := r.pa, entry := r.entry } :: old), free := s.free + 1 }
    else s) s

/-- A table entry whose D bit a walk has set, as the walkers keep it. -/
def keepDirty (s : State) (vf pa : Nat) : State :=
  { s with walkers := vmap (fun l => l.map fun e => if e.vf == vf && e.pa == pa then { e with entry := e.entry ||| 256 } else e) s.walkers }

/-- Translate(va, kind) on a physical core, for a VF (02 R51, 09 R216 to R219). A write sets D, unless it may yet come to nothing: then
`dirty` is false (08 R208). -/
def translateBy (s : State) (p vf : Nat) (va : Word) (k : Kind) (ifetch dirty : Bool) : Xres × State :=
  let n := needOf k ifetch
  let die := fin4 (p / 24)
  match (s.pcoreOf p).tlb.find? (·.grants vf va n dirty) with
  | some e => (.ok (e.out va), s)
  | none =>
    match s.dieTlb[die].find? (·.grants vf va n dirty) with
    | some e => (.ok (e.out va), cacheXlat s p e)
    | none =>
      let (r, tr) := walkAll s die vf va k n
      let s := noteWalk s die vf tr
      match r with
      | .error (.fail c pl) => (.fail c pl, s)
      | .error (.miss m) => (.miss m, s)
      | .ok (e, l2) =>
        if n.w && dirty && !e.d then
          if dlogRoom (s.vf vf) then
            let s := keepDirty (setDirty s vf l2) vf l2.entry
            let e := { e with d := true }
            (.ok (e.out va), cacheXlat s p e)
          else (.logFull, s)
        else (.ok (e.out va), cacheXlat s p e)

/-- Translate(va, kind) for an access that does what its kind says (02 R51, 09 R218). -/
abbrev translate (s : State) (p vf : Nat) (va : Word) (k : Kind) (ifetch : Bool) : Xres × State := translateBy s p vf va k ifetch true

/-- The lowest page-request identifier not in use (09 R222). -/
def freeReqId (v : Vf) : Option Nat := (natsFrom 0 64).find? fun i => !v.reqs.any (·.id == i)

/-- The 16 bytes of a request as the PF's request ring delivers it (19 R404). -/
def PageReq.bytes (q : PageReq) (vf : Nat) : List Byte :=
  leBytes 2 vf ++ leBytes 1 q.id ++ leBytes 1 q.kinds.toNat ++ leBytes 2 q.mask.toNat ++ leBytes 2 0 ++ leBytes 8 q.region

/-- A stage-2 miss raises a page request, which the PF's request ring delivers, or attaches to the outstanding one of its region, or is refused by a full queue
(09 R222). -/
def raiseMiss (s : State) (vf : Nat) (va : Word) (k : Kind) (m : Miss) : PageWait × State :=
  let v := s.vf vf
  let w (id : Option Nat) : PageWait := { id := id, va := va, kind := k, miss := m, refusedAt := if id.isSome then 0 else s.ac }
  match v.reqs.find? (·.region == m.region) with
  | some q =>
    let q' := { q with mask := setBit q.mask m.granule true, kinds := setBit q.kinds m.kind.num true }
    (w (some q.id), s.modVf vf fun v => { v with reqs := v.reqs.map fun x => if x.id == q.id then q' else x })
  | none =>
    match freeReqId v with
    | none => (w none, s)
    | some id =>
      let q : PageReq := { id := id, region := m.region, mask := setBit 0 m.granule true, kinds := setBit 0 m.kind.num true, since := s.ac }
      let s := s.modVf vf fun v => { v with reqs := v.reqs ++ [q] }
      (w (some id), { s with root := { s.root with requests := s.root.requests ++ [q.bytes vf] } })

/-- A record joins the VF's fault records waiting to be written (09 R221). -/
def pushFault (s : State) (vf : Nat) (r : FaultRec) : State := s.modVf vf fun v => { v with faults := v.faults ++ [r] }

/-- The who byte of a thread's record; `engine` is bit 4 (09 R221). -/
def whoByte (w : Who) (engine : Bool) : BitVec 8 :=
  (match w with | .taper => 8 | .wick k => BitVec.ofNat 8 k.val) ||| (if engine then 16 else 0)

/-- The fault record of a thread's or its engine's failed access (09 R221). -/
def faultRec (s : State) (g c : Nat) (w : Who) (engine : Bool) (cause : Cause) (va : Word) (k : Kind) (p : FaultPlace) : FaultRec :=
  { va := va, ipa := p.ipa, gtag := (s.gang g).desc.gtag, core := BitVec.ofNat 8 c, who := whoByte w engine, cause := cause.code,
    kind := BitVec.ofNat 8 k.num, place := p.place }

/-- A trap that Translate raises: the trap and its fault record (09 R218, R221). -/
def trapXlat (s : State) (t : Tid) (cause : Cause) (va : Word) (k : Kind) (p : FaultPlace) : State :=
  pushFault (trap s t cause va) (s.vfOf t) (faultRec s t.gang t.core t.who false cause va k p)

/-- What a thread's access comes to: an address to go on with, or the state in which the thread has trapped or waits. -/
inductive Acc where
  | ok (x : Xlat) (s : State)
  | stop (s : State)
  deriving DecidableEq, Repr

/-- Translate for a thread: a miss stalls it on its page request, a failure traps it (02 R51, 09 R224); an access whose fill finds every
way pinned, whose flit finds its window full, or which another device does not answer, stays where it is (01 R30, 12 R277, R280, 18 R397).
`dirty` as `translateBy` takes it. -/
def threadXlatBy (s : State) (t : Tid) (va : Word) (k : Kind) (dirty : Bool) : Acc :=
  match translateBy s (s.pcoreNum t) (s.vfOf t) va k false dirty with
  | (.ok x, s) => if l2Room s (s.vfOf t) x.pa then .ok x s else .stop (noRoom s (s.vfOf t) x.pa)
  | (.fail c p, s) => .stop (trapXlat s t c va k p)
  | (.miss m, s) => let (w, s) := raiseMiss s (s.vfOf t) va k m; .stop (s.setWait t (.page w))
  | (.logFull, s) => .stop (s.setWait t .dirtyLog)

/-- Translate for a thread, for an access that does what its kind says. -/
abbrev threadXlat (s : State) (t : Tid) (va : Word) (k : Kind) : Acc := threadXlatBy s t va k true

/-- The sector race watch stops a plain access of a thread: the record names another thread, whose gang is placed and which has
performed no release since (14 R331). -/
def raceAt (s : State) (t : Tid) (x : Xlat) : Bool :=
  x.wch && localHbm s x.pa &&
  match tabGet? s.watch (sectorOf x.pa) with
  | none => false
  | some r =>
    let u : Tid := { gang := r.gang, core := r.core, who := r.who }
    u != t && (tabGet? s.gangs r.gang).any (fun G => G.life != .saved) && (s.thread u).relCount == r.epoch

/-- The watch test over the sectors of `n` bytes. -/
def raceRange (s : State) (t : Tid) (x : Xlat) (n : Nat) : Bool :=
  raceAt s t x || raceAt s t { x with pa := x.pa + (n - 1) }

end Sys2Proof.Machine
end

