-- ==== Sys2Proof/Machine/Launch.lean ====
section
/-! DEFINITION. The register block of a VF, its launch rings, its completion records and its fault queue (17 R361 to R367, 09 R221). -/

namespace Sys2Proof.Machine

/-- The state with a ring of a VF changed. -/
def State.modRing (s : State) (vf : Nat) (n : Fin 4) (f : Ring → Ring) : State :=
  s.modVf vf fun v => { v with rings := v.rings.set n (f v.rings[n]) }

/-- An MSI-X vector of a VF is raised (19 R412). -/
def raiseMsi (s : State) (vf vector : Nat) : State := { s with msi := s.msi ++ [(vf, vector)] }

/-- The descriptors that a ring's pointers span (17 R363). -/
def Ring.span (r : Ring) : Nat := (r.wp - r.rp).toNat

/-- The ring takes its stored write pointer: its descriptors become pending, none when the pointers are equal, or it is an overrun, which stops
it (17 R363). -/
def Ring.doorbell (r : Ring) : Ring :=
  if !r.en || r.stopped then r
  else if r.span ≤ 2 ^ r.lgsize.toNat then { r with avail := r.wp, head := if r.wp == r.rp then none else r.head }
  else { r with err := 1, stopped := true, head := none, avail := r.rp }

/-- A write of ringwp (17 R363, R380): stored, and acted on unless the VF is stopped. -/
def writeWp (s : State) (vf : Nat) (n : Fin 4) (wp : BitVec 32) : State :=
  let live := (s.vf vf).state == 0
  s.modRing vf n fun r => let r := { r with wp := wp }; if live then r.doorbell else r

/-- ringctl.reset (17 R362, R363): the ring is empty and runs again. -/
def Ring.restart (r : Ring) : Ring := { r with rp := r.wp, avail := r.wp, err := 0, stopped := false, head := none, last := none }

/-- ringctl.en goes from 0 to 1 (17 R363, R366): a doorbell with the stored write pointer. -/
def enableRing (s : State) (vf : Nat) (n : Fin 4) : State :=
  let live := (s.vf vf).state == 0
  s.modRing vf n fun r =>
    if r.en then r
    else
      let r := { r with en := true, last := none, head := none, avail := r.rp }
      if live then r.doorbell else r

/-- A write of ringctl (17 R362): reset, irq, lgsize while the ring is not enabled, enable. -/
def writeRingctl (s : State) (vf : Nat) (n : Fin 4) (v : Word) : State :=
  let s := if bitOf v 10 then s.modRing vf n Ring.restart else s
  let lg : BitVec 5 := v.setWidth 5
  let s := s.modRing vf n fun r =>
    { r with irq := bitOf v 9, lgsize := if !r.en && 4 ≤ lg.toNat && lg.toNat ≤ 16 then lg else r.lgsize }
  if bitOf v 8 then enableRing s vf n
  else s.modRing vf n fun r => { r with en := false, head := none, avail := r.rp }

/-- A request of a stage-1 invalidation by a write of s1inv (17 R361, 09 R227). -/
def requestInval1 (s : State) (vf : Nat) (v : Word) : State :=
  s.modVf vf fun x =>
    { x with
      inval1 := x.inval1 ++ [{ lo := v.toNat / 4096, pages := 2 ^ (v.toNat % 64), all := bitOf v 6, seq := none, zero := [] }] }

/-- The ring register that an offset names, with its ring (17 R361). -/
def ringReg (off : Nat) : Option (Fin 4 × Nat) :=
  if 0x100 ≤ off && off < 0x180 then some (fin4 ((off - 0x100) / 0x20), off % 0x20) else none

/-- A write of a VF register (17 R361, R362). Offsets that are not listed, and read-only registers, ignore it. -/
def writeVfReg (s : State) (vf off : Nat) (v : Word) : State :=
  match ringReg off with
  | some (n, 0x00) => s.modRing vf n fun r => if r.en then r else { r with base := v.toNat / 4096 * 4096 |> BitVec.ofNat 64 }
  | some (n, 0x08) => writeRingctl s vf n v
  | some (n, 0x10) => writeWp s vf n (v.setWidth 32)
  | some (n, 0x18) => s.modRing vf n fun r => { r with err := r.err &&& ~~~(v.setWidth 8) }
  | some _ => s
  | none =>
    if off == 0x200 then s.modVf vf fun x => { x with fqbase := BitVec.ofNat 64 (v.toNat / 4096 * 4096) }
    else if off == 0x208 then
      s.modVf vf fun x =>
        { x with fqEn := bitOf v 8, fqLg := if 5 ≤ v.toNat % 32 && v.toNat % 32 ≤ 20 then v.setWidth 5 else x.fqLg }
    else if off == 0x214 then s.modVf vf fun x => { x with fqtail := v.setWidth 32 }
    else if off == 0x300 then s.modVf vf fun x => { x with s1root := v &&& 0x0FFFFFFFFFFFF001 }
    else if off == 0x308 then requestInval1 s vf v
    else s

/-- A VF number names a VF that exists: 1 to 512 (19 R404, R412). -/
def vfExists (s : State) (vf : Nat) : Bool := (tabGet? s.vfs vf).isSome

/-- A guest's access to the register block of a VF that exists. -/
def guestAccess (s : State) (vf : Nat) (f : State → State) : Host.Outcome State Fault Refusal := .next (if vfExists s vf then f s else s)

/-- What a read of a VF register returns (17 R361, R362). -/
def readVfReg (s : State) (vf off : Nat) : Word :=
  let v := s.vf vf
  match ringReg off with
  | some (n, o) =>
    let r := v.rings[n]
    if o == 0x00 then r.base
    else if o == 0x08 then BitVec.ofNat 64 (r.lgsize.toNat + (if r.en then 256 else 0) + (if r.irq then 512 else 0))
    else if o == 0x10 then r.wp.setWidth 64
    else if o == 0x14 then r.rp.setWidth 64
    else if o == 0x18 then r.done ++ 0#24 ++ r.err
    else 0
  | none =>
    if off == 0x000 then s.layoutVer ++ 0#19 ++ BitVec.ofNat 5 v.part ++ 0#6 ++ v.state
    else if off == 0x200 then v.fqbase
    else if off == 0x208 then BitVec.ofNat 64 (v.fqLg.toNat + if v.fqEn then 256 else 0)
    else if off == 0x210 then v.fqhead.setWidth 64
    else if off == 0x214 then v.fqtail.setWidth 64
    else if off == 0x218 then v.fqovf
    else if off == 0x300 then v.s1root
    else if off == 0x310 then v.s1done ++ 0#31 ++ BitVec.ofBool (!v.inval1.isEmpty)
    else if off == 0x380 then 0#32 ++ v.errCompl ++ v.errAnswers
    else if off == 0x400 then v.cmpwr
    else if off == 0x408 then v.cmpfall
    else if off == 0x410 then v.cmprd
    else if off == 0x480 then BitVec.ofNat 64 v.bal
    else if off == 0x488 then BitVec.ofNat 64 v.debt
    else if off == 0x490 then BitVec.ofNat 64 v.cred
    else 0

/-- RINGWP_DOORBELL (17 R363). -/
def execRingwpDoorbell (vf : Nat) (ring : Fin 4) (wp : BitVec 32) (s : State) : Host.Outcome State Fault Refusal :=
  guestAccess s vf fun s => writeWp s vf ring wp
/-- RING_RESET (17 R362). -/
def execRingReset (vf : Nat) (ring : Fin 4) (s : State) : Host.Outcome State Fault Refusal :=
  guestAccess s vf fun s => s.modRing vf ring Ring.restart
/-- RING_ENABLE (17 R363). -/
def execRingEnable (vf : Nat) (ring : Fin 4) (s : State) : Host.Outcome State Fault Refusal :=
  guestAccess s vf fun s => enableRing s vf ring
/-- RINGSTAT_ERR_CLEAR (17 R362): the ring that had stopped stays stopped. -/
def execRingstatErrClear (vf : Nat) (ring : Fin 4) (v : BitVec 8) (s : State) : Host.Outcome State Fault Refusal :=
  guestAccess s vf fun s => s.modRing vf ring fun r => { r with err := r.err &&& ~~~v }
/-- S1INV (17 R361, 09 R227). -/
def execS1inv (vf : Nat) (v : Word) (s : State) : Host.Outcome State Fault Refusal :=
  guestAccess s vf fun s => requestInval1 s vf v
/-- FQOVF_READ (17 R361): the count is read and cleared. -/
def execFqovfRead (vf : Nat) (s : State) : Host.Outcome State Fault Refusal :=
  guestAccess s vf fun s => s.modVf vf fun v => { v with fqovf := 0 }
/-- VFERR_READ (17 R361): both counts are read and cleared. -/
def execVferrRead (vf : Nat) (s : State) : Host.Outcome State Fault Refusal :=
  guestAccess s vf fun s => s.modVf vf fun v => { v with errAnswers := 0, errCompl := 0 }
/-- VF_REGISTER_WRITE (17 R361). -/
def execVfRegisterWrite (vf off : Nat) (v : Word) (s : State) : Host.Outcome State Fault Refusal :=
  guestAccess s vf fun s => writeVfReg s vf off v

/-- Bits `lo` to `hi` - 1 of a number. -/
def bitsOf (n lo hi : Nat) : Nat := n / 2 ^ lo % 2 ^ (hi - lo)

/-- A descriptor's fields from its 64 bytes as a number (17 R364). -/
def readDesc (n : Nat) : Desc :=
  { entry := BitVec.ofNat 64 n, args := BitVec.ofNat 64 (n / 2 ^ 64), gtag := BitVec.ofNat 16 (n / 2 ^ 128)
    ncm1 := BitVec.ofNat 7 (n / 2 ^ 144), nsm1 := BitVec.ofNat 4 (n / 2 ^ 152), prio := BitVec.ofNat 2 (n / 2 ^ 156)
    dep := BitVec.ofNat 2 (n / 2 ^ 158), lg := BitVec.ofNat 4 (n / 2 ^ 160), wmen := n.testBit 168
    stages := BitVec.ofNat 96 (n / 2 ^ 192), wmslot := BitVec.ofNat 12 (n / 2 ^ 288), wmbound := BitVec.ofNat 64 (n / 2 ^ 320)
    crec := BitVec.ofNat 64 (n / 2 ^ 384) }

/-- A reserved field of a descriptor is nonzero (17 R364). -/
def descReserved (n : Nat) : Bool :=
  n.testBit 151 || bitsOf n 164 168 != 0 || bitsOf n 169 176 != 0 || bitsOf n 176 192 != 0 || bitsOf n 300 304 != 0 ||
  bitsOf n 304 320 != 0 || bitsOf n 448 512 != 0

/-- The stage of a gang quad (17 R364). -/
def Desc.stage (d : Desc) (q : Nat) : Nat := d.stages.toNat / 2 ^ (4 * q) % 16

/-- Check 1 of a descriptor, against the cores of a partition (17 R365, 01 R9). -/
def stagesBad (d : Desc) (cores : Nat) : Bool :=
  let q := d.quadCount
  let S := d.nsm1.toNat + 1
  cores < d.ncm1.toNat + 1 || 96 < d.ncm1.toNat + 1 || (natsFrom 0 q).any (fun j => S ≤ d.stage j) ||
    !(natsFrom 0 S).all fun k => (natsFrom 0 q).any fun j => d.stage j == k

/-- The code of the first check that a descriptor breaks; 0 when it breaks none (17 R365). -/
def descCheck (s : State) (vf : Nat) (n : Nat) : Nat :=
  let v := s.vf vf
  let d := readDesc n
  let cores := 4 * (tabGet (Part.new [] [] []) s.parts v.part).quads.length
  if stagesBad d cores then 1
  else if d.lg.toNat < 6 || 11 < d.lg.toNat then 2
  else if v.prioCap.toNat < d.prio.toNat then 3
  else if descReserved n || d.dep == 3 || (natsFrom d.quadCount (24 - d.quadCount)).any (fun j => d.stage j != 0) then 4
  else if d.wmen && tabGet? s.markBlocks (d.wmslot.toNat / 64) != some vf then 5
  else if d.entry.toNat % 4 != 0 || d.crec.toNat % 32 != 0 then 6
  else 0

/-- The fields of a completion record of a gang that its launch alone does not give (17 R367). -/
def recordBytes (gtag : BitVec 16) (status code : Nat) (seq : BitVec 32) (G : Gang) : List Byte :=
  leBytes 2 gtag.toNat ++ leBytes 1 status ++ leBytes 1 code ++ leBytes 4 seq.toNat ++ leBytes 8 G.tokens.toNat ++
    [G.wcause, G.wcore, G.wwick, G.nfault, G.dcode, G.dcause, G.dcore, G.ndouble] ++ List.replicate 8 0

/-- A completion waits in its ring to be written (17 R367). -/
def pushCompl (s : State) (vf : Nat) (n : Fin 4) (d : Desc) (status code : Nat) (seq : BitVec 32) (G : Gang) : State :=
  let c : Compl :=
    { crec := if d.crec.toNat % 32 == 0 then d.crec else 0, gtag := d.gtag, bytes := recordBytes d.gtag status code seq G, wait := none }
  s.modRing vf n fun r => { r with compl := r.compl ++ [c] }

/-- The host address of a descriptor (17 R363). -/
def descAddr (s : State) (r : Ring) : Nat :=
  s.coord.toNat * 2 ^ 46 + 2 ^ 45 + (r.base.toNat + 64 * (r.rp.toNat % 2 ^ r.lgsize.toNat)) % 2 ^ 44

/-- LAUNCH_DESCRIPTOR (17 R363, R365, R366): the descriptor at rp is read; a failed read stops the ring; a descriptor that breaks a check
is rejected. -/
def execLaunchDescriptor (vf : Nat) (ring : Fin 4) (readFails : Bool) (s : State) : Host.Outcome State Fault Refusal :=
  let v := s.vf vf
  let r := v.rings[ring]
  if !vfExists s vf || v.state != 0 || v.part ≥ 24 || !r.en || r.stopped || r.head.isSome || r.rp == r.avail then .next s
  else
    let a := descAddr s r
    if readFails || poisoned s a then
      .next (s.modRing vf ring fun r => { r with err := 2, stopped := true, head := none, avail := r.rp })
    else
      let n := memRead s.mem a 64
      let d := readDesc n
      let code := descCheck s vf n
      if code == 0 then .next (noteCandidates (s.modRing vf ring fun r => { r with head := some { desc := d, candAt := none } }))
      else
        let s := pushCompl s vf ring d 1 code r.rp Gang.start
        .next (s.modRing vf ring fun r => { r with rp := r.rp + 1, last := none })

/-- A translation that the dispatcher makes for a VF, held in no TLB; its walks are those of die 0's walkers (17 R367, 09 R219, R221;
DEDUCED, log 7). -/
def walkXlat (s : State) (vf : Nat) (va : Word) (k : Kind) : Xres × State :=
  let (r, tr) := walkAll s 0 vf va k (needOf k false)
  let s := noteWalk s 0 vf tr
  match r with
  | .error (.fail c p) => (.fail c p, s)
  | .error (.miss m) => (.miss m, s)
  | .ok (e, l2) =>
    if e.d then (.ok (e.out va), s)
    else if dlogRoom (s.vf vf) then (.ok (e.out va), keepDirty (setDirty s vf l2) vf l2.entry)
    else (.logFull, s)

/-- A count that saturates. -/
def satInc {n : Nat} (v : BitVec n) : BitVec n := if v == BitVec.allOnes n then v else v + 1

/-- The fault record of a completion record that the dispatcher cannot write (09 R221). -/
def dispatcherFault (c : Compl) (cause : Cause) (p : FaultPlace) : FaultRec :=
  { va := c.crec, ipa := p.ipa, gtag := c.gtag, core := 0xFF, who := 0x20, cause := cause.code, kind := BitVec.ofNat 8 Kind.write.num
    place := p.place }

/-- The head of a ring's completions is dropped: counted, reported, and done advances (17 R367). -/
def dropCompl (s : State) (vf : Nat) (n : Fin 4) (c : Compl) (cause : Cause) (p : FaultPlace) : State :=
  let s := pushFault s vf (dispatcherFault c cause p)
  let s := s.modVf vf fun v => { v with errCompl := satInc v.errCompl }
  s.modRing vf n fun r => { r with compl := r.compl.tail, done := r.done + 1 }

/-- The head of a ring's completions is done: the count advances, and the vector is raised (17 R367). -/
def finishCompl (s : State) (vf : Nat) (n : Fin 4) : State :=
  let s := s.modRing vf n fun r => { r with compl := r.compl.tail, done := r.done + 1 }
  if (s.vf vf).rings[n].irq then raiseMsi s vf n.val else s

/-- The state with the completion at the head of a ring changed. -/
def State.modCompl (s : State) (vf : Nat) (n : Fin 4) (f : Compl → Compl) : State :=
  s.modRing vf n fun r => { r with compl := match r.compl with | c :: cs => f c :: cs | [] => [] }

/-- COMPLETION_RECORD (17 R367): the ring's first completion is written. -/
def execCompletionRecord (vf : Nat) (ring : Fin 4) (s : State) : Host.Outcome State Fault Refusal :=
  match vfExists s vf, (s.vf vf).rings[ring].compl with
  | true, c :: _ =>
    if c.wait.isSome then .next s
    else if c.crec == 0 then .next (finishCompl s vf ring)
    else match walkXlat s vf c.crec .write with
    | (.ok x, s) =>
      if !rangeRoom s vf x.pa 32 then .next (noRoom s vf x.pa) else .next (finishCompl (l2WriteBytes s vf x.pa c.bytes x.cmp) vf ring)
    | (.fail e p, s) => .next (dropCompl s vf ring c e p)
    | (.miss m, s) => let (w, s) := raiseMiss s vf c.crec .write m; .next (s.modCompl vf ring fun c => { c with wait := some w })
    | (.logFull, s) => .next (s.modCompl vf ring fun x => { x with wait := some (roomWait c.crec .write) })
  | _, _ => .next s

/-- The 32 bytes of a fault record (09 R221). -/
def FaultRec.bytes (r : FaultRec) : List Byte :=
  leBytes 8 r.va.toNat ++ leBytes 8 r.ipa ++ leBytes 2 r.gtag.toNat ++ [r.core, r.who, r.cause, r.kind, r.place] ++ List.replicate 9 0

/-- The first fault record of a VF is dropped and counted (09 R221). -/
def dropFault (s : State) (vf : Nat) : State :=
  s.modVf vf fun v => { v with faults := v.faults.tail, faultWait := none, fqovf := satInc v.fqovf }

/-- FAULT_RECORD (09 R221): the VF's first fault record is written to its fault queue, or dropped. -/
def execFaultRecord (vf : Nat) (s : State) : Host.Outcome State Fault Refusal :=
  let v := s.vf vf
  match vfExists s vf && v.faultWait.isNone, v.faults with
  | true, r :: _ =>
    if !v.fqEn || (v.fqhead - v.fqtail).toNat ≥ 2 ^ v.fqLg.toNat then .next (dropFault s vf)
    else
      let va := v.fqbase + BitVec.ofNat 64 (32 * (v.fqhead.toNat % 2 ^ v.fqLg.toNat))
      match walkXlat s vf va .write with
      | (.ok x, s) =>
        if !rangeRoom s vf x.pa 32 then .next (noRoom s vf x.pa)
        else
        let s := l2WriteBytes s vf x.pa r.bytes x.cmp
        .next (raiseMsi (s.modVf vf fun v => { v with faults := v.faults.tail, fqhead := v.fqhead + 1 }) vf 4)
      | (.fail _ _, s) => .next (dropFault s vf)
      | (.miss m, s) => let (w, s) := raiseMiss s vf va .write m; .next (s.modVf vf fun v => { v with faultWait := some w })
      | (.logFull, s) => .next (s.modVf vf fun v => { v with faultWait := some (roomWait va .write) })
  | _, _ => .next s

end Sys2Proof.Machine
end

