-- ==== Sys2Proof/Machine/Flags.lean ====
section
/-! DEFINITION. Number formats, exact values, the rounding modes, and the sticky flags that each operation raises (03 R60 to R73). -/

namespace Sys2Proof.Machine

/-- The sticky flags of an operation: TR SAT NV DZ OF UF NX from bit 6 down (03 R72). -/
abbrev FlagSet := BitVec 7
/-- Inexact (03 R72). -/
def flagNX : FlagSet := 1
/-- Tiny and inexact (03 R72). -/
def flagUF : FlagSet := 2
/-- Overflow or floating saturation (03 R72). -/
def flagOF : FlagSet := 4
/-- Exact infinite result from a finite operand (03 R72). -/
def flagDZ : FlagSet := 8
/-- Invalid operation (03 R72). -/
def flagNV : FlagSet := 16
/-- An integer result saturated (03 R72). -/
def flagSAT : FlagSet := 32
/-- A reserved T2 code was read (03 R72). -/
def flagTR : FlagSet := 64
/-- A flag when a condition holds. -/
abbrev flagIf (b : Bool) (f : FlagSet) : FlagSet := if b then f else 0

/-- A floating layout (03 R61): field widths, bias, whether it has infinities, whether the all-ones exponent holds IEEE specials, and
whether only the all-ones code is NaN (E4M3). -/
structure FloatFmt where
  ebits : Nat
  mbits : Nat
  bias : Nat
  ieee : Bool
  topNan : Bool
  deriving DecidableEq, Repr

/-- F32 (03 R61). -/
def fmtF32 : FloatFmt := { ebits := 8, mbits := 23, bias := 127, ieee := true, topNan := false }
/-- BF16 (03 R61). -/
def fmtBF16 : FloatFmt := { ebits := 8, mbits := 7, bias := 127, ieee := true, topNan := false }
/-- FP16 (03 R61). -/
def fmtFP16 : FloatFmt := { ebits := 5, mbits := 10, bias := 15, ieee := true, topNan := false }
/-- E4M3 (03 R61). -/
def fmtE4M3 : FloatFmt := { ebits := 4, mbits := 3, bias := 7, ieee := false, topNan := true }
/-- E5M2 (03 R61). -/
def fmtE5M2 : FloatFmt := { ebits := 5, mbits := 2, bias := 15, ieee := true, topNan := false }
/-- E3M2 (03 R61). -/
def fmtE3M2 : FloatFmt := { ebits := 3, mbits := 2, bias := 3, ieee := false, topNan := false }
/-- E2M3 (03 R61). -/
def fmtE2M3 : FloatFmt := { ebits := 2, mbits := 3, bias := 1, ieee := false, topNan := false }
/-- E2M1 (03 R61). -/
def fmtE2M1 : FloatFmt := { ebits := 2, mbits := 1, bias := 1, ieee := false, topNan := false }

/-- An exact value (02 R51): NaN, an infinity, or ±m × 2^e. -/
inductive FVal where
  | nan (signalling : Bool)
  | inf (neg : Bool)
  | fin (neg : Bool) (m : Nat) (e : Int)
  deriving DecidableEq, Repr

/-- The bits of a format: its width. -/
def FloatFmt.width (f : FloatFmt) : Nat := f.ebits + f.mbits + 1

/-- The exact value of a format's bits (03 R61, R62). -/
def decodeFloat (f : FloatFmt) (v : Nat) : FVal :=
  let m := v % 2 ^ f.mbits
  let e := v / 2 ^ f.mbits % 2 ^ f.ebits
  let neg := v / 2 ^ (f.mbits + f.ebits) % 2 == 1
  let top := e == 2 ^ f.ebits - 1
  if f.ieee && top then (if m == 0 then .inf neg else .nan (m < 2 ^ (f.mbits - 1)))
  else if f.topNan && top && m == 2 ^ f.mbits - 1 then .nan false
  else if e == 0 then .fin neg m (1 - (f.bias : Int) - f.mbits)
  else .fin neg (2 ^ f.mbits + m) ((e : Int) - f.bias - f.mbits)

/-- The bits of the largest finite magnitude of a format (03 R61). -/
def FloatFmt.maxBits (f : FloatFmt) : Nat :=
  if f.ieee then (2 ^ f.ebits - 1) * 2 ^ f.mbits - 1
  else if f.topNan then 2 ^ (f.ebits + f.mbits) - 2
  else 2 ^ (f.ebits + f.mbits) - 1
/-- The bits of positive infinity of a format that has it. -/
def FloatFmt.infBits (f : FloatFmt) : Nat := (2 ^ f.ebits - 1) * 2 ^ f.mbits
/-- The sign bit in place. -/
def FloatFmt.sign (f : FloatFmt) (neg : Bool) : Nat := if neg then 2 ^ (f.ebits + f.mbits) else 0
/-- The canonical NaN, of a format that has NaNs (03 R62). -/
def FloatFmt.nanBits? (f : FloatFmt) : Option Nat :=
  if f.ieee then some (f.infBits + 2 ^ (f.mbits - 1)) else if f.topNan then some (2 ^ (f.ebits + f.mbits) - 1) else none
/-- The canonical NaN, or +0 where the format has none (03 R71). -/
def FloatFmt.nanBits (f : FloatFmt) : Nat := f.nanBits?.getD 0

/-- A rounding mode, a stochastic one with its 16-bit draw (02 R43, 03 R68, R69). -/
inductive Mode where
  | rne | rtz | rdn | rup | rmm | stochastic (draw : Nat)
  deriving DecidableEq, Repr

/-- The mode of a code 0 to 5 (02 R43); no other code reaches this. -/
def modeOf (code : BitVec 3) (draw : Nat) : Mode :=
  match code.toNat with
  | 1 => .rtz | 2 => .rdn | 3 => .rup | 4 => .rmm | 5 => .stochastic draw | _ => .rne

/-- The rounded multiple of 2^sh of a magnitude, divided by 2^sh, and whether it is inexact (03 R68, R69). -/
def roundShift (md : Mode) (neg : Bool) (m sh : Nat) : Nat × Bool :=
  let k := m / 2 ^ sh
  let r := m % 2 ^ sh
  let half := 2 ^ sh / 2
  let up : Bool := match md with
    | .rne => sh != 0 && (r > half || (r == half && k % 2 == 1))
    | .rtz => false
    | .rdn => neg && r != 0
    | .rup => !neg && r != 0
    | .rmm => sh != 0 && r ≥ half
    | .stochastic _ => false
  match md with
  | .stochastic d => ((m * 2 ^ 16 / 2 ^ sh + d) / 2 ^ 16, r != 0)
  | _ => (if up then k + 1 else k, r != 0)

/-- The rounded multiple of 2^q of m × 2^e, divided by 2^q, and whether it is inexact. -/
def roundAt (md : Mode) (neg : Bool) (m : Nat) (e q : Int) : Nat × Bool :=
  if e ≥ q then (m * 2 ^ (e - q).toNat, false) else roundShift md neg m (q - e).toNat

/-- A result and the flags it raises. -/
abbrev Flagged := Nat × FlagSet

/-- Whether an overflow gives the largest finite magnitude (03 R70); `sat` saturates in every mode (MX elements, 03 R66). -/
def overflowsToMax (f : FloatFmt) (md : Mode) (neg sat : Bool) : Bool :=
  !f.ieee || sat ||
  match md with
  | .rne | .rmm | .stochastic _ => false
  | .rtz => true
  | .rdn => !neg
  | .rup => neg

/-- The bits of an overflow. -/
def overflowBits (f : FloatFmt) (md : Mode) (neg sat : Bool) : Nat :=
  f.sign neg + (if overflowsToMax f md neg sat then f.maxBits else f.infBits)

/-- RoundTo(fmt, rm)(v) (02 R51, 03 R63, R66 to R71): the bits and the flags of the rounding. Tininess is detected after rounding with
an unbounded exponent. -/
def roundToWith (f : FloatFmt) (md : Mode) (sat : Bool) (v : FVal) : Flagged :=
  match v with
  | .nan sg => (f.nanBits, flagIf (sg || f.nanBits?.isNone) flagNV)
  | .inf neg =>
    if f.ieee && !sat then (f.sign neg + f.infBits, 0) else (f.sign neg + f.maxBits, flagOF ||| flagNX)
  | .fin neg m e =>
    if m == 0 then (f.sign neg, 0)
    else
      let top : Int := m.log2 + e
      let emin : Int := 1 - (f.bias : Int)
      let base : Int := emin - f.mbits
      let q := max (top - f.mbits) base
      let (k, inexact) := roundAt md neg m e q
      let enc := (q - base).toNat * 2 ^ f.mbits + k
      if k != 0 && enc > f.maxBits then (overflowBits f md neg sat, flagOF ||| flagNX)
      else
        let (k', _) := roundAt md neg m e (top - f.mbits)
        let tiny := k' != 0 && top < emin && !(top == emin - 1 && k' == 2 ^ (f.mbits + 1))
        (f.sign neg + (if k == 0 then 0 else enc), flagIf inexact flagNX ||| flagIf (inexact && tiny) flagUF)

/-- RoundTo(fmt, rm)(v). -/
def roundTo (f : FloatFmt) (md : Mode) (v : FVal) : Flagged := roundToWith f md false v

/-- NV for a signalling NaN operand (03 R62). -/
def sigFlag : FVal → FlagSet
  | .nan true => flagNV
  | _ => 0
/-- Whether a value is NaN. -/
def FVal.isNan : FVal → Bool
  | .nan _ => true
  | _ => false
/-- Whether a value is an infinity. -/
def FVal.isInf : FVal → Bool
  | .inf _ => true
  | _ => false
/-- Whether a value is a zero. -/
def FVal.isZero : FVal → Bool
  | .fin _ m _ => m == 0
  | _ => false
/-- The sign of a value that is no NaN. -/
def FVal.neg : FVal → Bool
  | .nan _ => false
  | .inf n | .fin n _ _ => n
/-- The value with its sign inverted. -/
def FVal.negate : FVal → FVal
  | .nan s => .nan s
  | .inf n => .inf !n
  | .fin n m e => .fin (!n) m e

/-- m × 2^e as a signed multiple of 2^lo, for lo ≤ e. -/
def scaled (neg : Bool) (m : Nat) (e lo : Int) : Int :=
  let v : Int := m * 2 ^ (e - lo).toNat
  if neg then -v else v

/-- The exact value of a signed integer multiple of 2^e; a zero takes the given sign. -/
def ofScaled (v : Int) (e : Int) (zeroNeg : Bool) : FVal :=
  if v == 0 then .fin zeroNeg 0 e else .fin (v < 0) v.natAbs e

/-- The exact sum, its zero sign under a mode, and its flags (03 R68, R72). -/
def addExact (md : Mode) (a b : FVal) : FVal × FlagSet :=
  let fl := sigFlag a ||| sigFlag b
  match a, b with
  | .nan _, _ => (.nan false, fl)
  | _, .nan _ => (.nan false, fl)
  | .inf x, .inf y => if x == y then (.inf x, fl) else (.nan false, fl ||| flagNV)
  | .inf x, _ => (.inf x, fl)
  | _, .inf y => (.inf y, fl)
  | .fin na ma ea, .fin nb mb eb =>
    let lo := min ea eb
    let zeroNeg := if ma == 0 && mb == 0 && na == nb then na else md == .rdn
    (ofScaled (scaled na ma ea lo + scaled nb mb eb lo) lo zeroNeg, fl)

/-- The exact product and its flags (03 R72). -/
def mulExact (a b : FVal) : FVal × FlagSet :=
  let fl := sigFlag a ||| sigFlag b
  match a, b with
  | .nan _, _ => (.nan false, fl)
  | _, .nan _ => (.nan false, fl)
  | .inf x, b => if b.isZero then (.nan false, fl ||| flagNV) else (.inf (x != b.neg), fl)
  | a, .inf y => if a.isZero then (.nan false, fl ||| flagNV) else (.inf (a.neg != y), fl)
  | .fin na ma ea, .fin nb mb eb => (.fin (na != nb) (ma * mb) (ea + eb), fl)

/-- Extra quotient bits: enough that a sticky lowest bit stands for the rest in every rounding (03 R68, R69). -/
def guardBits : Nat := 64

/-- A positive quotient n ÷ d as a dyadic value with a sticky lowest bit. -/
def quotient (n d : Nat) : Nat × Int :=
  let k := d.log2 + guardBits + 1
  let q := n * 2 ^ k / d
  let r := n * 2 ^ k % d
  (2 * q + (if r == 0 then 0 else 1), -(k : Int) - 1)

/-- The quotient and its flags: exact but for a sticky lowest bit (03 R72, 04 R102). -/
def divExact (a b : FVal) : FVal × FlagSet :=
  let fl := sigFlag a ||| sigFlag b
  match a, b with
  | .nan _, _ => (.nan false, fl)
  | _, .nan _ => (.nan false, fl)
  | .inf _, .inf _ => (.nan false, fl ||| flagNV)
  | .inf x, b => (.inf (x != b.neg), fl)
  | a, .inf y => (.fin (a.neg != y) 0 0, fl)
  | .fin na ma ea, .fin nb mb eb =>
    let ng := na != nb
    if mb == 0 then (if ma == 0 then (.nan false, fl ||| flagNV) else (.inf ng, fl ||| flagDZ))
    else if ma == 0 then (.fin ng 0 0, fl)
    else
      let (q, e) := quotient ma mb
      (.fin ng q (e + ea - eb), fl)

/-- The integer square root by its bits from bit `k` - 1 down. -/
def isqrtFrom (n r : Nat) : Nat → Nat
  | 0 => r
  | k + 1 => if (r + 2 ^ k) * (r + 2 ^ k) ≤ n then isqrtFrom n (r + 2 ^ k) k else isqrtFrom n r k
/-- The integer square root. -/
def isqrt (n : Nat) : Nat := isqrtFrom n 0 (n.log2 / 2 + 1)

/-- The square root and its flags: exact but for a sticky lowest bit (07 R169). -/
def sqrtExact (a : FVal) : FVal × FlagSet :=
  let fl := sigFlag a
  match a with
  | .nan _ => (.nan false, fl)
  | .inf false => (.inf false, fl)
  | .inf true => (.nan false, fl ||| flagNV)
  | .fin n m e =>
    if m == 0 then (.fin n 0 0, fl)
    else if n then (.nan false, fl ||| flagNV)
    else
      let odd := e % 2 != 0
      let m := (if odd then 2 * m else m) * 2 ^ (2 * guardBits)
      let e := (if odd then e - 1 else e) / 2 - guardBits
      let r := isqrt m
      (.fin false (2 * r + (if r * r == m then 0 else 1)) (e - 1), fl)

/-- a × b + c exactly, with its flags; 0 × ∞ is invalid whatever c is (04 R102). -/
def fmaExact (md : Mode) (a b c : FVal) : FVal × FlagSet :=
  let (p, f1) := mulExact a b
  let (r, f2) := addExact md (match p with | .nan _ => .nan false | v => v) c
  (r, f1 ||| f2)

/-- Whether a < b, for values that are no NaNs. -/
def ltVal (a b : FVal) : Bool :=
  match a, b with
  | .inf x, .inf y => x && !y
  | .inf x, _ => x
  | _, .inf y => !y
  | .fin na ma ea, .fin nb mb eb =>
    let lo := min ea eb
    scaled na ma ea lo < scaled nb mb eb lo
  | _, _ => false
/-- Whether a = b, for values that are no NaNs; +0 = -0. -/
def eqVal (a b : FVal) : Bool := !a.isNan && !b.isNan && !ltVal a b && !ltVal b a

/-- A float bit string's minimum or maximum (04 R103): -0 lies below +0, one NaN gives the other operand, two give the canonical NaN,
a signalling one raises NV. -/
def minMaxBits (f : FloatFmt) (wantMax : Bool) (x y : Nat) : Flagged :=
  let a := decodeFloat f x
  let b := decodeFloat f y
  let fl := sigFlag a ||| sigFlag b
  if a.isNan && b.isNan then (f.nanBits, fl)
  else if a.isNan then (y, fl)
  else if b.isNan then (x, fl)
  else
    let less := ltVal a b || (a.isZero && b.isZero && a.neg && !b.neg)
    (if less != wantMax then x else y, fl)

/-- The comparisons EQ, LT, LE, UNORD (04 R105): the truth and the flags. -/
def compareBits (f : FloatFmt) (cond : Nat) (x y : Nat) : Bool × FlagSet :=
  let a := decodeFloat f x
  let b := decodeFloat f y
  let nan := a.isNan || b.isNan
  let sg := sigFlag a ||| sigFlag b
  match cond with
  | 0 => (eqVal a b, sg)
  | 1 => (!nan && ltVal a b, flagIf nan flagNV)
  | 2 => (!nan && !ltVal b a, flagIf nan flagNV)
  | _ => (nan, sg)

/-- The exact value of an integer. -/
def ofInt (v : Int) : FVal := .fin (v < 0) v.natAbs 0

/-- A value rounded to an integer under a mode, and whether that is inexact. -/
def roundToInt (md : Mode) (neg : Bool) (m : Nat) (e : Int) : Int × Bool :=
  let (k, x) := roundAt md neg m e 0
  (if neg then -(k : Int) else k, x)

/-- Float to integer in a range (03 R70, R71): NaN gives 0 and NV, saturation NV without NX, otherwise NX when inexact. -/
def floatToInt (lo hi : Int) (md : Mode) (v : FVal) : Int × FlagSet :=
  match v with
  | .nan _ => (0, flagNV)
  | .inf n => (if n then lo else hi, flagNV)
  | .fin n m e =>
    let (k, x) := roundToInt md n m e
    if k < lo then (lo, flagNV) else if k > hi then (hi, flagNV) else (k, flagIf x flagNX)

/-- Integer to a range, saturating (03 R71). -/
def saturate (lo hi v : Int) : Int × FlagSet :=
  if v < lo then (lo, flagSAT) else if v > hi then (hi, flagSAT) else (v, 0)

/-- One round of Philox on its counter, its keys aside (03 R78). -/
def philoxRound (ctr : Vector (BitVec 32) 4) (k0 k1 : BitVec 32) : Vector (BitVec 32) 4 :=
  let p : BitVec 64 := 0xD2511F53 * ctr[0].setWidth 64
  let q : BitVec 64 := 0xCD9E8D57 * ctr[2].setWidth 64
  #v[q.extractLsb' 32 32 ^^^ ctr[1] ^^^ k0, q.extractLsb' 0 32, p.extractLsb' 32 32 ^^^ ctr[3] ^^^ k1, p.extractLsb' 0 32]

/-- `n` rounds of Philox (03 R78). -/
def philoxRounds : Nat → Vector (BitVec 32) 4 → BitVec 32 → BitVec 32 → Vector (BitVec 32) 4
  | 0, c, _, _ => c
  | n + 1, c, k0, k1 => philoxRounds n (philoxRound c k0 k1) (k0 + 0x9E3779B9) (k1 + 0xBB67AE85)

/-- The generator's word for an index and a domain d (03 R78, R79). -/
def drawWord (n : BitVec 64) (d : BitVec 32) (k0 k1 : BitVec 32) : BitVec 32 :=
  let i := n.toNat / 4
  let ctr := philoxRounds 10 #v[BitVec.ofNat 32 i, BitVec.ofNat 32 (i / 2 ^ 32), d, 0] k0 k1
  ctr[fin4 n.toNat]

end Sys2Proof.Machine
end

