-- ==== Sys2Proof/Machine/Operands.lean ====
section
/-! DEFINITION. The operand forms of slot instructions: register groups after rotation (02 R36, 06 R139), elements (03 R60), row
capacity (06 R133), masks and stage mode (02 R37, 06 R138), the sweep (07 R157), dirty bits and extents (06 R145), and which thread
may execute a form (01 R15, R16). -/

namespace Sys2Proof.Machine

/-- A form that only a wick executes: in the taper it traps illegal (01 R15). -/
def forWick (i : Instr) (s : State) (k : Fin 8 → Host.Outcome State Fault Refusal) : Host.Outcome State Fault Refusal :=
  match s.cur.who with
  | .taper => trapNext s s.cur .illegal (wordOf i)
  | .wick w => k w

/-- A form that only the taper executes: in a wick it traps illegal (01 R16). -/
def forTaper (i : Instr) (s : State) (k : Host.Outcome State Fault Refusal) : Host.Outcome State Fault Refusal :=
  if isTaper s.cur then k else trapNext s s.cur .illegal (wordOf i)

/-- The wick that acts. -/
def State.curWick (s : State) (w : Fin 8) : Wick := s.wick s.cur.gang s.cur.core w
/-- The state with the acting wick changed. -/
def State.modCur (s : State) (w : Fin 8) (f : Wick → Wick) : State := s.modWick s.cur.gang s.cur.core w f
/-- The core that acts. -/
def State.curCore (s : State) : Core := s.core s.cur.gang s.cur.core
/-- The state with the acting core changed. -/
def State.modCurCore (s : State) (f : Core → Core) : State := s.modCore s.cur.gang s.cur.core f

/-- The bits of an element type (03 R60). -/
def etBits (et : Nat) : Nat :=
  match et with
  | 0 | 5 => 32 | 1 | 6 => 16 | 2 => 8 | 3 => 4 | 4 => 2 | _ => 32

/-- vtype.et (06 R131). -/
def Wick.et (W : Wick) : Nat := W.th.vtype.toNat % 8
/-- vtype.ta: the tail is written as zero (06 R131). -/
def Wick.ta (W : Wick) : Bool := bitOf W.th.vtype 7
/-- ElemSize(). -/
def Wick.esize (W : Wick) : Nat := etBits W.et
/-- The bits of a register: a row, or half of one in split mode (06 R128). -/
def Wick.regBits (W : Wick) : Nat := if W.split then 32768 else 65536
/-- The bits of a row that the capacity cap lets instructions reach (06 R133). -/
def Wick.capBits (W : Wick) : Nat := min (32 * 2 ^ W.vlcapLg.toNat) W.regBits
/-- The row capacity C under an element type (06 R133). -/
def Wick.capOf (W : Wick) (et : Nat) : Nat := W.capBits / etBits et
/-- The row capacity C (06 R133). -/
def Wick.cap (W : Wick) : Nat := W.capOf W.et
/-- Rows of a sweep (06 R130). -/
def Wick.nrows (W : Wick) : Nat := W.vrows.toNat
/-- Elements per row of a sweep (06 R130). -/
def Wick.vln (W : Wick) : Nat := W.vl.toNat
/-- Positions of a sweep: N = vrows × vl (07 R157). -/
def Wick.positions (W : Wick) : Nat := W.nrows * W.vln
/-- vl clamped to the capacity (06 R131, R133). -/
def Wick.clampVl (W : Wick) : Wick := { W with vl := BitVec.ofNat 16 (min W.vln W.cap) }

/-- An et code of a class (07 R156). -/
abbrev isIntEt (et : Nat) : Bool := et ≤ 4
/-- F32 or BF16 (07 R156). -/
abbrev isFloatEt (et : Nat) : Bool := et == 5 || et == 6
/-- The floating layout of an et. -/
def floatOf (et : Nat) : FloatFmt := if et == 6 then fmtBF16 else fmtF32

/-- The first register of the rotating region, and its size Q (06 R139). -/
def Wick.rotBase (W : Wick) : Nat := if W.split then 32 else 16
/-- A register name after rotation (06 R139). -/
def Wick.rotate (W : Wick) (n : Nat) : Nat :=
  let b := W.rotBase
  if n < b then n
  else
    let k := W.vrot.toNat % (b / W.nrows)
    b + (n - b + (b - k * W.nrows)) % b

/-- The first register that a field names (02 R36). -/
def Wick.fieldReg (W : Wick) (f : Reg) : Nat := if W.split && W.nrows != 1 then 2 * f.toNat else f.toNat

/-- The registers of the group that a field names, after rotation; none when it is not aligned (02 R36). -/
def Wick.group? (W : Wick) (f : Reg) : Option (List Nat) :=
  let n := W.fieldReg f
  if n % W.nrows == 0 then some (natsFrom (W.rotate n) W.nrows) else none

/-- The registers of the wide group that a field names, its two halves rotated separately (07 R165). -/
def Wick.wide? (W : Wick) (f : Reg) : Option (List Nat) :=
  let n := W.fieldReg f
  if n % (2 * W.nrows) == 0 then
    some (natsFrom (W.rotate n) W.nrows ++ natsFrom (W.rotate (n + W.nrows)) W.nrows)
  else none

/-- The registers of `k` consecutive groups from the one that a field names, each rotated separately (08 R201). In split mode with
vrows 1 a group past v31 is rotated too: 06 R139 lets nothing rotate there and 08 R201 lets the groups lie in v0 to v63
(DEDUCED, log 30). -/
def Wick.groups? (W : Wick) (f : Reg) (k : Nat) : Option (List Nat) :=
  let n := W.fieldReg f
  if n % W.nrows == 0 && n + k * W.nrows ≤ 2 * W.rotBase then
    some ((natsFrom 0 k).flatMap fun j => natsFrom (W.rotate (n + j * W.nrows)) W.nrows)
  else none

/-- The bits of a register (06 R128). -/
def Wick.reg (W : Wick) (n : Nat) : BitVec 65536 :=
  if W.split then
    let row := tabGet 0 W.rows (n / 2)
    if n % 2 == 0 then (row.setWidth 32768).setWidth 65536 else row >>> 32768
  else tabGet 0 W.rows n

/-- A row set; a zero row is not listed. -/
def putRow (t : Tab (BitVec 65536)) (n : Nat) (v : BitVec 65536) : Tab (BitVec 65536) :=
  if v == 0 then tabDel t n else tabPut t n v

/-- A register written; `top` is how many of its leading bits the write reaches with elements: the row becomes dirty and its extent
covers them (06 R128, R145). -/
def Wick.setReg (W : Wick) (n : Nat) (v : BitVec 65536) (top : Nat) : Wick :=
  let j := if W.split then n / 2 else n
  let row := tabGet 0 W.rows j
  let row' :=
    if W.split then
      if n % 2 == 0 then (row >>> 32768 <<< 32768) ||| v else (row.setWidth 32768).setWidth 65536 ||| (v <<< 32768)
    else v
  let groups := (top + 511) / 512
  let reach := if groups == 0 then 0 else if W.split && n % 2 == 1 then 64 + groups else groups
  { W with
    rows := putRow W.rows j row', dirty := setBit W.dirty j true
    extent := if reach > tabGet 0 W.extent j then tabPut W.extent j reach else W.extent }

/-- Element `e` of a register's bits at width `w`, as a number (03 R60). -/
def elemAt (row : BitVec 65536) (w e : Nat) : Nat := row.toNat / 2 ^ (w * e) % 2 ^ w
/-- A register's bits with element `e` replaced. -/
def elemSet (row : BitVec 65536) (w e v : Nat) : BitVec 65536 :=
  let m : BitVec 65536 := BitVec.ofNat 65536 (2 ^ w - 1) <<< (w * e)
  (row &&& ~~~m) ||| (BitVec.ofNat 65536 (v % 2 ^ w) <<< (w * e))
/-- A register's bits with elements `lo` to `hi` - 1 zero. -/
def elemsZero (row : BitVec 65536) (w lo hi : Nat) : BitVec 65536 :=
  if hi ≤ lo then row
  else row &&& ~~~(BitVec.ofNat 65536 (2 ^ (w * (hi - lo)) - 1) <<< (w * lo))

/-- A two's-complement number of width `w` (03 R60). -/
def toSigned (w v : Nat) : Int := if v < 2 ^ (w - 1) then v else (v : Int) - 2 ^ w
/-- An integer modulo 2^w (03 R75). -/
def wrapTo (w : Nat) (v : Int) : Nat := (v % 2 ^ w).toNat

/-- What a group holds, as read at issue: element `e` of row `r` (07 R155). -/
def readGroup (W : Wick) (regs : List Nat) (w : Nat) : Nat → Nat → Nat :=
  let rows := regs.map W.reg
  fun r e => elemAt (rows.getD r 0) w e

/-- All bits of mask register mk as a reader sees them: stage mode replaces them by its predicate (06 R138). -/
def Wick.mask (W : Wick) (k : Nat) : BitVec 32768 :=
  if k == 0 then BitVec.allOnes 32768
  else if bitOf W.smode (k - 1) then (if bitOf W.pred (k - 1) then BitVec.allOnes 32768 else 0)
  else tabGet 0 W.masks k
/-- The underlying bits of mask register mk written; a zero one is not listed (06 R137, R138). -/
def Wick.setMask (W : Wick) (k : Nat) (v : BitVec 32768) : Wick :=
  { W with masks := if v == 0 then tabDel W.masks k else tabPut W.masks k v }

/-- Whether a mask field fits the sweep: 02 R37. -/
def Wick.maskFits (W : Wick) (m : BitVec 3) : Bool := m == 0 || W.positions ≤ 32768

/-- Active(r, e) for positions of the sweep (02 R51). -/
def Wick.active (W : Wick) (m : BitVec 3) : Nat → Bool :=
  let k := W.mask m.toNat
  let v := W.vstart.toNat
  fun p => v ≤ p && (m == 0 || k.getLsbD p)

/-- What a sweep of one row leaves: the row, the flags raised, and 1 + the highest element written. -/
structure RowOut where
  row : BitVec 65536
  flags : FlagSet
  top : Nat
  deriving DecidableEq, Repr

/-- A sweep over some elements of a row in ascending order: an element for which `f` gives nothing keeps its value (07 R157). -/
def sweepRow (w : Nat) (f : Nat → Option Flagged) : List Nat → RowOut → RowOut
  | [], o => o
  | e :: es, o =>
    match f e with
    | none => sweepRow w f es o
    | some (v, fl) => sweepRow w f es { row := elemSet o.row w e v, flags := o.flags ||| fl, top := max o.top (e + 1) }

/-- A register swept: elements 0 to `n` - 1 by `f`, then the tail from `n` to `cap` - 1 zeroed under ta = 1 (07 R157). -/
def sweepReg (W : Wick) (reg w n cap : Nat) (f : Nat → Option Flagged) : Wick × FlagSet :=
  let o := sweepRow w f (natsFrom 0 n) { row := W.reg reg, flags := 0, top := 0 }
  let row := if W.ta then elemsZero o.row w n cap else o.row
  if o.top == 0 && !(W.ta && n < cap) then (W, o.flags) else (W.setReg reg row (w * o.top), o.flags)

/-- The rows of a group swept in ascending order; `f` is given the row and the element (07 R157). -/
def sweepRows (w n cap : Nat) (f : Nat → Nat → Option Flagged) : List Nat → Nat → Wick × FlagSet → Wick × FlagSet
  | [], _, o => o
  | reg :: regs, r, (W, fl) =>
    let (W', g) := sweepReg W reg w n cap (f r)
    sweepRows w n cap f regs (r + 1) (W', fl ||| g)

/-- A sweep of the destination group at the element type's own width: `f` gives each active element's value (07 R157). `keep` says
which positions are not written although active. -/
def laneSweep (W : Wick) (regs : List Nat) (w : Nat) (act : Nat → Bool) (f : Nat → Nat → Option Flagged) : Wick × FlagSet :=
  let vl := W.vln
  sweepRows w vl W.cap (fun r e => if act (r * vl + e) then f r e else none) regs 0 (W, 0)

/-- The wide tail's start in wide row `k`: for its even row min(vl, H), for its odd row max(vl - H, 0) (07 R165). -/
def wideCount (vl h k : Nat) : Nat := if k % 2 == 0 then min vl h else vl - h

/-- A sweep of a wide group: the wide element of narrow position (r, e) stands in row 2r + e ÷ H at e mod H (07 R165). -/
def wideRows (w vl h : Nat) (f : Nat → Nat → Option Flagged) : List Nat → Nat → Wick × FlagSet → Wick × FlagSet
  | [], _, o => o
  | reg :: regs, k, (W, fl) =>
    let (W', g) := sweepReg W reg w (wideCount vl h k) h fun e => f (k / 2) (k % 2 * h + e)
    wideRows w vl h f regs (k + 1) (W', fl ||| g)

/-- The rounding-mode code of a thread's vtype (06 R131). -/
def Thread.rm (th : Thread) : BitVec 3 := th.vtype.extractLsb' 4 3

/-- The draw of position `p` for a rounding under the wick's generator, domain 1 (03 R79). -/
def laneDraw (th : Thread) (p : Nat) : Nat := (drawWord (th.rctr + BitVec.ofNat 64 p) 1 th.rkey0 th.rkey1).toNat % 2 ^ 16

/-- The rounding mode of position `p` under vtype.rm (07 R158). -/
def laneMode (th : Thread) (p : Nat) : Mode :=
  if th.rm == 5 then .stochastic (laneDraw th p) else modeOf th.rm 0

/-- A wick after a sweep: its flags, vstart := 0, and, for a form that draws, rctr past every position (02 R52, 03 R79). -/
def Wick.swept (W : Wick) (fl : FlagSet) (draws : Bool) : Wick :=
  { W with
    vstart := 0
    th := { W.th with
      fflags := W.th.fflags ||| fl
      rctr := if draws then W.th.rctr + BitVec.ofNat 64 W.positions else W.th.rctr } }

/-- Whether a sweep touches nothing: vl = 0, or vstart at or past its end (06 R130, R132). -/
def Wick.emptySweep (W : Wick) : Bool := W.vln == 0 || W.vstart.toNat ≥ W.positions

/-- The outcome in which the acting wick has become `W` and completed its instruction. -/
abbrev wickDone (s : State) (w : Fin 8) (W : Wick) : Host.Outcome State Fault Refusal := moveOn (s.modCur w fun _ => W)

end Sys2Proof.Machine
end

