-- ==== Sys2Proof/Machine/Convert.lean ====
section
/-! DEFINITION. Convert(src, dst, rm) over every pair of formats (03 R64 to R71), and MX blocks (03 R66). -/

namespace Sys2Proof.Machine

/-- A number format of registers or memory: an integer of a width, T2, or a floating layout (03 R60, R61, R64). -/
inductive NumFmt where
  | int (w : Nat) (signed : Bool) | t2 | float (f : FloatFmt)
  deriving DecidableEq, Repr

/-- The register type of an et (03 R60). -/
def etFmt (et : Nat) : NumFmt := if isFloatEt et then .float (floatOf et) else .int (etBits et) true

/-- The element format of a memory format code; code 0 copies bits and has none of its own (03 R64). -/
def mfmtFmt (m : Nat) : NumFmt :=
  match m with
  | 1 => .int 8 true | 2 => .int 8 false | 3 => .int 16 true | 4 => .int 16 false | 5 => .float fmtF32 | 6 => .float fmtBF16
  | 7 => .float fmtFP16 | 8 | 13 => .float fmtE4M3 | 9 | 14 => .float fmtE5M2 | 10 => .float fmtE3M2 | 11 => .float fmtE2M3
  | 12 | 15 => .float fmtE2M1 | 16 => .t2 | 17 => .int 4 true | _ => .int 2 true

/-- Whether a memory format is floating (03 R65). -/
def mfmtFloat (m : Nat) : Bool := 5 ≤ m && m ≤ 15

/-- A T2 code's value, and TR for the reserved code (03 R67). -/
def t2Value (v : Nat) : Int × FlagSet :=
  match v % 4 with
  | 1 => (1, 0) | 3 => (-1, 0) | 2 => (0, flagTR) | _ => (0, 0)

/-- The least and the greatest value of an integer format or of T2. -/
def intRange : NumFmt → Int × Int
  | .int w true => (-(2 ^ (w - 1)), 2 ^ (w - 1) - 1)
  | .int w false => (0, 2 ^ w - 1)
  | _ => (-1, 1)

/-- The width of an integer format or of T2. -/
def intBits : NumFmt → Nat
  | .int w _ => w
  | _ => 2

/-- The value of an integer or T2 source. -/
def intValue (f : NumFmt) (v : Nat) : Int × FlagSet :=
  match f with
  | .int w true => (toSigned w (v % 2 ^ w), 0)
  | .int w false => ((v % 2 ^ w : Nat), 0)
  | _ => t2Value v

/-- Convert of an exact floating value into a format (03 R70, R71). -/
def convertVal (dst : NumFmt) (md : Mode) (v : FVal) : Flagged :=
  match dst with
  | .float f => roundTo f md v
  | i =>
    let (lo, hi) := intRange i
    let (k, fl) := floatToInt lo hi md v
    (wrapTo (intBits i) k, fl)

/-- Convert(src, dst, rm) of the bits of a source (02 R51, 03 R71). An integer goes into a wider integer format, signed or unsigned,
extended by its own sign, with no flag. -/
def convert (src dst : NumFmt) (md : Mode) (v : Nat) : Flagged :=
  match src with
  | .float f => convertVal dst md (decodeFloat f v)
  | i =>
    let (k, fl) := intValue i v
    match dst with
    | .float f => let (r, g) := roundTo f md (ofInt k); (r, fl ||| g)
    | j =>
      if intBits i < intBits j then (wrapTo (intBits j) k, fl)
      else
        let (lo, hi) := intRange j
        let (r, g) := saturate lo hi k
        (wrapTo (intBits j) r, fl ||| g)

/-- A value times 2^k. -/
def scaleBy (v : FVal) (k : Int) : FVal :=
  match v with
  | .fin n m e => .fin n m (e + k)
  | v => v

/-- The value of an MX element under its block's scale code; 0xFF makes it NaN (03 R66). -/
def mxValue (f : FloatFmt) (scale v : Nat) : FVal :=
  if scale == 255 then .nan false else scaleBy (decodeFloat f v) ((scale : Int) - 127)

/-- floor(log2 |v|) of a finite value that is not zero. -/
def log2Of : FVal → Option Int
  | .fin _ m e => if m == 0 then none else some (m.log2 + e)
  | _ => none

/-- emax of an MX element format (03 R66). -/
def mxEmax (m : Nat) : Int := if m == 13 then 8 else if m == 14 then 15 else 2

/-- An MX element as a load converts it to a floating element type, under its block's scale code (03 R66, 08 R198). -/
def mxLoad (mf et scale : Nat) (md : Mode) (raw : Nat) : Flagged :=
  match mfmtFmt mf with
  | .float f =>
    let (r, fl) := roundTo (floatOf et) md (mxValue f scale raw)
    (r, fl ||| sigFlag (decodeFloat f raw))
  | _ => (0, 0)

/-- The scale code that a store computes for a block of active values (03 R66). The manual gives none for a block in which every active
value is infinite, which has no largest finite magnitude: a free value from 0 to 254 (log 46). -/
def mxScale (m : Nat) (vs : List FVal) : Nat :=
  if vs.any FVal.isNan then 255
  else match vs.filterMap log2Of with
    | [] => if !vs.isEmpty && vs.all FVal.isInf then Config.infScale m % 255 else 0
    | k :: ks => (max 0 (min 254 (ks.foldl max k - mxEmax m + 127))).toNat

/-- An element of an MX block as stored: 0 in a block with a NaN; saturated in every mode otherwise (03 R66). The flags of a block with a
NaN, of which the manual says nothing, are NV for each signalling NaN alone (DESIGN CHOICE, log 46). -/
def mxElement (m scale : Nat) (md : Mode) (v : FVal) : Flagged :=
  match mfmtFmt m with
  | .float f => if scale == 255 then (0, sigFlag v) else roundToWith f md true (scaleBy v (127 - (scale : Int)))
  | _ => (0, 0)

end Sys2Proof.Machine
end

