-- ==== Sys2Proof/Machine/Special.lean ====
section
/-! DEFINITION. The special functions 2^x, log2 x, 1 ÷ x, 1 ÷ √x and tanh x, rounded once to BF16 under RNE (03 R77): each is computed
to more bits than any rounding of these inputs needs, with a sticky lowest bit for the rest (log 8). -/

namespace Sys2Proof.Machine

/-- Fraction bits of the fixed-point values of this file. -/
def fixBits : Nat := 192
/-- ln 2 in fixed point. -/
def ln2Fix : Nat := 4350955369971217654477563090224794165364344896676135745069
/-- log2 e in fixed point. -/
def log2eFix : Nat := 9055943544797870567083544809312461607371518589544137143473

/-- The sum of y^k ÷ k! from a term on, in fixed point. -/
def expSeries (y : Nat) : Nat → Nat → Nat → Nat → Nat
  | 0, _, _, sum => sum
  | n + 1, k, term, sum => let t := term * y / 2 ^ fixBits / k; expSeries y n (k + 1) t (sum + t)

/-- 2^f for a fraction f in fixed point. -/
def exp2Frac (f : Nat) : Nat := expSeries (f * ln2Fix / 2 ^ fixBits) 60 1 (2 ^ fixBits) (2 ^ fixBits)

/-- A magnitude with a sticky lowest bit. -/
def stickyVal (neg : Bool) (m : Nat) (e : Int) : FVal := .fin neg (2 * m + 1) (e - 1)

/-- 2^x for a value that is not an integer, by its integer part and its fraction in fixed point. -/
def exp2Of (n : Int) (f : Nat) : FVal := stickyVal false (exp2Frac f) (n - fixBits)

/-- 2^x (03 R77). -/
def exp2Val (v : FVal) : FVal × FlagSet :=
  match v with
  | .nan s => (.nan false, flagIf s flagNV)
  | .inf n => (if n then .fin false 0 0 else .inf false, 0)
  | .fin n m e =>
    if m == 0 then (.fin false 1 0, 0)
    else if e ≥ 0 then
      let k : Int := min (m * 2 ^ (min e.toNat 20)) 1000000
      (.fin false 1 (if n then -k else k), 0)
    else
      let d := (-e).toNat
      if m % 2 ^ d == 0 then
        let k : Int := min (m / 2 ^ d) 1000000
        (.fin false 1 (if n then -k else k), 0)
      else if m / 2 ^ d ≥ 1000000 then (.fin false 1 (if n then -1000000 else 1000000), 0)
      else
        let whole : Int := m / 2 ^ d
        let frac := m % 2 ^ d * 2 ^ fixBits / 2 ^ d
        if n then (exp2Of (-whole - 1) (2 ^ fixBits - 1 - frac), 0) else (exp2Of whole frac, 0)

/-- The bits of log2 m, the highest first, for m in fixed point from 1 to 2: by squaring. -/
def log2Bits : Nat → Nat → Nat → Nat
  | 0, _, acc => acc
  | n + 1, m, acc =>
    let q := m * m / 2 ^ 256
    if q ≥ 2 ^ 257 then log2Bits n (q / 2) (2 * acc + 1) else log2Bits n q (2 * acc)

/-- log2 x (03 R77). -/
def log2Val (v : FVal) : FVal × FlagSet :=
  match v with
  | .nan s => (.nan false, flagIf s flagNV)
  | .inf n => if n then (.nan false, flagNV) else (.inf false, 0)
  | .fin n m e =>
    if m == 0 then (.inf true, flagDZ)
    else if n then (.nan false, flagNV)
    else
      let k := m.log2
      let whole : Int := e + k
      if m == 2 ^ k then (ofInt whole, 0)
      else
        let bits := log2Bits 96 (m * 2 ^ 256 / 2 ^ k) 0
        let t : Int := 2 * (whole * 2 ^ 96 + bits) + 1
        (.fin (t < 0) t.natAbs (-97), 0)

/-- 1 ÷ x (03 R77). -/
def rcpVal (v : FVal) : FVal × FlagSet := divExact (.fin false 1 0) v

/-- 1 ÷ √x (03 R77). -/
def rsqrtVal (v : FVal) : FVal × FlagSet :=
  match v with
  | .nan s => (.nan false, flagIf s flagNV)
  | .inf n => if n then (.nan false, flagNV) else (.fin false 0 0, 0)
  | .fin n m e =>
    if m == 0 then (.inf n, flagDZ)
    else if n then (.nan false, flagNV)
    else
      let odd := e % 2 != 0
      let m := if odd then 2 * m else m
      let e := if odd then e - 1 else e
      let r := isqrt (2 ^ 256 / m)
      (if r * r * m == 2 ^ 256 then .fin false r (-128 - e / 2) else stickyVal false r (-128 - e / 2), 0)

/-- tanh of a positive magnitude m × 2^e that is neither tiny nor large, by e^(-2x). -/
def tanhMid (neg : Bool) (m : Nat) (e : Int) : FVal :=
  let x := if e ≥ 0 then m * 2 ^ e.toNat * 2 ^ fixBits else m * 2 ^ fixBits / 2 ^ (-e).toNat
  let y := 2 * x * log2eFix / 2 ^ fixBits
  let n := y / 2 ^ fixBits + 1
  let u := exp2Frac (n * 2 ^ fixBits - y) / 2 ^ n
  stickyVal neg ((2 ^ fixBits - u) * 2 ^ fixBits / (2 ^ fixBits + u)) (-(fixBits : Int))

/-- tanh x (03 R77). -/
def tanhVal (v : FVal) : FVal × FlagSet :=
  match v with
  | .nan s => (.nan false, flagIf s flagNV)
  | .inf n => (.fin n 1 0, 0)
  | .fin n m e =>
    if m == 0 then (.fin n 0 0, 0)
    else
      let top : Int := m.log2 + e
      if top < -20 then (.fin n (m * 2 ^ 40 - 1) (e - 40), 0)
      else if top ≥ 6 then (.fin n (2 ^ 60 - 1) (-60), 0)
      else (tanhMid n m e, 0)

/-- A special function's result for an element: rounded to BF16 under RNE, and under F32 widened (03 R77). -/
def specialResult (et : Nat) (f : FVal → FVal × FlagSet) (raw : Nat) : Flagged :=
  let (v, fl) := f (decodeFloat (if et == 6 then fmtBF16 else fmtF32) raw)
  let (r, g) := roundTo fmtBF16 .rne v
  (if et == 6 then r else r * 2 ^ 16, fl ||| g)

end Sys2Proof.Machine
end

