-- ==== Sys2Proof/Machine/Access.lean ====
section
/-! DEFINITION. The lines of the scalar data cache and of the instruction cache, and the fetch of words (04 R100, R101, 14 R325, 18 R383). -/

namespace Sys2Proof.Machine

/-- The 64 bytes of a line as a number's bits. -/
def lineData (m : Mem) (line : Nat) : BitVec 512 := BitVec.ofNat 512 (memRead m (line * 64) 64)

/-- `n` bytes at offset `i` of a line. -/
def linePart (d : BitVec 512) (i n : Nat) : Nat := d.toNat / 2 ^ (8 * i) % 2 ^ (8 * n)

/-- A line joins a 4-way cache of `sets` sets; a full set loses a line that the manual leaves open (04 R100, log 7). -/
def cacheFill (sets free : Nat) (ls : List CacheLine) (l : CacheLine) : List CacheLine :=
  let ls := ls.filter (·.line != l.line)
  let here := ls.filter fun x => x.line % sets == l.line % sets
  if here.length < 4 then l :: ls
  else match here[Config.freeNat free % 4]? with
    | some v => l :: ls.filter (·.line != v.line)
    | none => l :: ls

/-- A line that a cache may still serve: filled less than 4,096 ac ago (04 R101). -/
def CacheLine.live (l : CacheLine) (now : Nat) : Bool := now - l.filled < 4096

/-- A fetch hits a line that a prefetch brought into its instruction cache: it is counted for the core, as late while the L2 still waits
for it (12 R295). -/
def countFetchHit (s : State) (t : Tid) (p : Nat) (l : CacheLine) : State :=
  let late := s.l2.any fun x => x.tag == .linear (l.line / 4) && x.inflight
  let s1 := s.modCore t.gang t.core fun C => { C with pfused := C.pfused + 1, pflate := if late then C.pflate + 1 else C.pflate }
  let s2 : State := { s1 with
    l2 := s1.l2.map fun x => if x.tag == .linear (l.line / 4) then { x with prefetched := none, inflight := false } else x }
  s2.modPcore p fun c => { c with icache := c.icache.map fun x => if x.line == l.line then { x with ahead := false } else x }

/-- The word at a fetched address: from the instruction cache when its line is present, else from the L2, filling the line
(00 R1, 14 R325). -/
def fetchLine (s : State) (t : Tid) (x : Xlat) : IWord × State :=
  let p := s.pcoreNum t
  let line := x.pa / 64
  match (s.pcoreOf p).icache.find? (·.line == line) with
  | some l => (BitVec.ofNat 32 (linePart l.data (x.pa % 64) 4), if l.ahead then countFetchHit s t p l else s)
  | none =>
    let l : CacheLine := { line := line, data := lineData s.mem line, filled := s.ac, ahead := false }
    let s1 := l2Touch s (s.vfOf t) x.pa .read x.cmp none
    (BitVec.ofNat 32 (memRead s.mem x.pa 4),
      { s1.modPcore p (fun c => { c with icache := cacheFill 256 s.free c.icache l }) with free := s.free + 1 })

/-- How the fetch of a word ends (18 R383 step 1). -/
inductive Fetched where
  | word (w : IWord) (s : State)
  /-- The fetch fails with this cause at this address. -/
  | fault (c : Cause) (va : Word)
  /-- The thread waits on a page request, or its fill for room. -/
  | wait (s : State)
  deriving DecidableEq, Repr

/-- The fetch of the word at `va` for a thread (02 R33, 04 R96, 18 R383). -/
def fetchWord (s : State) (t : Tid) (va : Word) : Fetched :=
  match translate s (s.pcoreNum t) (s.vfOf t) va .fetch true with
  | (.fail c _, _) => .fault c va
  | (.miss m, s) => let (w, s) := raiseMiss s (s.vfOf t) va .fetch m; .wait (s.setWait t (.page w))
  | (.logFull, s) => .wait (s.setWait t .dirtyLog)
  | (.ok x, s) =>
    if hostRefuses s x.pa then .fault .protection va
    else if poisoned s x.pa then .fault .poison va
    else if !(s.pcoreOf (s.pcoreNum t)).icache.any (·.line == x.pa / 64) && !l2Room s (s.vfOf t) x.pa then .wait (noRoom s (s.vfOf t) x.pa)
    else let (w, s) := fetchLine s t x; .word w s

/-- A line prefetched into an instruction cache (08 R204, 09 R229). -/
def icacheFill (s : State) (p line : Nat) : State :=
  let l : CacheLine := { line := line, data := lineData s.mem line, filled := s.ac, ahead := true }
  { s.modPcore p (fun c => { c with icache := cacheFill 256 s.free c.icache l }) with free := s.free + 1 }

end Sys2Proof.Machine
end

