-- ==== Sys2Proof/Machine/Queue.lean ====
section
/-! DEFINITION. The accesses that a thread has made and that are still to be performed at the L2 (08 R188, 14 R312 to R319, R324): stores,
and loads that the agenda leaves for later (log 3); the order in which they may be performed, releases and acquires, and what a scalar
load reads. -/

namespace Sys2Proof.Machine

/-- One byte of a 64-byte line changed under a mask. -/
def patchLine (d : BitVec 512) (i : Nat) (mask val : Byte) : BitVec 512 :=
  let m : BitVec 512 := mask.zeroExtend 512 <<< (8 * i)
  (d &&& ~~~m) ||| ((val.zeroExtend 512 <<< (8 * i)) &&& m)

/-- A cached line updated in place by a store performed at the L2 (04 R100). -/
def patchCache (ls : List CacheLine) (bs : List PendByte) : List CacheLine :=
  ls.map fun l =>
    { l with data := bs.foldl (fun d b => if b.pa / 64 == l.line then patchLine d (b.pa % 64) b.mask b.val else d) l.data }

/-- The record of a plain writer of a watched sector (14 R330). -/
def watchRec (s : State) (t : Tid) : WatchRec :=
  { gang := t.gang, gtag := (s.gang t.gang).desc.gtag, core := t.core, who := t.who, epoch := (s.thread t).relCount }

/-- A queued store of a thread is performed at the L2: memory, the directory, the core's scalar data cache for a scalar store, the
sector's watch record, and the poison that a whole-sector write ends (04 R99, R100, 12 R275, 14 R318, R330). -/
def performStore (s : State) (t : Tid) (p : PendAccess) : State :=
  let secs := (p.bytes.map fun b => sectorOf b.pa).eraseDups
  let s := { s with mem := memPend s.mem p.bytes, poison := s.poison.filter fun k => !p.clears.contains k }
  let s := secs.foldl (fun s k =>
    let mine := p.bytes.filter fun b => sectorOf b.pa == k
    let lo := (mine.map (·.pa % 64)).foldl min 63
    let part := mine.any (fun b => b.mask != 0xFF) || partWord lo mine.length
    let s := l2Touch s (s.vfOf t) (k * 64) (.write (wholeWords lo mine.length) part) p.cmp none
    if p.watched && l2Present s (k * 64) then { s with watch := tabPut s.watch k (watchRec s t) } else s) s
  if p.vector then s else s.modPcore (s.pcoreNum t) fun q => { q with dcache := patchCache q.dcache p.bytes }


/-- A line that a scalar load fetches joins its core's scalar data cache, unless it is another device's, the host's or carries poison
(04 R100). -/
def fillScalar (s : State) (t : Tid) (pa : Nat) : State :=
  if !localHbm s pa || poisoned s pa then s
  else
    let l : CacheLine := { line := pa / 64, data := lineData s.mem (pa / 64), filled := s.ac, ahead := false }
    { s.modPcore (s.pcoreNum t) (fun c => { c with dcache := cacheFill 128 s.free c.dcache l }) with free := s.free + 1 }

/-- A loaded value of `n` bytes widened into a register (04 R97). -/
def widened (n : Nat) (signed : Bool) (v : Nat) : Word :=
  let v : BitVec (8 * n) := BitVec.ofNat (8 * n) v
  if signed then v.signExtend 64 else v.setWidth 64

/-- The value of a vector load's element from the number of the bytes that it lies in (08 R198, 03 R66, R71). -/
def LateElem.value (x : LateElem) (raw : Nat) : Flagged :=
  let v := raw / 2 ^ x.shift % 2 ^ x.bits
  let md := modeOf x.rm x.draw
  match x.scale with
  | some sc => mxLoad x.mf x.et sc md v
  | none => if x.mf == 0 then (v, 0) else convert (mfmtFmt x.mf) (etFmt x.et) md v

/-- An element that a load has read goes to its register, with its flags; only its flags are left when a later load has taken fresh rows for
the name (06 R141, 08 R198). -/
def Wick.landElem (W : Wick) (x : LateElem) (raw : Nat) : Wick :=
  let (v, fl) := x.value raw
  let W := { W with th := { W.th with fflags := W.th.fflags ||| fl } }
  match x.reg with
  | some r => W.setReg r (elemSet (W.reg r) x.w x.e v) (x.w * (x.e + 1))
  | none => W

/-- A queued load of a thread is performed at the L2: its bytes are read, and the value goes where it belongs (04 R97, R100, 08 R198,
14 R318). -/
def performLoad (s : State) (t : Tid) (p : PendAccess) (into : LoadInto) : State :=
  let raw := leNat (p.bytes.map fun b => memByte s.mem b.pa)
  let s := ((p.bytes.map fun b => sectorOf b.pa).eraseDups).foldl (fun s k => l2Touch s (s.vfOf t) (k * 64) .read p.cmp none) s
  match into with
  | .x rd n sg => (fillScalar s t ((p.bytes.map (·.pa)).headD 0)).setX t rd (widened n sg raw)
  | .v x => match t.who with
    | .wick w => s.modWick t.gang t.core w (·.landElem x raw)
    | .taper => s

/-- A queued access of a thread is performed. -/
def performAccess (s : State) (t : Tid) (p : PendAccess) : State :=
  match p.load with
  | none => performStore s t p
  | some d => performLoad s t p d

/-- Queued accesses of a thread are performed in order. -/
def performAll (s : State) (t : Tid) (ps : List PendAccess) : State := ps.foldl (fun s p => performAccess s t p) s

/-- The queued accesses of a thread that are marked are performed, in program order; the others stay. -/
def flushMarked (s : State) (t : Tid) (marks : List Bool) : State :=
  let q := ((s.thread t).pend).zip marks
  (performAll s t ((q.filter (·.2)).map (·.1))).modThread t fun th => { th with pend := (q.filter (!·.2)).map (·.1) }

/-- Every queued access of a thread is performed, in program order (14 R313). -/
def flushStores (s : State) (t : Tid) : State :=
  (performAll s t (s.thread t).pend).modThread t fun th => { th with pend := [] }

/-- The queued scalar accesses of a thread are performed, in program order (14 R312 case 1). -/
def flushScalar (s : State) (t : Tid) : State := flushMarked s t ((s.thread t).pend.map (!·.vector))

/-- Whether two queued accesses reach a common byte. -/
def PendAccess.meets (p q : PendAccess) : Bool := p.bytes.any fun a => q.bytes.any fun b => a.pa == b.pa

/-- Whether a queued access must be performed before one after it in its thread's queue: scalar accesses keep program order among
themselves, vector accesses keep it where they meet, and the two kinds are unordered (08 R205, 14 R312). -/
def PendAccess.before (e p : PendAccess) : Bool := if p.vector then e.vector && e.meets p else !e.vector

/-- Whether the k-th queued access of a thread may be performed before those queued ahead of it (14 R312). -/
def mayPerform (q : List PendAccess) (k : Nat) : Bool :=
  match q[k]? with
  | none => false
  | some p => (q.take k).all fun e => !e.before p

/-- Whether a queued access finds what it needs at the L2 or on the links (01 R30, 12 R277, R280, 18 R397). -/
def PendAccess.room (p : PendAccess) (s : State) (vf : Nat) : Bool := p.bytes.all fun b => l2Room s vf b.pa

/-- The k-th queued access of a thread is performed, if its order allows it and it finds room; a request that another device does not answer
stays (log 3). -/
def performNth (s : State) (t : Tid) (k : Nat) : State :=
  let q := (s.thread t).pend
  match q[k]? with
  | some p =>
    if !p.room s (s.vfOf t) then p.bytes.foldl (fun s b => noRoom s (s.vfOf t) b.pa) s
    else if mayPerform q k then
      (performAccess s t p).modThread t fun th =>
        { th with pend := (th.pend.eraseIdx k).map fun e => if e.group.isSome && e.group == p.group then { e with begun := true } else e }
    else s
  | none => s

/-- Which accesses of a queue must be performed before an access after them: those that it must follow, and those that these must
follow. -/
def marksBefore (p : PendAccess) : List PendAccess → List Bool × List PendAccess
  | [] => ([], [p])
  | e :: q =>
    let (ms, ps) := marksBefore p q
    if ps.any e.before then (true :: ms, e :: ps) else (false :: ms, ps)

/-- The queued accesses of a thread that an access of it must follow are performed (08 R205, 14 R312). -/
def flushBefore (s : State) (t : Tid) (p : PendAccess) : State := flushMarked s t (marksBefore p (s.thread t).pend).1

/-- Which accesses of a queue are performed when those that `sel` picks are: these, and those that these must follow. -/
def marksWhere (sel : PendAccess → Bool) : List PendAccess → List Bool × List PendAccess
  | [] => ([], [])
  | e :: q =>
    let (ms, ps) := marksWhere sel q
    if sel e || ps.any e.before then (true :: ms, e :: ps) else (false :: ms, ps)

/-- The queued accesses of a thread that `sel` picks are performed, with those that they must follow. -/
def flushWhere (s : State) (t : Tid) (sel : PendAccess → Bool) : State := flushMarked s t (marksWhere sel (s.thread t).pend).1

/-- An access joins its thread's queue. -/
def queueStore (s : State) (t : Tid) (p : PendAccess) : State := s.modThread t fun th => { th with pend := th.pend ++ [p] }

/-- A vector access to `n` bytes from a physical address, for its order alone. -/
def vectorAt (pa n : Nat) : PendAccess :=
  { vector := true, bytes := (natsFrom pa n).map fun a => { pa := a, mask := 0, val := 0 }, watched := false, cmp := false, clears := [] }

/-- Whether a thread lies in another's instance of a scope (14 R311): the thread itself, its gang core, its gang quad, its partition, and
for .dm every thread of this device. -/
def inScope (s : State) (scope : BitVec 3) (a b : Tid) : Bool :=
  match scope.toNat with
  | 0 => a == b
  | 1 => a.gang == b.gang && a.core == b.core
  | 2 => a.gang == b.gang && a.core / 4 == b.core / 4
  | 3 => s.partOf a.gang == s.partOf b.gang
  | _ => true

/-- The release count of a thread rises (14 R330). -/
def countRelease (s : State) (t : Tid) : State := s.modThread t fun th => { th with relCount := th.relCount + 1 }

/-- A release whose thread's earlier accesses are performed first (14 R313, R330). -/
def release (s : State) (t : Tid) : State := countRelease (flushStores s t) t

/-- A release at a scope (14 R311, R313, R314): below .pt the thread's earlier accesses may still be under way, marked with the scope, so
that whoever acquires within it has them performed first; those that reach its own access's bytes are performed (14 R317 rule 1;
log 3). -/
def releaseAt (s : State) (t : Tid) (scope : BitVec 3) (p : PendAccess) : State :=
  if 3 ≤ scope.toNat then release s t
  else
    let s := flushWhere s t (·.meets p)
    countRelease (s.modThread t fun th =>
      { th with pend := th.pend.map fun e => { e with scope := some (match e.scope with | some c => if c.toNat < scope.toNat then scope else c | none => scope) } }) t

/-- Every thread that a placed or saved gang has. -/
def allThreads (s : State) : List Tid :=
  s.gangs.flatMap fun (g, G) => G.cores.flatMap fun (c, _) =>
    { gang := g, core := c, who := .taper } :: (List.finRange 8).map fun w => { gang := g, core := c, who := .wick w }

/-- The accesses of other threads that a release has left under way, within a scope whose instance holds the acquiring thread, and the
acquire's own holds the other, are performed, each with what its thread's queue holds before it (14 R314). -/
def drainReleased (s : State) (t : Tid) (scope : BitVec 3) : State :=
  (allThreads s).foldl (fun s u =>
    let q := (s.thread u).pend
    let due (e : PendAccess) : Bool := match e.scope with | some c => inScope s c u t && inScope s scope t u | none => false
    if u != t && q.any due then
      let n := q.length - (q.reverse.takeWhile fun e => !due e).length
      flushMarked s u ((natsFrom 0 q.length).map (· < n))
    else s) s

/-- The scalar data cache of a thread's core is emptied (04 R101). -/
def emptyScalar (s : State) (t : Tid) : State := s.modPcore (s.pcoreNum t) fun p => { p with dcache := [] }

/-- An acquire empties the scalar data cache of the thread's core (04 R101, 14 R313), after what the releases in its scope have left under
way is performed (14 R314). -/
def acquire (s : State) (t : Tid) (scope : BitVec 3) : State := emptyScalar (drainReleased s t scope) t

/-- Several threads acquire at one instant: all that their scopes have left under way is performed, then their caches are emptied. -/
def acquireAll (s : State) (ts : List Tid) (scope : BitVec 3) : State :=
  ts.foldl emptyScalar (ts.foldl (fun s t => drainReleased s t scope) s)

/-- One byte as changed by a thread's own queued scalar stores, the latest last (04 R98, 14 R319). -/
def overlay (q : List PendAccess) (pa : Nat) (b : Byte) : Byte :=
  q.foldl (fun b p =>
    if !p.vector && p.load.isNone then p.bytes.foldl (fun b x => if x.pa == pa then mergeByte b x.mask x.val else b) b else b) b

/-- Bytes from `pa` on as seen through a thread's own queued scalar stores. -/
def overlayBytes (q : List PendAccess) (pa : Nat) : List Byte → List Byte
  | [] => []
  | b :: bs => overlay q pa b :: overlayBytes q (pa + 1) bs

/-- The line of the scalar data cache that serves a scalar load (04 R100). -/
def scalarHit (s : State) (t : Tid) (pa : Nat) : Option CacheLine :=
  (s.pcoreOf (s.pcoreNum t)).dcache.find? fun l => l.line == pa / 64 && l.live s.ac

/-- What a scalar load reads: from the scalar data cache when its line is present, with its thread's own earlier scalar stores over it
(14 R319); else from the L2 after its thread's earlier scalar accesses, allocating the line (04 R97 to R100, 14 R312 case 1, R318). -/
def scalarRead (s : State) (t : Tid) (x : Xlat) (n : Nat) : Nat × State :=
  match scalarHit s t x.pa with
  | some l => (leNat (overlayBytes (s.thread t).pend x.pa (leBytes n (linePart l.data (x.pa % 64) n))), s)
  | none =>
    let s := flushScalar s t
    (memRead s.mem x.pa n, fillScalar (l2Touch s (s.vfOf t) x.pa .read x.cmp none) t x.pa)

/-- Whether the bytes that a scalar load would read carry poison: a cached line never does (04 R100, 12 R275). -/
def scalarPoison (s : State) (t : Tid) (x : Xlat) : Bool :=
  poisoned s x.pa && !(s.pcoreOf (s.pcoreNum t)).dcache.any fun l => l.line == x.pa / 64 && l.live s.ac


end Sys2Proof.Machine
end

