-- ==== Sys2Proof/Machine/Time.lean ====
section
/-! DEFINITION. What passing time does: the ac count, the cycle counters, the tokens charged (04 R86, 17 R370, R371), and which
events are due (17 R372, 18 R395). -/

namespace Sys2Proof.Machine

/-- Whether a gang holds quads (17 R370). -/
def Gang.placed (G : Gang) : Bool := G.life != .saved

/-- A gang's cores count `n` ac while it runs (04 R86); it is charged while it holds quads (17 R370). While a save or a restore holds the
quads of a gang whose threads stand still, its cycle counters stand still too (DEDUCED, log 47: 04 R86 freezes them while the gang is
pre-empted). -/
def Gang.tick (G : Gang) (n : Nat) : Gang :=
  { G with
    tokens := if G.placed then G.tokens + BitVec.ofNat 64 (4 * n * G.quads.length) else G.tokens
    cores := if G.life == .running then G.cores.map fun (k, C) => (k, { C with cycle := C.cycle + BitVec.ofNat 64 n }) else G.cores }

/-- The moves of wicks to youngest that arose in an ac take effect at its end in every core of a gang (05 R111). -/
def Gang.settleIssues (G : Gang) : Gang :=
  { G with cores := G.cores.map fun (k, C) => (k, if C.issue.moves == 0 then C else { C with issue := C.issue.settle }) }

/-- The VF of a gang pays for `n` ac from its balance; what the balance does not cover is owing (17 R371). -/
def Vf.charge (v : Vf) (amount : Nat) : Vf :=
  { v with bal := v.bal - amount, owing := v.owing + (amount - v.bal) }

/-- A millisecond in the parts that `State.time` counts. -/
def msTime : Nat := 12600000
/-- A microsecond in the parts that `State.time` counts. -/
def usTime : Nat := 12600

/-- An ac in the parts that `State.time` counts, by the step of the arithmetic clock (19 R414). -/
def acTime : ClockStep → Nat
  | .mhz1050 => 12 | .mhz840 => 15 | .mhz630 => 20 | .mhz525 => 24

/-- `n` ac pass. -/
def elapse (s : State) (n : Nat) : State :=
  if n == 0 then s else
  let s := s.gangs.foldl (fun s (_, G) => if G.placed then s.modVf G.vf (·.charge (4 * n * G.quads.length)) else s) s
  { s with ac := s.ac + n, time := s.time + n * acTime s.power.step, gangs := s.gangs.map fun (k, G) => (k, (G.tick n).settleIssues) }

/-- The token period in ac (17 R370). -/
def periodAc : Nat := 262144
/-- The ac after which a request without a reply is a link loss (18 R397). -/
def replyAc : Nat := 2 ^ 20
/-- The period of the HBM rows' activation counters: 32 us (12 R294). -/
def actPeriod : Nat := 32 * usTime
/-- The time for which a request to a throttled row is held at most: 2 us (12 R294). -/
def holdTime : Nat := 2 * usTime
/-- The watchdog's bound in ac (18 R395). -/
def watchdogAc : Nat := 2 ^ 24

/-- The units that hold a request, with their partition and the ac since when each has done nothing for it (18 R395): channels by their head's
last move, SEND entries by theirs, the dispatcher by a gang that it saves or restores, and page requests (DEDUCED, log 33). -/
def allHolding (s : State) : List (Nat × Nat) :=
  (s.gangs.flatMap fun (g, G) =>
    match G.life with
    | .running =>
      G.cores.flatMap fun (_, C) =>
        (C.chans.toList.filterMap fun x => if x.queue.isEmpty then none else some (s.partOf g, x.movedAt)) ++
          C.sends.map fun y => (s.partOf g, y.movedAt)
    | .stopping | .restoring => [(s.partOf g, G.progressAt)]
    | .saved => []) ++
  s.vfs.flatMap fun (_, v) => v.reqs.map fun q => (v.part, q.since)

/-- The units of the module's partitions that hold a request; once the watchdog has tripped for one, its partition counts anew (18 R395;
log 33). -/
def unitsHolding (s : State) : List (Nat × Nat) :=
  (allHolding s).filterMap fun u => (tabGet? s.parts u.1).map fun P => (u.1, max u.2 P.trippedAt)

/-- The partition of a unit for which the watchdog trips (18 R395). -/
def heldTooLong (s : State) : Option Nat := ((unitsHolding s).find? fun u => s.ac - u.2 ≥ watchdogAc).map (·.1)

/-- Whether the watchdog trips for a gang: no thread issued or completed an instruction and no engine moved a byte for as long
(18 R395). -/
def watchdogDue (s : State) (G : Gang) : Bool := G.life == .running && s.ac - G.progressAt ≥ watchdogAc

/-- An event that the passing of time has made due (12 R294, 15 R341, 17 R371, R372, 18 R391, R395, R397, 19 R401). -/
inductive Due where
  | period | balance (vf : Nat) | watchdog (g : Nat) | unit (part : Nat) | pauseOver (vf : Nat) | wait (t : Tid) | rows | held | reply (part : Nat)
  deriving DecidableEq, Repr

/-- The ac at which the real clock reaches a time, at the present step of the arithmetic clock (19 R414). -/
def acAt (s : State) (time : Nat) : Nat := s.ac + (time - s.time + (acTime s.power.step - 1)) / acTime s.power.step

/-- The ac at which a VF has been paused for as long as its policy allows, at the present step of the clock (19 R401); one in the TDISP
state ERROR stays stopped (19 R408). -/
def pauseEnd (s : State) (v : Vf) : Option Nat :=
  if v.state == 2 && v.pausing.isNone && v.tdisp != .error && v.policy.pausemaxMs != 0 then
    v.pausedAt.map fun a => acAt s (a + v.policy.pausemaxMs * msTime)
  else none

/-- Whether a VF has been paused for as long as its policy allows (19 R401). -/
def pauseOver (s : State) (v : Vf) : Bool := (pauseEnd s v).any (· ≤ s.ac)

/-- The ac at which a thread's wait ends by itself or reads its word again at the latest (15 R341, 18 R391). -/
def Wait.dueAt : Wait → Option Nat
  | .wfe since => some (since + 65536)
  | .word _ _ _ _ _ _ _ readAt => some (readAt + 1024)
  | _ => none

/-- The threads of running gangs with the ac at which their wait falls due. -/
def waitsDue (s : State) : List (Tid × Nat) :=
  s.gangs.flatMap fun (g, G) =>
    if G.life == .running && !G.debugStop then
      G.cores.flatMap fun (c, C) =>
        ((Who.taper, C.taper.th.wait) :: (List.finRange 8).map fun w => (Who.wick w, C.wicks[w].th.wait)).filterMap fun (who, x) =>
          (x.bind Wait.dueAt).map fun a => ({ gang := g, core := c, who := who }, a)
    else []

/-- The ac at which a request that is held, or has no reply, falls due, and the row counters' period ends (12 R294, 18 R397). -/
def unitsDue (s : State) : List (Due × Nat) :=
  (.rows, acAt s (s.actAt + actPeriod)) :: (s.held.map fun h => (.held, acAt s (h.2 + holdTime))) ++
    s.linkReqs.map fun q => (.reply q.part, q.since + replyAc)

/-- The first event that the passing of time has made due: a balance that is spent, the period's start, a watchdog, a pause longer than
its policy allows, a wait's limit, the end of a hold, of the row counters' period, or of the wait for a reply. -/
def dueEvent (s : State) : Option Due :=
  match s.vfs.find? fun (_, v) => v.owing != 0 with
  | some (k, _) => some (.balance k)
  | none =>
    if s.ac - s.periodAt ≥ periodAc then some .period
    else match s.gangs.find? fun (_, G) => watchdogDue s G with
    | some (g, _) => some (.watchdog g)
    | none =>
      match heldTooLong s with
      | some part => some (.unit part)
      | none =>
        match s.vfs.find? fun (_, v) => pauseOver s v with
        | some (k, _) => some (.pauseOver k)
        | none =>
          match (waitsDue s).find? fun x => x.2 ≤ s.ac with
          | some (t, _) => some (.wait t)
          | none => ((unitsDue s).find? fun x => x.2 ≤ s.ac).map (·.1)

end Sys2Proof.Machine
end

