-- ==== Sys2Proof/Machine/Integer.lean ====
section
/-! DEFINITION. The integer register instructions (04 R90 to R93) and the branches and jumps (04 R94 to R96). -/

namespace Sys2Proof.Machine

/-- 1 when a condition holds, else 0. -/
abbrev boolWord (b : Bool) : Word := if b then 1 else 0

/-- The signed quotient truncated towards zero; division by zero saturates by the sign of the dividend, the signed overflow to the
largest value (04 R91). -/
def divS (a b : Word) : Word :=
  if b = 0 then (if a.msb then BitVec.intMin 64 else BitVec.intMax 64)
  else if a = BitVec.intMin 64 ∧ b = BitVec.allOnes 64 then BitVec.intMax 64
  else a.sdiv b
/-- The unsigned quotient; all ones for a zero divisor (04 R91). -/
def divU (a b : Word) : Word := if b = 0 then BitVec.allOnes 64 else a.udiv b
/-- The signed remainder, with the sign of the dividend; the dividend for a zero divisor (04 R91). -/
def remS (a b : Word) : Word := if b = 0 then a else a.srem b
/-- The unsigned remainder (04 R91). -/
def remU (a b : Word) : Word := if b = 0 then a else a.umod b

/-- How many of the `n` bits below bit `n` of a value are zero before the first one, from the top (04 R90). -/
def leadingZeros (a : Word) : Nat → Nat
  | 0 => 0
  | n + 1 => if a.getLsbD n then 0 else 1 + leadingZeros a n
/-- How many bits from bit `i` up are zero before the first one, among `n` (04 R90). -/
def trailingZeros (a : Word) (i : Nat) : Nat → Nat
  | 0 => 0
  | n + 1 => if a.getLsbD i then 0 else 1 + trailingZeros a (i + 1) n
/-- How many of the lowest `n` bits are one (04 R90). -/
def onesBelow (a : Word) : Nat → Nat
  | 0 => 0
  | n + 1 => (if a.getLsbD n then 1 else 0) + onesBelow a n

/-- Bits 127:64 of the signed product (04 R90). -/
def mulHigh (a b : Word) : Word := ((a.signExtend 128 * b.signExtend 128) >>> 64).setWidth 64
/-- Bits 127:64 of the unsigned product (04 R90). -/
def mulHighU (a b : Word) : Word := ((a.setWidth 128 * b.setWidth 128) >>> 64).setWidth 64
/-- The shift amount of a register shift: bits 5:0 (04 R92). -/
abbrev shamt (b : Word) : Nat := b.toNat % 64
/-- The shift amount of an immediate shift: bit 5 stands in funct bit 6 (04 R92). -/
abbrev shamtImm (h : Reg) (g : BitVec 1) : Nat := g.toNat * 32 + h.toNat

/-- ADD (04 R90): X[rs1] + X[rs2], modulo 2^64, into rd. -/
def execAdd (d a b : Reg) (s : State) : Host.Outcome State Fault Refusal :=
  let x := s.getX s.cur a
  let y := s.getX s.cur b
  writeRd s d (x + y)

/-- SUB (04 R90): X[rs1] - X[rs2], modulo 2^64, into rd. -/
def execSub (d a b : Reg) (s : State) : Host.Outcome State Fault Refusal :=
  let x := s.getX s.cur a
  let y := s.getX s.cur b
  writeRd s d (x - y)

/-- AND (04 R90): bitwise AND, into rd. -/
def execAnd (d a b : Reg) (s : State) : Host.Outcome State Fault Refusal :=
  let x := s.getX s.cur a
  let y := s.getX s.cur b
  writeRd s d (x &&& y)

/-- OR (04 R90): bitwise OR, into rd. -/
def execOr (d a b : Reg) (s : State) : Host.Outcome State Fault Refusal :=
  let x := s.getX s.cur a
  let y := s.getX s.cur b
  writeRd s d (x ||| y)

/-- XOR (04 R90): bitwise XOR, into rd. -/
def execXor (d a b : Reg) (s : State) : Host.Outcome State Fault Refusal :=
  let x := s.getX s.cur a
  let y := s.getX s.cur b
  writeRd s d (x ^^^ y)

/-- SLL (04 R90): shift left by b[5:0], into rd. -/
def execSll (d a b : Reg) (s : State) : Host.Outcome State Fault Refusal :=
  let x := s.getX s.cur a
  let y := s.getX s.cur b
  writeRd s d (x <<< shamt y)

/-- SRL (04 R90): logical shift right by b[5:0], into rd. -/
def execSrl (d a b : Reg) (s : State) : Host.Outcome State Fault Refusal :=
  let x := s.getX s.cur a
  let y := s.getX s.cur b
  writeRd s d (x >>> shamt y)

/-- SRA (04 R90): arithmetic shift right by b[5:0], into rd. -/
def execSra (d a b : Reg) (s : State) : Host.Outcome State Fault Refusal :=
  let x := s.getX s.cur a
  let y := s.getX s.cur b
  writeRd s d (x.sshiftRight (shamt y))

/-- SLT (04 R90): 1 when a < b signed, into rd. -/
def execSlt (d a b : Reg) (s : State) : Host.Outcome State Fault Refusal :=
  let x := s.getX s.cur a
  let y := s.getX s.cur b
  writeRd s d (boolWord (x.slt y))

/-- SLTU (04 R90): 1 when a < b unsigned, into rd. -/
def execSltu (d a b : Reg) (s : State) : Host.Outcome State Fault Refusal :=
  let x := s.getX s.cur a
  let y := s.getX s.cur b
  writeRd s d (boolWord (x.ult y))

/-- MIN (04 R90): signed minimum, into rd. -/
def execMin (d a b : Reg) (s : State) : Host.Outcome State Fault Refusal :=
  let x := s.getX s.cur a
  let y := s.getX s.cur b
  writeRd s d (if x.slt y then x else y)

/-- MAX (04 R90): signed maximum, into rd. -/
def execMax (d a b : Reg) (s : State) : Host.Outcome State Fault Refusal :=
  let x := s.getX s.cur a
  let y := s.getX s.cur b
  writeRd s d (if x.slt y then y else x)

/-- MINU (04 R90): unsigned minimum, into rd. -/
def execMinu (d a b : Reg) (s : State) : Host.Outcome State Fault Refusal :=
  let x := s.getX s.cur a
  let y := s.getX s.cur b
  writeRd s d (if x.ult y then x else y)

/-- MAXU (04 R90): unsigned maximum, into rd. -/
def execMaxu (d a b : Reg) (s : State) : Host.Outcome State Fault Refusal :=
  let x := s.getX s.cur a
  let y := s.getX s.cur b
  writeRd s d (if x.ult y then y else x)

/-- MUL (04 R90): bits 63:0 of the product, into rd. -/
def execMul (d a b : Reg) (s : State) : Host.Outcome State Fault Refusal :=
  let x := s.getX s.cur a
  let y := s.getX s.cur b
  writeRd s d (x * y)

/-- MULH (04 R90): bits 127:64 of the signed product, into rd. -/
def execMulh (d a b : Reg) (s : State) : Host.Outcome State Fault Refusal :=
  let x := s.getX s.cur a
  let y := s.getX s.cur b
  writeRd s d (mulHigh x y)

/-- MULHU (04 R90): bits 127:64 of the unsigned product, into rd. -/
def execMulhu (d a b : Reg) (s : State) : Host.Outcome State Fault Refusal :=
  let x := s.getX s.cur a
  let y := s.getX s.cur b
  writeRd s d (mulHighU x y)

/-- DIV (04 R91): the signed quotient, into rd. -/
def execDiv (d a b : Reg) (s : State) : Host.Outcome State Fault Refusal :=
  let x := s.getX s.cur a
  let y := s.getX s.cur b
  writeRd s d (divS x y)

/-- DIVU (04 R91): the unsigned quotient, into rd. -/
def execDivu (d a b : Reg) (s : State) : Host.Outcome State Fault Refusal :=
  let x := s.getX s.cur a
  let y := s.getX s.cur b
  writeRd s d (divU x y)

/-- REM (04 R91): the signed remainder, into rd. -/
def execRem (d a b : Reg) (s : State) : Host.Outcome State Fault Refusal :=
  let x := s.getX s.cur a
  let y := s.getX s.cur b
  writeRd s d (remS x y)

/-- REMU (04 R91): the unsigned remainder, into rd. -/
def execRemu (d a b : Reg) (s : State) : Host.Outcome State Fault Refusal :=
  let x := s.getX s.cur a
  let y := s.getX s.cur b
  writeRd s d (remU x y)

/-- CLZ (04 R90): the count of leading zero bits, into rd. -/
def execClz (d a : Reg) (s : State) : Host.Outcome State Fault Refusal :=
  let x := s.getX s.cur a
  writeRd s d (BitVec.ofNat 64 (leadingZeros x 64))

/-- CTZ (04 R90): the count of trailing zero bits, into rd. -/
def execCtz (d a : Reg) (s : State) : Host.Outcome State Fault Refusal :=
  let x := s.getX s.cur a
  writeRd s d (BitVec.ofNat 64 (trailingZeros x 0 64))

/-- CPOP (04 R90): the count of one bits, into rd. -/
def execCpop (d a : Reg) (s : State) : Host.Outcome State Fault Refusal :=
  let x := s.getX s.cur a
  writeRd s d (BitVec.ofNat 64 (onesBelow x 64))

/-- SLLI (04 R92): shift left by a constant 0 to 63, into rd. -/
def execSlli (d a h : Reg) (g : BitVec 1) (s : State) : Host.Outcome State Fault Refusal :=
  let x := s.getX s.cur a
  writeRd s d (x <<< shamtImm h g)

/-- SRLI (04 R92): logical shift right by a constant 0 to 63, into rd. -/
def execSrli (d a h : Reg) (g : BitVec 1) (s : State) : Host.Outcome State Fault Refusal :=
  let x := s.getX s.cur a
  writeRd s d (x >>> shamtImm h g)

/-- SRAI (04 R92): arithmetic shift right by a constant 0 to 63, into rd. -/
def execSrai (d a h : Reg) (g : BitVec 1) (s : State) : Host.Outcome State Fault Refusal :=
  let x := s.getX s.cur a
  writeRd s d (x.sshiftRight (shamtImm h g))

/-- ADDI (04 R93): a + SignExt(imm16), into rd. With rd and rs1 x0 it is NOP or a hint (02 R49). -/
def execAddi (d a : Reg) (i : BitVec 16) (s : State) : Host.Outcome State Fault Refusal :=
  let x := s.getX s.cur a
  writeRd s d (x + i.signExtend 64)

/-- ANDI (04 R93): a AND ZeroExt(imm16), into rd. -/
def execAndi (d a : Reg) (i : BitVec 16) (s : State) : Host.Outcome State Fault Refusal :=
  let x := s.getX s.cur a
  writeRd s d (x &&& i.setWidth 64)

/-- ORI (04 R93): a OR ZeroExt(imm16), into rd. -/
def execOri (d a : Reg) (i : BitVec 16) (s : State) : Host.Outcome State Fault Refusal :=
  let x := s.getX s.cur a
  writeRd s d (x ||| i.setWidth 64)

/-- XORI (04 R93): a XOR ZeroExt(imm16), into rd. -/
def execXori (d a : Reg) (i : BitVec 16) (s : State) : Host.Outcome State Fault Refusal :=
  let x := s.getX s.cur a
  writeRd s d (x ^^^ i.setWidth 64)

/-- SLTI (04 R93): 1 when a < SignExt(imm16) signed, into rd. -/
def execSlti (d a : Reg) (i : BitVec 16) (s : State) : Host.Outcome State Fault Refusal :=
  let x := s.getX s.cur a
  writeRd s d (boolWord (x.slt (i.signExtend 64)))

/-- SLTIU (04 R93): 1 when a < SignExt(imm16) unsigned, into rd. -/
def execSltiu (d a : Reg) (i : BitVec 16) (s : State) : Host.Outcome State Fault Refusal :=
  let x := s.getX s.cur a
  writeRd s d (boolWord (x.ult (i.signExtend 64)))

/-- SignExt(imm21 × 65,536, 64) (02 R35). -/
abbrev upperImm (i : BitVec 21) : Word := (i ++ 0#16).signExtend 64
/-- LUI (04 R93): SignExt(imm21 × 65,536) into rd. -/
def execLui (d : Reg) (i : BitVec 21) (s : State) : Host.Outcome State Fault Refusal := writeRd s d (upperImm i)
/-- AUIPC (04 R93, 05 R113): PC plus SignExt(imm21 × 65,536) into rd. -/
def execAuipc (d : Reg) (i : BitVec 21) (s : State) : Host.Outcome State Fault Refusal := writeRd s d (s.pcOf s.cur + upperImm i)

/-- PC + SignExt(offset, 62) × 4 (02 R35). -/
abbrev target {n : Nat} (s : State) (o : BitVec n) : Word := s.pcOf s.cur + (o.signExtend 64 <<< 2)

/-- A branch: a taken one transfers, or traps illegal in a block-driven wick, which has no program counter (04 R94, R96). -/
def branch (s : State) (i : Instr) (taken : Bool) (o : BitVec 16) : Host.Outcome State Fault Refusal :=
  if !taken then moveOn s
  else if s.blockDriven s.cur then trapNext s s.cur .illegal (wordOf i)
  else .next (s.jump s.cur (target s o))

/-- A jump that links: rd receives PC + 4, then control passes (04 R95). -/
def link (s : State) (d : Reg) (t : Word) : Host.Outcome State Fault Refusal :=
  .next ((s.setX s.cur d (s.pcOf s.cur + 4)).jump s.cur t)

/-- JAL (04 R95, R96). -/
def execJal (d : Reg) (o : BitVec 21) (s : State) : Host.Outcome State Fault Refusal :=
  if s.blockDriven s.cur then trapNext s s.cur .illegal (wordOf (.jal d o)) else link s d (target s o)
/-- JALR (04 R95, R96): a target that is no multiple of 4 traps misaligned and leaves rd. -/
def execJalr (d a : Reg) (i : BitVec 16) (s : State) : Host.Outcome State Fault Refusal :=
  let t := s.getX s.cur a + i.signExtend 64
  if s.blockDriven s.cur then trapNext s s.cur .illegal (wordOf (.jalr d a i))
  else if t.extractLsb' 0 2 != 0 then trapNext s s.cur .misaligned t
  else link s d t

/-- BEQ (04 R94, R96): taken when equal. -/
def execBeq (a b : Reg) (o : BitVec 16) (s : State) : Host.Outcome State Fault Refusal :=
  let x := s.getX s.cur a
  let y := s.getX s.cur b
  branch s (.beq a b o) (x == y) o

/-- BNE (04 R94, R96): taken when not equal. -/
def execBne (a b : Reg) (o : BitVec 16) (s : State) : Host.Outcome State Fault Refusal :=
  let x := s.getX s.cur a
  let y := s.getX s.cur b
  branch s (.bne a b o) (x != y) o

/-- BLT (04 R94, R96): taken when signed less. -/
def execBlt (a b : Reg) (o : BitVec 16) (s : State) : Host.Outcome State Fault Refusal :=
  let x := s.getX s.cur a
  let y := s.getX s.cur b
  branch s (.blt a b o) (x.slt y) o

/-- BGE (04 R94, R96): taken when signed greater or equal. -/
def execBge (a b : Reg) (o : BitVec 16) (s : State) : Host.Outcome State Fault Refusal :=
  let x := s.getX s.cur a
  let y := s.getX s.cur b
  branch s (.bge a b o) (!x.slt y) o

/-- BLTU (04 R94, R96): taken when unsigned less. -/
def execBltu (a b : Reg) (o : BitVec 16) (s : State) : Host.Outcome State Fault Refusal :=
  let x := s.getX s.cur a
  let y := s.getX s.cur b
  branch s (.bltu a b o) (x.ult y) o

/-- BGEU (04 R94, R96): taken when unsigned greater or equal. -/
def execBgeu (a b : Reg) (o : BitVec 16) (s : State) : Host.Outcome State Fault Refusal :=
  let x := s.getX s.cur a
  let y := s.getX s.cur b
  branch s (.bgeu a b o) (!x.ult y) o

end Sys2Proof.Machine
end

