-- ==== Sys2Proof/Machine/ScalarMem.lean ====
section
/-! DEFINITION. Scalar loads and stores (04 R97 to R101) and the atomic and acquire/release forms (08 R206 to R209). -/

namespace Sys2Proof.Machine

/-- A scalar load as its thread's queue holds it until it is performed (14 R312; log 3). -/
def loadPend (x : Xlat) (d : Reg) (n : Nat) (signed : Bool) : PendAccess :=
  { vector := false, watched := false, cmp := x.cmp, clears := [], load := some (.x d n signed)
    bytes := (natsFrom x.pa n).map fun a => { pa := a, mask := 0xFF, val := 0 } }

/-- Whether a load of an address may be left to be performed later: the agenda says so, and the host may not refuse it (log 3). -/
def mayWait (s : State) (pa : Nat) : Bool := s.late && !isHost pa

/-- A scalar load of `n` bytes: misaligned, translation, host refusal, poison and race traps in that order, then the value widened into rd
(04 R97, R98, 08 R209, 14 R331); one that misses may be performed later than its thread's next instructions (14 R312; log 3). -/
def scalarLoad (s : State) (d base : Reg) (i : BitVec 16) (n : Nat) (signed : Bool) : Host.Outcome State Fault Refusal :=
  let t := s.cur
  let ea := s.getX t base + i.signExtend 64
  if ea.toNat % n != 0 then trapNext s t .misaligned ea
  else match threadXlat s t ea .read with
  | .stop s => .next s
  | .ok x s =>
    if hostRefuses s x.pa then .next (trapXlat s t .protection ea .read { ipa := x.ipa, place := 0 })
    else if scalarPoison s t x then trapNext s t .poison ea
    else if raceAt s t x then trapNext s t .race ea
    else if mayWait s x.pa && (scalarHit s t x.pa).isNone then moveOn (queueStore s t (loadPend x d n signed))
    else
      let (v, s) := scalarRead s t x n
      writeRd s d (widened n signed v)

/-- The bytes of a scalar store as its thread's queue holds them. -/
def scalarPend (x : Xlat) (n : Nat) (v : Word) : PendAccess :=
  { vector := false, watched := x.wch, cmp := x.cmp, clears := []
    bytes := (natsFrom 0 n).map fun k => { pa := x.pa + k, mask := 0xFF, val := v.extractLsb' (8 * k) 8 } }

/-- A scalar store of the low `n` bytes: misaligned, translation and race traps in that order, then the store is made
(04 R97, R98, 14 R312, R331). -/
def scalarStore (s : State) (data base : Reg) (i : BitVec 16) (n : Nat) : Host.Outcome State Fault Refusal :=
  let t := s.cur
  let ea := s.getX t base + i.signExtend 64
  if ea.toNat % n != 0 then trapNext s t .misaligned ea
  else match threadXlat s t ea .write with
  | .stop s => .next s
  | .ok x s =>
    if raceAt s t x then trapNext s t .race ea
    else moveOn (queueStore s t (scalarPend x n (s.getX t data)))

/-- LB (04 R97): loads 1 byte, sign-extended. -/
def execLb (d b : Reg) (i : BitVec 16) (s : State) : Host.Outcome State Fault Refusal := scalarLoad s d b i 1 true

/-- LBU (04 R97): loads 1 byte, zero-extended. -/
def execLbu (d b : Reg) (i : BitVec 16) (s : State) : Host.Outcome State Fault Refusal := scalarLoad s d b i 1 false

/-- LH (04 R97): loads 2 bytes, sign-extended. -/
def execLh (d b : Reg) (i : BitVec 16) (s : State) : Host.Outcome State Fault Refusal := scalarLoad s d b i 2 true

/-- LHU (04 R97): loads 2 bytes, zero-extended. -/
def execLhu (d b : Reg) (i : BitVec 16) (s : State) : Host.Outcome State Fault Refusal := scalarLoad s d b i 2 false

/-- LW (04 R97): loads 4 bytes, sign-extended. -/
def execLw (d b : Reg) (i : BitVec 16) (s : State) : Host.Outcome State Fault Refusal := scalarLoad s d b i 4 true

/-- LWU (04 R97): loads 4 bytes, zero-extended. -/
def execLwu (d b : Reg) (i : BitVec 16) (s : State) : Host.Outcome State Fault Refusal := scalarLoad s d b i 4 false

/-- LD (04 R97): loads 8 bytes. -/
def execLd (d b : Reg) (i : BitVec 16) (s : State) : Host.Outcome State Fault Refusal := scalarLoad s d b i 8 false

/-- SB (04 R97): stores the low 1 byte of the data register. -/
def execSb (t b : Reg) (i : BitVec 16) (s : State) : Host.Outcome State Fault Refusal := scalarStore s t b i 1

/-- SH (04 R97): stores the low 2 bytes of the data register. -/
def execSh (t b : Reg) (i : BitVec 16) (s : State) : Host.Outcome State Fault Refusal := scalarStore s t b i 2

/-- SW (04 R97): stores the low 4 bytes of the data register. -/
def execSw (t b : Reg) (i : BitVec 16) (s : State) : Host.Outcome State Fault Refusal := scalarStore s t b i 4

/-- SD (04 R97): stores the low 8 bytes of the data register. -/
def execSd (t b : Reg) (i : BitVec 16) (s : State) : Host.Outcome State Fault Refusal := scalarStore s t b i 8

/-- What an atomic form does with the word it finds: the new value, if it writes, and whether host memory has the operation
(08 R206, R209). -/
structure AmoOp where
  newValue : Nat → Word → Word → Word → Option Word
  host : Bool

/-- A value narrowed to `n` bytes and sign-extended (08 R206). -/
def narrowS (n : Nat) (v : Word) : Word := if n == 4 then (v.setWidth 32).signExtend 64 else v
/-- A value narrowed to `n` bytes and zero-extended. -/
def narrowU (n : Nat) (v : Word) : Word := if n == 4 then (v.setWidth 32).setWidth 64 else v

/-- The width of an atomic form in bytes (02 R42). -/
abbrev amoBytes (w : BitVec 1) : Nat := if w == 0 then 4 else 8

/-- The ordering that an atomic form carries, before its access: its thread's earlier scalar accesses, or as a release all of its
accesses, are performed (08 R207, 14 R312, R313). -/
def amoBefore (s : State) (t : Tid) (rl : Bool) : State := if rl then flushStores s t else flushScalar s t

/-- The matching line of the core's scalar data cache is invalidated; an acquire, at its scope, invalidates all of them (04 R100,
R101). -/
def amoAfter (s : State) (t : Tid) (pa : Nat) (aq : Bool) (scope : BitVec 3) : State :=
  if aq then acquire s t scope else s.modPcore (s.pcoreNum t) fun p => { p with dcache := p.dcache.filter (·.line != pa / 64) }

/-- The access of an atomic form at the L2: the line is read, and the new value's bytes are written where there is one (08 R208). -/
def amoWrite (s : State) (t : Tid) (x : Xlat) (n : Nat) (new : Option Word) : State :=
  match new with
  | some v =>
    let s := if l2Bypass s (s.vfOf t) x.pa || isRemote s x.pa then s else l2Touch s (s.vfOf t) x.pa .read x.cmp none
    l2WriteBytes s (s.vfOf t) x.pa (leBytes n v.toNat) x.cmp
  | none => l2Touch s (s.vfOf t) x.pa .read x.cmp none

/-- The end of an atomic form that has read the old value and writes, or not: a release counts itself, an acquire acquires, and rd
receives the result (08 R207, R208). -/
def amoEnd (s : State) (d : Reg) (x : Xlat) (n : Nat) (scope : BitVec 3) (aq rl : Bool) (new : Option Word) (v : Word) : State :=
  let t := s.cur
  let s := amoWrite s t x n new
  let s := amoAfter (if rl then countRelease s t else s) t x.pa aq scope
  (s.setX t d v).done t

/-- An atomic form at `[rs1]` (08 R208): misaligned, translation, host refusal; then, after the thread's earlier accesses that it must
follow, poison; then the old value is read and the new one written in one step at the L2, and rd receives the old value, which `result`
narrows. The translation sets D only when the form writes (`keeps` is whether it may not: AMOCAS). A protection trap that the device
itself takes on host memory, where the host has no such operation, writes no fault record (DEDUCED, log 24). -/
def atomic (s : State) (d a b : Reg) (n : Nat) (scope : BitVec 3) (aq rl keeps : Bool) (op : AmoOp) (result : Word → Word) :
    Host.Outcome State Fault Refusal :=
  let t := s.cur
  let ea := s.getX t a
  let vb := narrowU n (s.getX t b)
  let vd := narrowU n (s.getX t d)
  if ea.toNat % n != 0 then trapNext s t .misaligned ea
  else match threadXlatBy s t ea .rmw (!keeps) with
  | .stop s => .next s
  | .ok x s =>
    if isHost x.pa && !op.host then trapNext s t .protection ea
    else if hostRefuses s x.pa then .next (trapXlat s t .protection ea .rmw { ipa := x.ipa, place := 0 })
    else
      let s := amoBefore s t rl
      if poisoned s x.pa then trapNext s t .poison ea
      else
        let old : Word := BitVec.ofNat 64 (memRead s.mem x.pa n)
        let new := op.newValue n old vb vd
        if keeps && new.isSome then
          match threadXlat s t ea .rmw with
          | .stop s => .next s
          | .ok x s => .next (amoEnd s d x n scope aq rl new (result old))
        else .next (amoEnd s d x n scope aq rl new (result old))

/-- AMOADD (08 R206 to R209): the new value is old + b, modulo 2^8n; rd receives the old one. -/
def execAmoadd (d a b : Reg) (c : BitVec 3) (q r w : BitVec 1) (s : State) : Host.Outcome State Fault Refusal :=
  atomic s d a b (amoBytes w) c (q == 1) (r == 1) false { newValue := fun _ o b _ => some (o + b), host := true }
    (narrowS (amoBytes w))

/-- AMOSWAP (08 R206 to R209): the new value is b; rd receives the old one. -/
def execAmoswap (d a b : Reg) (c : BitVec 3) (q r w : BitVec 1) (s : State) : Host.Outcome State Fault Refusal :=
  atomic s d a b (amoBytes w) c (q == 1) (r == 1) false { newValue := fun _ _ b _ => some b, host := true }
    (narrowS (amoBytes w))

/-- AMOAND (08 R206 to R209): the new value is bitwise AND; rd receives the old one. -/
def execAmoand (d a b : Reg) (c : BitVec 3) (q r w : BitVec 1) (s : State) : Host.Outcome State Fault Refusal :=
  atomic s d a b (amoBytes w) c (q == 1) (r == 1) false { newValue := fun _ o b _ => some (o &&& b), host := false }
    (narrowS (amoBytes w))

/-- AMOOR (08 R206 to R209): the new value is bitwise OR; rd receives the old one. -/
def execAmoor (d a b : Reg) (c : BitVec 3) (q r w : BitVec 1) (s : State) : Host.Outcome State Fault Refusal :=
  atomic s d a b (amoBytes w) c (q == 1) (r == 1) false { newValue := fun _ o b _ => some (o ||| b), host := false }
    (narrowS (amoBytes w))

/-- AMOXOR (08 R206 to R209): the new value is bitwise XOR; rd receives the old one. -/
def execAmoxor (d a b : Reg) (c : BitVec 3) (q r w : BitVec 1) (s : State) : Host.Outcome State Fault Refusal :=
  atomic s d a b (amoBytes w) c (q == 1) (r == 1) false { newValue := fun _ o b _ => some (o ^^^ b), host := false }
    (narrowS (amoBytes w))

/-- AMOMIN (08 R206 to R209): the new value is signed minimum; rd receives the old one. -/
def execAmomin (d a b : Reg) (c : BitVec 3) (q r w : BitVec 1) (s : State) : Host.Outcome State Fault Refusal :=
  atomic s d a b (amoBytes w) c (q == 1) (r == 1) false { newValue := fun n o b _ => some (if (narrowS n o).slt (narrowS n b) then o else b), host := false }
    (narrowS (amoBytes w))

/-- AMOMAX (08 R206 to R209): the new value is signed maximum; rd receives the old one. -/
def execAmomax (d a b : Reg) (c : BitVec 3) (q r w : BitVec 1) (s : State) : Host.Outcome State Fault Refusal :=
  atomic s d a b (amoBytes w) c (q == 1) (r == 1) false { newValue := fun n o b _ => some (if (narrowS n o).slt (narrowS n b) then b else o), host := false }
    (narrowS (amoBytes w))

/-- AMOMINU (08 R206 to R209): the new value is unsigned minimum; rd receives the old one. -/
def execAmominu (d a b : Reg) (c : BitVec 3) (q r w : BitVec 1) (s : State) : Host.Outcome State Fault Refusal :=
  atomic s d a b (amoBytes w) c (q == 1) (r == 1) false { newValue := fun _ o b _ => some (if o.ult b then o else b), host := false }
    (narrowS (amoBytes w))

/-- AMOMAXU (08 R206 to R209): the new value is unsigned maximum; rd receives the old one. -/
def execAmomaxu (d a b : Reg) (c : BitVec 3) (q r w : BitVec 1) (s : State) : Host.Outcome State Fault Refusal :=
  atomic s d a b (amoBytes w) c (q == 1) (r == 1) false { newValue := fun _ o b _ => some (if o.ult b then b else o), host := false }
    (narrowS (amoBytes w))

/-- AMOCAS (08 R206 to R209): the new value is b when old = X[rd] narrowed, else no write; rd receives the old one. -/
def execAmocas (d a b : Reg) (c : BitVec 3) (q r w : BitVec 1) (s : State) : Host.Outcome State Fault Refusal :=
  atomic s d a b (amoBytes w) c (q == 1) (r == 1) true { newValue := fun _ o b e => if o == e then some b else none, host := true }
    (narrowS (amoBytes w))

/-- LDA (08 R206 to R209): a load performed at the L2, and an acquire at its scope. -/
def execLda (d a : Reg) (c : BitVec 3) (w : BitVec 1) (s : State) : Host.Outcome State Fault Refusal :=
  let t := s.cur
  let n := amoBytes w
  let ea := s.getX t a
  if ea.toNat % n != 0 then trapNext s t .misaligned ea
  else match threadXlat s t ea .read with
  | .stop s => .next s
  | .ok x s =>
    if hostRefuses s x.pa then .next (trapXlat s t .protection ea .read { ipa := x.ipa, place := 0 })
    else
      let s := flushScalar s t
      if poisoned s x.pa then trapNext s t .poison ea
      else
        let old : Word := BitVec.ofNat 64 (memRead s.mem x.pa n)
        let s := acquire (l2Touch s (s.vfOf t) x.pa .read x.cmp none) t c
        writeRd s d (narrowS n old)

/-- STL (08 R206 to R209): a store performed at the L2, and a release at its scope. -/
def execStl (a b : Reg) (c : BitVec 3) (w : BitVec 1) (s : State) : Host.Outcome State Fault Refusal :=
  let t := s.cur
  let n := amoBytes w
  let ea := s.getX t a
  let v := s.getX t b
  if ea.toNat % n != 0 then trapNext s t .misaligned ea
  else match threadXlat s t ea .write with
  | .stop s => .next s
  | .ok x s =>
    let s := releaseAt s t c (scalarPend x n v)
    let s := l2WriteBytes s (s.vfOf t) x.pa (leBytes n v.toNat) x.cmp
    moveOn (amoAfter s t x.pa false c)

end Sys2Proof.Machine
end

