-- ==== Sys2Proof/Machine/Sfp.lean ====
section
/-! DEFINITION. Scalar floating point (04 R102 to R105) and AMOFADD (08 R206). -/

namespace Sys2Proof.Machine

/-- The mode of an SFP form: its own code, or vtype.rm for code 7; a stochastic one draws and advances rctr (02 R43, 03 R79). -/
def sfpMode (s : State) (t : Tid) (code : BitVec 3) : Mode × State :=
  let th := s.thread t
  let c := if code == 7 then th.rm else code
  if c == 5 then
    let draw := (drawWord th.rctr 2 th.rkey0 th.rkey1).toNat % 2 ^ 16
    (.stochastic draw, s.modThread t fun th => { th with rctr := th.rctr + 1 })
  else (modeOf c 0, s)

/-- Bits 31:0 of a register, as F32 (04 R102). -/
def f32Of (s : State) (t : Tid) (r : Reg) : Nat := (s.getX t r).toNat % 2 ^ 32

/-- A result with its flags goes to rd (04 R102). -/
def sfpResult (s : State) (d : Reg) (v : Word) (f : FlagSet) : Host.Outcome State Fault Refusal := writeRd (raiseFlags s s.cur f) d v

/-- An SFP form that rounds an exact value to F32 (04 R102). -/
def sfpRound (s : State) (d : Reg) (m : BitVec 3) (v : Mode → FVal × FlagSet) : Host.Outcome State Fault Refusal :=
  let (md, s) := sfpMode s s.cur m
  let (x, f) := v md
  let (r, f2) := roundTo fmtF32 md x
  sfpResult s d (BitVec.ofNat 64 r) (f ||| f2)

/-- FADD (04 R102): RoundTo(F32, rm)(a + b). -/
def execFadd (d x y : Reg) (m : BitVec 3) (s : State) : Host.Outcome State Fault Refusal :=
  let a := decodeFloat fmtF32 (f32Of s s.cur x)
  let b := decodeFloat fmtF32 (f32Of s s.cur y)
  sfpRound s d m fun md => addExact md a b

/-- FSUB (04 R102): RoundTo(F32, rm)(a - b). -/
def execFsub (d x y : Reg) (m : BitVec 3) (s : State) : Host.Outcome State Fault Refusal :=
  let a := decodeFloat fmtF32 (f32Of s s.cur x)
  let b := decodeFloat fmtF32 (f32Of s s.cur y)
  sfpRound s d m fun md => addExact md a (b.negate)

/-- FMUL (04 R102): RoundTo(F32, rm)(a × b). -/
def execFmul (d x y : Reg) (m : BitVec 3) (s : State) : Host.Outcome State Fault Refusal :=
  let a := decodeFloat fmtF32 (f32Of s s.cur x)
  let b := decodeFloat fmtF32 (f32Of s s.cur y)
  sfpRound s d m fun _ => mulExact a b

/-- FDIV (04 R102): RoundTo(F32, rm)(a ÷ b). -/
def execFdiv (d x y : Reg) (m : BitVec 3) (s : State) : Host.Outcome State Fault Refusal :=
  let a := decodeFloat fmtF32 (f32Of s s.cur x)
  let b := decodeFloat fmtF32 (f32Of s s.cur y)
  sfpRound s d m fun _ => divExact a b

/-- FMA (04 R102): RoundTo(F32, rm)(a × b + X[rd]), one rounding. -/
def execFma (d x y : Reg) (m : BitVec 3) (s : State) : Host.Outcome State Fault Refusal :=
  let a := decodeFloat fmtF32 (f32Of s s.cur x)
  let b := decodeFloat fmtF32 (f32Of s s.cur y)
  let c := decodeFloat fmtF32 (f32Of s s.cur d)
  sfpRound s d m fun md => fmaExact md a b c

/-- FMIN (04 R103): the lesser operand. -/
def execFmin (d x y : Reg) (s : State) : Host.Outcome State Fault Refusal :=
  let (v, f) := minMaxBits fmtF32 false (f32Of s s.cur x) (f32Of s s.cur y)
  sfpResult s d (BitVec.ofNat 64 v) f

/-- FMAX (04 R103): the greater operand. -/
def execFmax (d x y : Reg) (s : State) : Host.Outcome State Fault Refusal :=
  let (v, f) := minMaxBits fmtF32 true (f32Of s s.cur x) (f32Of s s.cur y)
  sfpResult s d (BitVec.ofNat 64 v) f

/-- FCVT.W (04 R104): F32 to I32 with saturation, sign-extended. -/
def execFcvtW (d x : Reg) (m : BitVec 3) (s : State) : Host.Outcome State Fault Refusal :=
  let a := decodeFloat fmtF32 (f32Of s s.cur x)
  let (md, s) := sfpMode s s.cur m
  let (v, f) := floatToInt (-(2 ^ 31)) (2 ^ 31 - 1) md a
  sfpResult s d (BitVec.ofInt 64 v) f

/-- FCVT.F (04 R104): a signed 64-bit integer to F32. -/
def execFcvtF (d x : Reg) (m : BitVec 3) (s : State) : Host.Outcome State Fault Refusal :=
  let v := (s.getX s.cur x).toInt
  sfpRound s d m fun _ => (ofInt v, 0)

/-- FCMP (04 R105): 1 when the condition holds. -/
def execFcmp (d x y : Reg) (c : BitVec 3) (s : State) : Host.Outcome State Fault Refusal :=
  let (b, f) := compareBits fmtF32 c.toNat (f32Of s s.cur x) (f32Of s s.cur y)
  sfpResult s d (boolWord b) f

/-- old + b in F32 under RNE, no flag (08 R206). -/
def addF32 (x y : Nat) : Nat :=
  (roundTo fmtF32 .rne (addExact .rne (decodeFloat fmtF32 (x % 2 ^ 32)) (decodeFloat fmtF32 (y % 2 ^ 32))).1).1

/-- AMOFADD (08 R206 to R209): the new value is the F32 sum; rd receives the old one, zero-extended. -/
def execAmofadd (d a b : Reg) (c : BitVec 3) (q r : BitVec 1) (s : State) : Host.Outcome State Fault Refusal :=
  atomic s d a b 4 c (q == 1) (r == 1) false
    { newValue := fun _ o v _ => some (BitVec.ofNat 64 (addF32 o.toNat v.toNat)), host := false }
    (narrowU 4)

end Sys2Proof.Machine
end

