-- ==== Sys2Proof/Machine/CopyLaunch.lean ====
section
/-! DEFINITION. The set-up of a copy, its checks and its launch (13 R298 to R303). -/

namespace Sys2Proof.Machine

/-- The bits of an element of a memory format; 0 has none of its own (03 R64). -/
def mfmtBits (m : Nat) : Nat :=
  if m == 5 then 32 else if m == 3 || m == 4 || m == 6 || m == 7 then 16 else if m == 10 || m == 11 then 6
  else if m == 12 || m == 15 || m == 17 then 4 else if m == 16 || m == 18 then 2 else 8

/-- cpfmt.sfmt (13 R298). -/
def CopySetup.sfmt (c : CopySetup) : Nat := (c.fmt.extractLsb' 0 5).toNat
/-- cpfmt.dfmt; 0 means the same as sfmt (13 R298). -/
def CopySetup.dfmtRaw (c : CopySetup) : Nat := (c.fmt.extractLsb' 8 5).toNat
/-- The destination format. -/
def CopySetup.dfmt (c : CopySetup) : Nat := if c.dfmtRaw == 0 then c.sfmt else c.dfmtRaw
/-- cpfmt.rm (13 R298). -/
def CopySetup.rm (c : CopySetup) : BitVec 3 := c.fmt.extractLsb' 13 3
/-- cpxf.seg (13 R298). -/
def CopySetup.seg (c : CopySetup) : Bool := bitOf c.xf 0
/-- cpxf.perm (13 R298). -/
def CopySetup.perm (c : CopySetup) : Bool := bitOf c.xf 8
/-- cpxf.nfm1 (13 R298). -/
def CopySetup.nfm1 (c : CopySetup) : Nat := (c.xf.extractLsb' 4 3).toNat
/-- cpxf.fop: the flag is added (13 R298). -/
def CopySetup.fop (c : CopySetup) : Bool := bitOf c.xf 29
/-- cpxf.fval (13 R298). -/
def CopySetup.fval (c : CopySetup) : Nat := (c.xf.extractLsb' 32 32).toNat
/-- cpdimN.count (13 R298). -/
def CopySetup.count (c : CopySetup) (n : Fin 4) : Nat := c.dim[n].toNat

/-- A format code that a copy may carry (13 R298). -/
def copyFmtOk (m : Nat) : Bool := m ≤ 12 || (16 ≤ m && m ≤ 18)

/-- The lowest-numbered dimension whose count exceeds 16,777,216 (13 R303). -/
def CopySetup.bigDim (c : CopySetup) : Option (Fin 4) := (List.finRange 4).find? fun n => c.count n > 2 ^ 24

/-- The check of a copy's set-up (13 R303): the first cause and tval that hold. -/
def CopySetup.check (c : CopySetup) : Option (Cause × Word) :=
  let d0 := c.count 0
  if !copyFmtOk c.sfmt || !copyFmtOk c.dfmtRaw then some (.illegal, 0x10A)
  else if c.sfmt == 0 && c.dfmtRaw != 0 then some (.illegal, 0x10A)
  else if c.rm == 5 || c.rm == 6 then some (.illegal, 0x10A)
  else match c.bigDim with
  | some n => some (.illegal, 0x102 + BitVec.ofNat 64 n.val)
  | none =>
    if d0 * mfmtBits c.sfmt % 8 != 0 || d0 * mfmtBits c.dfmt % 8 != 0 then some (.illegal, 0x102)
    else if !c.seg && c.str[0] != 0 then some (.illegal, 0x106)
    else if !c.seg && (c.nfm1 != 0 || c.perm) then some (.illegal, 0x10B)
    else if c.seg && c.nfm1 == 0 then some (.illegal, 0x10B)
    else if c.perm && c.count 3 != 1 then some (.illegal, 0x105)
    else if c.flag != 0 && c.flag.toNat % 4 != 0 then some (.misaligned, c.flag)
    else if c.perm && c.str[3].toNat % 4 != 0 then some (.misaligned, c.str[3])
    else none

/-- The sequence number after one: 1 to 16,383, wrapping, 0 skipped (13 R302). -/
def nextSeq (n : BitVec 14) : BitVec 14 := if n + 1 == 0 then 1 else n + 1

/-- The rounding mode of a copy: 7 takes vtype.rm, and a copy never rounds stochastically (13 R298). -/
def copyRm (th : Thread) (c : CopySetup) : BitVec 3 :=
  let m := if c.rm == 7 then th.rm else c.rm
  if m == 5 then 0 else m

/-- ReadCpgo (13 R302): the value read and the state, or the trap of a failed check. A launch forks after the thread's earlier
accesses, so they are performed first (14 R315). -/
def readCpgo (s : State) (t : Tid) : Except (Cause × Word) (Word × State) :=
  let th := s.thread t
  match th.copy.check with
  | some e => .error e
  | none =>
    let ch := th.copy.ch.toFin
    let C := s.core t.gang t.core
    let q := C.chans[ch]
    if q.queue.length ≥ 16 || q.error.isSome then .ok (0, s)
    else
      let seq := nextSeq q.seq
      let id : BitVec 16 := th.copy.ch ++ seq
      let copy : Copy :=
        { id := id, setup := th.copy, rm := copyRm th th.copy, who := t.who, done := 0, started := false, hold := false, wait := none }
      let s := flushStores s t
      let s := s.modCore t.gang t.core fun C =>
        { C with
          chans := C.chans.set ch
            { C.chans[ch] with
              queue := C.chans[ch].queue ++ [copy], seq := seq
              movedAt := if C.chans[ch].queue.isEmpty then s.ac else C.chans[ch].movedAt } }
      .ok (id.setWidth 64, s)

end Sys2Proof.Machine
end

