-- ==== Sys2Proof/Machine/Uses.lean ====
section
/-! DEFINITION. Which registers an instruction word names (02 R34, R40), what a thread's loads in flight hold back (05 R107, R108), and the
rename pool (06 R141 to R143). -/

namespace Sys2Proof.Machine

/-- Whether a load still to be performed writes a register of a list. -/
def PendAccess.lands (p : PendAccess) (regs : List Nat) : Bool :=
  match p.load with
  | some (.v x) => x.reg.any regs.contains
  | _ => false

/-- The load that a queued element belongs to. -/
def PendAccess.flight (p : PendAccess) : Option Nat :=
  match p.load with
  | some (.v x) => some x.flight
  | _ => none

/-- Whether a queued access is a scalar load into a register of a list. -/
def PendAccess.loadsX (p : PendAccess) (regs : List Reg) : Bool :=
  match p.load with
  | some (.x rd _ _) => regs.contains rd
  | _ => false

/-- The majors from VLOAD to VIG and PEER: every form of theirs is a slot instruction (05 R106). -/
def slotMajor (m : Nat) : Bool := (0x23 ≤ m && m ≤ 0x2D) || m == 0x31

/-- XLINK.V: sub 4 of major WICK with operand bit 11 (05 R122). -/
def isXlinkV (wd : IWord) : Bool := wordMajor wd == 0x21 && wd.extractLsb' 12 4 == 4 && bitOf wd 11

/-- Whether a word is a slot instruction (05 R106). -/
def slotWord (wd : IWord) : Bool := slotMajor (wordMajor wd).toNat || isXlinkV wd

/-- The scalar registers that a word's fields may name (02 R34, R40). Of a form of VPERM, VMASK, MAT, VIG or PEER every field counts, be it
that it names a vector group there: a scalar load in flight of that number holds it back (log 3). -/
def xFields (wd : IWord) : List Reg :=
  let m := (wordMajor wd).toNat
  if m == 0x00 || m == 0x20 then []
  else if m == 0x08 || m == 0x09 || m == 0x0A then [wordRd wd]
  else if m == 0x1F then (if bitOf wd 3 then [wordRd wd] else [wordRd wd, wordRs1 wd])
  else if (0x02 ≤ m && m ≤ 0x1C) || m == 0x21 || m == 0x22 then [wordRd wd, wordRs1 wd]
  else if m == 0x23 || m == 0x24 || m == 0x2C then [wordRs1 wd, wordRs2 wd]
  else if 0x25 ≤ m && m ≤ 0x29 then (if bitOf wd 7 then [wordRs2 wd] else [])
  else if m == 0x2D then [wordRs1 wd, wordRs2 wd, wd.extractLsb' 6 5, wd.extractLsb' 1 5]
  else [wordRd wd, wordRs1 wd, wordRs2 wd]

/-- The registers that a field may name as a group or as a wide group. -/
def Wick.fieldRegs (W : Wick) (f : Reg) : List Nat := ((W.group? f).getD []) ++ ((W.wide? f).getD [])

/-- The registers that a slot instruction writes as destination groups (07, 08, 10, 11); of a VIG form every field counts. -/
def Wick.destRegs (W : Wick) (wd : IWord) : List Nat :=
  let f := (wd.extractLsb' 0 7).toNat
  let g := (W.group? (wordRd wd)).getD []
  match (wordMajor wd).toNat with
  | 0x21 => if isXlinkV wd then [W.rotate (wordRd wd).toNat] else []
  | 0x23 =>
    let mode := (wd.extractLsb' 5 3).toNat
    if mode ≥ 6 then [] else if mode == 4 then (W.groups? (wordRd wd) ((wd.extractLsb' 8 3).toNat + 1)).getD [] else g
  | 0x25 => if 0x28 ≤ f then [] else g
  | 0x26 => if f ≥ 8 then g else (W.wide? (wordRd wd)).getD []
  | 0x27 => if 0x10 ≤ f && f ≤ 0x13 then [] else g
  | 0x28 | 0x29 => g
  | 0x2A => if f == 0x0C then [] else g
  | 0x2C => (W.group? (wordRs1 wd)).getD []
  | 0x2D => W.fieldRegs (wordRs1 wd) ++ W.fieldRegs (wordRs2 wd) ++ W.fieldRegs (wd.extractLsb' 6 5) ++ W.fieldRegs (wd.extractLsb' 1 5)
  | _ => []

/-- The rows of a group of registers. -/
def Wick.rowsOf (W : Wick) (regs : List Nat) : List Nat := (if W.split then regs.map (· / 2) else regs).eraseDups

/-- The rows of a group of `n` registers (06 R141). -/
def groupRows (split : Bool) (n : Nat) : Nat := if split then (n + 1) / 2 else n

/-- The renames of a wick whose old rows a load still holds (06 R141, R143). -/
def Wick.liveRenames (W : Wick) : List Rename := W.renames.filter fun r => r.flights.any fun f => W.th.pend.any fun p => p.flight == some f

/-- The read windows of a wick for whose group it has taken fresh rows since the export (16 R347). -/
def movedWindows (C : Core) (w : Fin 8) : List Window := C.windows.toList.filter fun v => v.valid && !v.landing && v.owner == w && v.moved

/-- The pool rows that a wick holds (06 R143): those that await release, the rows of snapshots included. -/
def poolHolding (C : Core) (w : Fin 8) : Nat :=
  (C.wicks[w].liveRenames.map (·.rows)).foldl (· + ·) 0 + ((movedWindows C w).map fun v => groupRows v.split v.rows.toNat).foldl (· + ·) 0

/-- The pool rows that the wicks of a core hold (06 R143). -/
def poolUsed (C : Core) : Nat := ((List.finRange 8).map (poolHolding C)).foldl (· + ·) 0

/-- The read windows of a wick whose group a write to some registers moves to fresh rows (16 R347). -/
def windowsMoved (C : Core) (w : Fin 8) (regs : List Nat) : List (Fin 8) :=
  let W := C.wicks[w]
  (List.finRange 8).filter fun k =>
    let v := C.windows[k]
    v.valid && !v.landing && v.owner == w && !v.moved &&
      ((natsFrom v.first v.rows.toNat).map fun n => if v.split then n / 2 else n).any (W.rowsOf regs).contains

/-- The groups of a load's destinations. -/
def Wick.destGroups (W : Wick) (wd : IWord) : List (List Nat) :=
  if wordMajor wd == 0x23 then
    let n := W.nrows
    let rs := W.destRegs wd
    (natsFrom 0 (rs.length / n)).map fun j => (rs.drop (j * n)).take n
  else []

/-- The groups of a list that older loads of a wick are still to write: a new load of theirs renames them (06 R141). -/
def Wick.renamed (W : Wick) (groups : List (List Nat)) : List (List Nat) := groups.filter fun g => W.th.pend.any (·.lands g)

/-- The pool rows that a slot instruction takes at its issue (06 R141, 16 R347). -/
def poolNeed (C : Core) (w : Fin 8) (wd : IWord) : Nat :=
  let W := C.wicks[w]
  (W.renamed (W.destGroups wd)).length * groupRows W.split W.nrows +
    ((windowsMoved C w (W.destRegs wd)).map fun k => groupRows C.windows[k].split C.windows[k].rows.toNat).foldl (· + ·) 0

/-- Whether the pool has the rows that a slot instruction takes: 512 in all, and 256 for one wick (06 R143). -/
def poolRoom (C : Core) (w : Fin 8) (wd : IWord) : Bool :=
  let n := poolNeed C w wd
  n == 0 || (poolUsed C + n ≤ 512 && poolHolding C w + n ≤ 256)

/-- Whether a wick's group lies in a landing window of its own: it is never renamed (16 R349). -/
def landingRegs (C : Core) (w : Fin 8) (regs : List Nat) : Bool :=
  C.windows.toList.any fun v => v.valid && v.landing && v.owner == w && (natsFrom v.first v.rows.toNat).any regs.contains

/-- Whether a vector instruction must wait for loads of its own wick that are still to be performed: a source or a destination in flight, but
for a load that renames its destination (05 R107, R108, 06 R141, 16 R349). VMODE waits until no pool row is held (06 R144); forms that
read more than the groups of their fields wait for every load of the wick (log 3). -/
def vecConflict (C : Core) (w : Fin 8) (wd : IWord) : Bool :=
  let W := C.wicks[w]
  let q := W.th.pend.filter fun p => p.flight.isSome
  if q.isEmpty then false
  else
    let hit (regs : List Nat) : Bool := q.any (·.lands regs)
    let m := (wordMajor wd).toNat
    let mode := (wd.extractLsb' 5 3).toNat
    if m == 0x23 then
      if mode == 0 || mode == 1 || mode == 2 then
        let d := W.destRegs wd
        (mode == 2 && hit ((W.group? (wordRs2 wd)).getD [])) || (hit d && (landingRegs C w d || q.any fun p => p.lands d && match p.load with | some (.v x) => x.w != W.esize | _ => false))
      else mode < 6
    else if m == 0x24 then mode == 4 || hit (W.fieldRegs (wordRd wd)) || (mode == 2 && hit ((W.group? (wordRs2 wd)).getD []))
    else if 0x25 ≤ m && m ≤ 0x2A then hit (W.fieldRegs (wordRd wd) ++ W.fieldRegs (wordRs1 wd) ++ W.fieldRegs (wordRs2 wd))
    else if m == 0x2C then hit (W.fieldRegs (wordRs1 wd) ++ W.fieldRegs (wordRs2 wd))
    else m == 0x2D || m == 0x31 || m == 0x1F || (m == 0x22 && wd.extractLsb' 13 3 == 3) || isXlinkV wd

/-- The thread whose registers an XLINK reads (05 R122). -/
def linkedWick (who : Who) (wd : IWord) : Fin 8 := match who with | .taper => fin8 (wd.extractLsb' 8 3).toNat | .wick w => fin8 (w.val + 1)

/-- Whether an XLINK must wait for what the linked wick has issued and not completed (05 R108, R122): a load in flight to the register, or,
for XLINK.V, a vector form of it that waits and writes the row. -/
def linkConflict (C : Core) (who : Who) (wd : IWord) : Bool :=
  if wordMajor wd == 0x21 && wd.extractLsb' 12 4 == 4 then
    let L := C.wicks[linkedWick who wd]
    if isXlinkV wd then
      let r := L.rotate (wordRs1 wd).toNat
      L.th.pend.any (·.lands [r]) || (L.vmem.bind fun v => encode v.instr).any fun x => (L.destRegs x).contains r
    else L.th.pend.any (·.loadsX [wordRs1 wd])
  else false

/-- Whether a thread's next word must wait for loads that it or the thread it links to has issued (05 R107, R108, 14 R312; log 3). -/
def mustWait (s : State) (t : Tid) (wd : IWord) : Bool :=
  let C := s.core t.gang t.core
  (s.thread t).pend.any (·.loadsX (xFields wd)) || linkConflict C t.who wd ||
    match t.who with
    | .wick w => vecConflict C w wd
    | .taper => false

end Sys2Proof.Machine
end

