-- ==== Sys2Proof/Machine/Issue.lean ====
section
/-! DEFINITION. A thread's next word and whether it may start: which threads run, which wicks are slot-ready, and which of them the issue
slot chooses (05 R106, R107, R111). -/

namespace Sys2Proof.Machine

/-- Whether a gang's threads and engines work: it is placed and not stopped, for a pre-emption or for the debugger (01 R22, 13 R306,
18 R389). -/
def enginesRun (s : State) (g : Nat) : Bool :=
  match tabGet? s.gangs g with
  | some G => G.life == .running && !G.debugStop
  | none => false

/-- Slot instructions: those of the vector, matrix, vigil and peer majors, and XLINK.V (05 R106). -/
def isSlot (i : Instr) : Bool := (encode i).any slotWord

/-- The tile that a MAT or VIG form names (10 R242, 11 R259). -/
def tileOf : Instr → Option (BitVec 2)
  | .mzero a | .mzeroR a | .mxp a _ _ _ | .mxpi a _ _ _ _ | .mter a _ _ _ _ | .mrd a _ _ _ _ _ _ | .mwr a _ _ _ _ | .mquadJ a
  | .mquadL a | .mxpt a _ _ _ _ _ _ | .mpin a _ | .munpin a | .mdelta a _ _ _ | .mdeltaQ a _ _ _ _ | .mreadq a _ _ | .mspill a _
  | .mspillR a _ | .mfill a _ => some a
  | _ => none

/-- Whether a thread may act: its gang is placed and runs, a taper has started and not halted, a wick has something to execute
(01 R10, R18, R22, R26). -/
def runnable (s : State) (t : Tid) : Bool :=
  match tabGet? s.gangs t.gang with
  | none => false
  | some G =>
    G.life == .running && !G.debugStop && t.core ≤ G.desc.ncm1.toNat &&
    match t.who with
    | .taper => (s.core t.gang t.core).taper.run == .running
    | .wick w => match (s.wick t.gang t.core w).state with
      | .blockDriven | .freeRunning | .stalled _ => true
      | _ => false

/-- The row that a word stands for: its instruction, or the trap that decode raises (02 R46 to R48). -/
def rowOf (w : IWord) : Instr :=
  match decode w with
  | .ok i => i
  | .error .illegal => .illegalEncoding w
  | .error .reservedField => .reservedFieldWord w

/-- Whether an instruction names a tile whose vigil is being refilled: it is not slot-ready (11 R272). -/
def refilling (s : State) (t : Tid) (i : Instr) : Bool :=
  let r := (s.core t.gang t.core).refill
  match i with
  | .mwait m => (List.finRange 4).any fun a => bitOf m a.val && (r[a]).isSome
  | _ => match tileOf i with
    | some a => (r[a.toFin]).isSome
    | none => false

/-- Whether a wick's array instruction has begun or waits, so that it holds the array class (10 R239): an MWAIT, a form of a quad, a tile
fetch, or a vigil's move that waits. -/
def Wick.inArray (W : Wick) : Bool :=
  (match W.th.wait with | some (.mwait _) => true | _ => false) || W.quadInstr.isSome || W.fetch.isSome ||
    (W.vmem.bind fun v => tileOf v.instr).isSome

/-- Whether the array is held against an array form of a wick (10 R239): by another wick's instruction, or by a tile fetch that its wick has
left behind. -/
def arrayBusy (s : State) (t : Tid) (w : Fin 8) : Bool :=
  let C := s.core t.gang t.core
  C.job.isSome || (List.finRange 8).any fun k => k != w && C.wicks[k].inArray

/-- A form of the array class (05 R109). -/
def arrayWord (wd : IWord) : Bool := wordMajor wd == 0x2C || wordMajor wd == 0x2D

/-- Whether a slot instruction's pipe class has room, as far as the model's state says it (05 R107 condition 4, 10 R239, 16 R354); the
agenda says the rest (log 2). An MWAIT enters the array class behind the instructions that it waits for (10 R253). -/
def classRoom (s : State) (t : Tid) (w : Fin 8) (wd : IWord) : Bool :=
  let C := s.core t.gang t.core
  if arrayWord wd then
    match rowOf wd with
    | .mwait _ => !(List.finRange 8).any fun k => k != w && (match C.wicks[k].th.wait with | some (.mwait _) => true | _ => false)
    | _ => !arrayBusy s t w
  else match rowOf wd with
    | .send .. => C.sends.length < 32
    | _ => true

/-- The current word of a thread: of its block when it is block-driven, else fetched at its program counter (01 R16). -/
def currentWord (s : State) (t : Tid) : Fetched :=
  match t.who with
  | .taper => fetchWord s t (s.pcOf t)
  | .wick w =>
    let W := s.wick t.gang t.core w
    if W.isFree then fetchWord s t W.th.pc
    else match W.queue with
      | b :: _ => .word (b.words[b.pos]?.getD 0) s
      | [] => .wait s

/-- A thread's next word as it would be fetched, without the effects of the fetch. -/
def peekWord (s : State) (t : Tid) : Option IWord :=
  match currentWord s t with
  | .word w _ => some w
  | _ => none

/-- Whether a slot instruction of a wick meets the conditions of 05 R107: its operands and its tile are there, the pool has its rows, its
class has room, and the agenda does not say that the scoreboard or the class keeps it. -/
def mayIssue (s : State) (t : Tid) (w : Fin 8) (wd : IWord) : Bool :=
  !s.busy.contains t && !mustWait s t wd && !refilling s t (rowOf wd) && poolRoom (s.core t.gang t.core) w wd && classRoom s t w wd

/-- Whether a wick is slot-ready (05 R107): it runs, waits for nothing, and its next instruction is a slot instruction that may issue. -/
def slotReady (s : State) (g c : Nat) (w : Fin 8) : Bool :=
  let t : Tid := { gang := g, core := c, who := .wick w }
  let W := s.wick g c w
  (W.state == .blockDriven || W.state == .freeRunning) && W.th.wait == none &&
  match peekWord s t with
  | some wd => slotWord wd && mayIssue s t w wd
  | none => false

/-- The wick that the slot chooses in this ac, if it has not issued in it yet: greedy then oldest, or round-robin (05 R107, R111). -/
def slotChoice (s : State) (g c : Nat) : Option (Fin 8) :=
  let I := (s.core g c).issue
  if I.issuedAt == some s.ac then none
  else if I.rr then (natsFrom 1 8).map (fun k => fin8 (I.last.val + k)) |>.find? (slotReady s g c)
  else match I.greedy with
    | some w => if slotReady s g c w then some w else I.age.find? (slotReady s g c)
    | none => I.age.find? (slotReady s g c)

/-- The read windows whose group a write moves to fresh rows are marked as moved (16 R347). -/
def Core.moveWindows (C : Core) (w : Fin 8) (regs : List Nat) : Core :=
  (windowsMoved C w regs).foldl (fun (C : Core) (k : Fin 8) => { C with windows := C.windows.set k { C.windows[k] with moved := true } }) C

/-- A wick issues a slot instruction now (05 R111): the slot notes it, and its writes take fresh rows where a read window holds the old
ones (16 R347). -/
def noteIssue (s : State) (t : Tid) (w : Fin 8) (wd : IWord) : State :=
  s.modCore t.gang t.core fun C => { C.moveWindows w (C.wicks[w].destRegs wd) with issue := C.issue.note w s.ac }

end Sys2Proof.Machine
end

