-- ==== Sys2Proof/Machine/Csr.lean ====
section
/-! DEFINITION. The CSRs of 04 R85 with their fields, the CSR instructions (04 R84 to R89), and the two CSR reads that the table lists
as rows of their own: CPGO (13 R302) and PSSTAT_READ (16 R352). -/

namespace Sys2Proof.Machine

/-- The CSRs marked for the taper (04 R85). -/
def csrOfTaper (a : Nat) : Bool :=
  a == 0x001 || a == 0x012 || (0x040 ≤ a && a ≤ 0x042) || a == 0x080 || a == 0x081 || a == 0x0C0 || a == 0x0C1 ||
  (0x0D0 ≤ a && a ≤ 0x0D3) || (0x100 ≤ a && a ≤ 0x10D) || a == 0x10F || (0x140 ≤ a && a ≤ 0x143) || (0x300 ≤ a && a ≤ 0x303)

/-- The CSRs marked for a wick (04 R85). -/
def csrOfWick (a : Nat) : Bool :=
  a == 0x001 || (0x010 ≤ a && a ≤ 0x014) || (0x018 ≤ a && a ≤ 0x01B) || (0x020 ≤ a && a ≤ 0x024) || (0x040 ≤ a && a ≤ 0x042) ||
  a == 0x0C0 || a == 0x0C1 || (0x0D0 ≤ a && a ≤ 0x0D3) || (0x100 ≤ a && a ≤ 0x10D) || a == 0x10F || (0x140 ≤ a && a ≤ 0x143) ||
  a == 0x800

/-- Whether a thread is marked for a listed CSR (04 R84, R85). -/
def csrMarked (t : Tid) (a : Nat) : Bool := if isTaper t then csrOfTaper a else csrOfWick a

/-- CSR gplace (01 R13). -/
def gplaceOf (G : Gang) (t : Tid) : Word :=
  let quad := t.core / 4
  let stage : BitVec 4 := G.desc.stages.extractLsb' (4 * quad) 4
  let (w, tp) : BitVec 3 × BitVec 1 := match t.who with | .taper => (0, 1) | .wick w => (BitVec.ofNat 3 w.val, 0)
  G.desc.gtag ++ G.desc.ncm1 ++ BitVec.ofNat 5 (G.desc.ncm1.toNat / 4) ++ G.desc.nsm1 ++ stage ++ 0#5 ++ BitVec.ofNat 5 quad ++
    BitVec.ofNat 2 (t.core % 4) ++ w ++ tp ++ 0#12

/-- CSR tcause (18 R384). -/
def tcauseOf (T : Taper) : Word :=
  (if T.act then 1#1 else 0#1) ++ 0#47 ++ T.disp ++ 0#2 ++ (if T.ev then 1#1 else 0#1) ++ BitVec.ofNat 3 T.evWick.val ++ T.code

/-- The value of a CSR that a wick holds for itself (06 R130 to R140, 10 R236). -/
def wickCsr (W : Wick) (a : Nat) : Word :=
  match a with
  | 0x010 => W.vl.setWidth 64
  | 0x011 => W.vrows.setWidth 64
  | 0x013 => W.vstart.setWidth 64
  | 0x014 => boolWord W.split
  | 0x018 => W.apStride[0] ++ 0#29 ++ W.apEsz[0]
  | 0x019 => W.apStride[1] ++ 0#29 ++ W.apEsz[1]
  | 0x01A => W.apStride[2] ++ 0#29 ++ W.apEsz[2]
  | 0x01B => W.apStride[3] ++ 0#29 ++ W.apEsz[3]
  | 0x020 => W.pipeItems ++ 0#5 ++ W.pipeDepth
  | 0x021 => W.pipepass
  | 0x022 => W.vrot.setWidth 64
  | 0x023 => 0#48 ++ W.smode ++ 0#1 ++ W.pred ++ 0#1
  | 0x024 => 0#33 ++ W.mkBase ++ 0#13 ++ W.mkReg
  | 0x800 => W.vlcapLg.setWidth 64
  | _ => 0

/-- The value of a copy set-up CSR (13 R298). -/
def copyCsr (c : CopySetup) (a : Nat) : Word :=
  match a with
  | 0x100 => c.src
  | 0x101 => c.dst
  | 0x102 => c.dim[0].setWidth 64
  | 0x103 => c.dim[1].setWidth 64
  | 0x104 => c.dim[2].setWidth 64
  | 0x105 => c.dim[3].setWidth 64
  | 0x106 => c.str[0]
  | 0x107 => c.str[1]
  | 0x108 => c.str[2]
  | 0x109 => c.str[3]
  | 0x10A => c.fmt.setWidth 64
  | 0x10B => c.xf
  | 0x10C => c.flag
  | 0x10D => c.ch.setWidth 64
  | _ => 0

/-- CSR psstat (16 R352). -/
def psstatOf (th : Thread) : Word := 0#24 ++ th.psCode ++ 0#4 ++ th.psFails

/-- What a CSR reads as, its read's side effects aside. -/
def csrValue (s : State) (t : Tid) (a : Nat) : Word :=
  let th := s.thread t
  let C := s.core t.gang t.core
  match a with
  | 0x001 => th.fflags.setWidth 64
  | 0x012 => th.vtype.setWidth 64
  | 0x040 => th.rkey0.setWidth 64
  | 0x041 => th.rkey1.setWidth 64
  | 0x042 => th.rctr
  | 0x080 => boolWord C.issue.rr
  | 0x081 => C.bcbackoff.setWidth 64
  | 0x0C0 => gplaceOf (s.gang t.gang) t
  | 0x0C1 => C.cycle
  | 0x0D0 => C.pfissued
  | 0x0D1 => C.pfused
  | 0x0D2 => C.pflate
  | 0x0D3 => C.pfdropped
  | 0x140 => th.psflag
  | 0x141 => th.pscfg
  | 0x142 => 0#32 ++ C.psLimit ++ C.psCount
  | 0x143 => psstatOf th
  | 0x300 => C.taper.tvec ++ 0#2
  | 0x301 => tcauseOf C.taper
  | 0x302 => C.taper.tval
  | 0x303 => C.taper.tepc
  | _ =>
    if 0x100 ≤ a && a ≤ 0x10D then copyCsr th.copy a
    else match t.who with
      | .taper => 0
      | .wick w => wickCsr C.wicks[w] a

/-- The read of a CSR with its side effects: psstat clears, cpgo launches or traps (04 R88, 13 R302, 16 R352). -/
def csrRead (s : State) (t : Tid) (a : Nat) : Except (Cause × Word) (Word × State) :=
  match a with
  | 0x143 => .ok (psstatOf (s.thread t), s.modThread t fun th => { th with psCode := 0, psFails := 0 })
  | 0x10F => readCpgo s t
  | _ => .ok (csrValue s t a, s)

/-- A copy set-up CSR written, fieldwise (00 R5, R6, 13 R298). -/
def copyCsrSet (c : CopySetup) (a : Nat) (v : Word) : CopySetup :=
  match a with
  | 0x100 => { c with src := v }
  | 0x101 => { c with dst := v }
  | 0x102 => { c with dim := c.dim.set 0 (v.setWidth 32) }
  | 0x103 => { c with dim := c.dim.set 1 (v.setWidth 32) }
  | 0x104 => { c with dim := c.dim.set 2 (v.setWidth 32) }
  | 0x105 => { c with dim := c.dim.set 3 (v.setWidth 32) }
  | 0x106 => { c with str := c.str.set 0 v }
  | 0x107 => { c with str := c.str.set 1 v }
  | 0x108 => { c with str := c.str.set 2 v }
  | 0x109 => { c with str := c.str.set 3 v }
  | 0x10A => { c with fmt := v.setWidth 16 &&& 0xFF1F }
  | 0x10B => { c with xf := v &&& 0xFFFFFFFF20000171 }
  | 0x10C => { c with flag := v }
  | 0x10D => { c with ch := v.setWidth 2 }
  | _ => c

/-- A CSR of a wick written, fieldwise; none when the value is illegal (06 R131 to R140, 10 R236). A vtype that changes the element type
clamps vl to the new capacity. -/
def wickCsrSet (W : Wick) (a : Nat) (v : Word) : Option Wick :=
  let ap (n : Fin 4) : Option Wick :=
    if v.setWidth 3 == 7#3 then none
    else some { W with apStride := W.apStride.set n (v.extractLsb' 32 32), apEsz := W.apEsz.set n (v.setWidth 3) }
  match a with
  | 0x012 =>
    if v.setWidth 3 == 7#3 || v.extractLsb' 4 3 == 6#3 || v.extractLsb' 4 3 == 7#3 then none
    else some ({ W with th := { W.th with vtype := v.setWidth 8 &&& 0xF7 } } : Wick).clampVl
  | 0x013 => some { W with vstart := v.setWidth 18 }
  | 0x018 => ap 0
  | 0x019 => ap 1
  | 0x01A => ap 2
  | 0x01B => ap 3
  | 0x020 => some { W with pipeItems := v.extractLsb' 8 56, pipeDepth := v.setWidth 3 }
  | 0x021 => some { W with pipepass := v }
  | 0x022 => some { W with vrot := v.setWidth 5 }
  | 0x023 => some { W with smode := v.extractLsb' 9 7, pred := v.extractLsb' 1 7 }
  | 0x024 => some { W with mkBase := v.extractLsb' 16 15, mkReg := v.setWidth 3 }
  | _ => some W

/-- A CSR of the taper written, fieldwise; none when the value is illegal (05 R112, R115, 18 R384; 06 R131: only vtype.rm exists). -/
def taperCsrSet (C : Core) (a : Nat) (v : Word) : Option Core :=
  match a with
  | 0x012 =>
    if v.extractLsb' 4 3 == 6#3 || v.extractLsb' 4 3 == 7#3 then none
    else some { C with taper := { C.taper with th := { C.taper.th with vtype := v.setWidth 8 &&& 0x70 } } }
  | 0x080 => some { C with issue := { C.issue with rr := bitOf v 0 } }
  | 0x081 => some { C with bcbackoff := v.setWidth 16 }
  | 0x300 => some { C with taper := { C.taper with tvec := v.extractLsb' 2 62 } }
  | 0x301 => some { C with taper := { C.taper with disp := v.extractLsb' 14 2 } }
  | 0x302 => some { C with taper := { C.taper with tval := v } }
  | 0x303 => some { C with taper := { C.taper with tepc := v } }
  | _ => some C

/-- A CSR that either kind of thread may write for itself, fieldwise (03 R72, R79, 13 R298, 16 R352). -/
def threadCsrSet (th : Thread) (a : Nat) (v : Word) : Thread :=
  match a with
  | 0x001 => { th with fflags := v.setWidth 7 }
  | 0x040 => { th with rkey0 := v.setWidth 32 }
  | 0x041 => { th with rkey1 := v.setWidth 32 }
  | 0x042 => { th with rctr := v }
  | 0x140 => { th with psflag := v }
  | 0x141 => { th with pscfg := v &&& 0xFFFFFFFF20010000 }
  | _ => { th with copy := copyCsrSet th.copy a v }

/-- Whether a CSR's fields stand in `threadCsrSet`. -/
def threadCsr (a : Nat) : Bool :=
  a == 0x001 || (0x040 ≤ a && a ≤ 0x042) || (0x100 ≤ a && a ≤ 0x10D) || a == 0x140 || a == 0x141

/-- A CSR written, fieldwise; a read-only one keeps its value; none when the value is illegal (00 R5, R6, 04 R84). -/
def csrSet (s : State) (t : Tid) (a : Nat) (v : Word) : Option State :=
  if a == 0x142 then
    some (s.modCore t.gang t.core fun C => { C with psLimit := v.extractLsb' 16 16, psCount := v.setWidth 16 })
  else if threadCsr a then some (s.modThread t fun th => threadCsrSet th a v)
  else match t.who with
    | .taper => (taperCsrSet (s.core t.gang t.core) a v).map fun C => s.modCore t.gang t.core fun _ => C
    | .wick w => (wickCsrSet (s.wick t.gang t.core w) a v).map fun W => s.modWick t.gang t.core w fun _ => W

/-- CSRop (04 R87, R88): the address check, the privilege check, the read with its side effects, the write, and rd := old. -/
def csrOp (s : State) (i : Instr) (d : Reg) (c : BitVec 12) (new : Option (Word → Word)) : Host.Outcome State Fault Refusal :=
  let t := s.cur
  let a := c.toNat
  if !csrMarked t a then trapNext s t .illegal (c.setWidth 64)
  else if 0x800 ≤ a && new.isSome then trapNext s t .protection (c.setWidth 64)
  else match csrRead s t a with
    | .error (cause, val) => trapNext s t cause val
    | .ok (old, s1) =>
      match new with
      | none => writeRd s1 d old
      | some f =>
        match csrSet s1 t a (f old) with
        | none => trapNext s t .illegal (wordOf i)
        | some s2 => writeRd s2 d old

/-- CSRR (04 R87): reads a CSR into rd. -/
def execCsrr (d : Reg) (c : BitVec 12) (s : State) : Host.Outcome State Fault Refusal := csrOp s (.csrr d c) d c none
/-- CSRW (04 R87): writes X[rs1]. -/
def execCsrw (d a : Reg) (c : BitVec 12) (s : State) : Host.Outcome State Fault Refusal :=
  let x := s.getX s.cur a
  csrOp s (.csrw d a c) d c (some fun _ => x)
/-- CSRS (04 R87): writes old OR X[rs1]. -/
def execCsrs (d a : Reg) (c : BitVec 12) (s : State) : Host.Outcome State Fault Refusal :=
  let x := s.getX s.cur a
  csrOp s (.csrs d a c) d c (some fun old => old ||| x)
/-- CSRC (04 R87): writes old AND NOT X[rs1]. -/
def execCsrc (d a : Reg) (c : BitVec 12) (s : State) : Host.Outcome State Fault Refusal :=
  let x := s.getX s.cur a
  csrOp s (.csrc d a c) d c (some fun old => old &&& ~~~x)
/-- CSRW with an immediate (04 R87). -/
def execCsrwImm (d u : Reg) (c : BitVec 12) (s : State) : Host.Outcome State Fault Refusal :=
  csrOp s (.csrwImm d u c) d c (some fun _ => u.setWidth 64)
/-- CSRS with an immediate (04 R87). -/
def execCsrsImm (d u : Reg) (c : BitVec 12) (s : State) : Host.Outcome State Fault Refusal :=
  csrOp s (.csrsImm d u c) d c (some fun old => old ||| u.setWidth 64)
/-- CSRC with an immediate (04 R87). -/
def execCsrcImm (d u : Reg) (c : BitVec 12) (s : State) : Host.Outcome State Fault Refusal :=
  csrOp s (.csrcImm d u c) d c (some fun old => old &&& ~~~(u.setWidth 64))

/-- CPGO (13 R302): the read of cpgo that CSRR rd, cpgo makes. -/
def execCpgo (d : Reg) (s : State) : Host.Outcome State Fault Refusal := csrOp s (.csrr d 0x10F) d 0x10F none
/-- PSSTAT_READ (16 R352): the read of psstat that CSRR rd, psstat makes. -/
def execPsstatRead (d : Reg) (s : State) : Host.Outcome State Fault Refusal := csrOp s (.csrr d 0x143) d 0x143 none

end Sys2Proof.Machine
end

