-- ==== Sys2Proof/Machine/System.lean ====
section
/-! DEFINITION. The SYS forms (18 R388 to R392), the decode and fetch traps (02 R46 to R48, 04 R96), the wick event at the taper
(18 R386), and the events by which WFE and HALT end (18 R391, R392). -/

namespace Sys2Proof.Machine

/-- ILLEGAL_ENCODING (02 R46): a word of an unlisted encoding traps illegal. -/
def execIllegalEncoding (word : IWord) (s : State) : Host.Outcome State Fault Refusal := trapNext s s.cur .illegal (word.setWidth 64)
/-- RESERVED_FIELD_WORD (02 R47): a nonzero reserved field traps reserved-field. -/
def execReservedFieldWord (word : IWord) (s : State) : Host.Outcome State Fault Refusal :=
  trapNext s s.cur .reservedField (word.setWidth 64)

/-- The trap of a failed fetch at `va`, with the fault record of a failed translation or of the host's refusal
(04 R96, 08 R209, 09 R221, 18 R383 step 1). -/
def fetchFault (s : State) (t : Tid) (cause : Cause) (va : Word) : State :=
  match translate s (s.pcoreNum t) (s.vfOf t) va .fetch true with
  | (.fail _ p, s1) => trapXlat s1 t cause va .fetch p
  | (.ok x, s1) =>
    if cause == .protection then trapXlat s1 t cause va .fetch { ipa := x.ipa, place := 0 } else trap s t cause va
  | _ => trap s t cause va

/-- INSTRUCTION_FETCH_FAULT (04 R96): the trap is raised at the word. -/
def execInstructionFetchFault (cause : Cause) (va : Word) (s : State) : Host.Outcome State Fault Refusal :=
  .next (fetchFault s s.cur cause va)

/-- ECALL (18 R389). -/
def execEcall (s : State) : Host.Outcome State Fault Refusal := trapNext s s.cur .ecall 0
/-- EBREAK (18 R389): a trap, or the gang stops for an armed debugger on an unlocked port. -/
def execEbreak (s : State) : Host.Outcome State Fault Refusal :=
  if s.root.unlocked && s.root.armed then .next (s.modGang s.cur.gang fun G => { G with debugStop := true })
  else trapNext s s.cur .ebreak 0

/-- A wick disposed of by TRAPRET: retry, skip or discard (18 R387). -/
def Wick.dispose (W : Wick) (disp : BitVec 2) : Wick :=
  match W.state with
  | .faulted _ =>
    if disp == 0 then { W with state := W.runState }
    else if disp == 1 then ({ W with vstart := 0 } : Wick).completed
    else { W with queue := [], vstart := 0, state := .idle, vmem := none }
  | _ => W

/-- TRAPRET (18 R390): the return from the taper's handler, and the disposition of a faulted wick. -/
def execTrapret (s : State) : Host.Outcome State Fault Refusal :=
  forTaper .trapret s <|
    let t := s.cur
    let T := s.curCore.taper
    if !T.act then trapNext s t .illegal (wordOf .trapret)
    else if !T.ev then
      if T.tepc.setWidth 2 != 0#2 then trapNext s t .misaligned T.tepc
      else .next ((s.modTaper t.gang t.core fun T => { T with act := false }).jump t T.tepc)
    else if T.disp == 3 then trapNext s t .illegal (wordOf .trapret)
    else
      let s := s.modWick t.gang t.core T.evWick (·.dispose T.disp)
      .next ((s.modTaper t.gang t.core fun T => { T with ev := false, act := false }).jump t T.hidden)

/-- A thread's event flag cleared. -/
def clearEvent (s : State) (t : Tid) : State := s.modThread t fun th => { th with event := false }

/-- WFE (18 R391): completes at once when the event flag is set, and clears it; else the thread stalls. -/
def execWfe (s : State) : Host.Outcome State Fault Refusal :=
  if (s.thread s.cur).event then moveOn (clearEvent s s.cur) else .next (s.setWait s.cur (.wfe s.ac))

/-- HALT (18 R392): waits for the taper's earlier instructions, then retires the taper. -/
def execHalt (s : State) : Host.Outcome State Fault Refusal :=
  forTaper .halt s <|
    if (s.thread s.cur).pend.isEmpty then .next (haltTaper s s.cur.gang s.cur.core) else .next (s.setWait s.cur .halt)

/-- WFE_WAKE (18 R391): the flag is set: it is cleared and WFE completes. -/
def execWfeWake (t : Tid) (s : State) : Host.Outcome State Fault Refusal :=
  match (s.thread t).wait with
  | some (.wfe _) => if (s.thread t).event then .next ((clearEvent s t).done t) else .next s
  | _ => .next s

/-- WFE_TIMEOUT (18 R391): 65,536 ac after it starts, WFE completes without cause. -/
def execWfeTimeout (t : Tid) (s : State) : Host.Outcome State Fault Refusal :=
  match (s.thread t).wait with
  | some (.wfe since) => if s.ac - since ≥ 65536 then .next (s.done t) else .next s
  | _ => .next s

/-- HALT_RETIRE (01 R26, 18 R392): the taper's earlier instructions have completed. -/
def execHaltRetire (g c : Nat) (s : State) : Host.Outcome State Fault Refusal :=
  let th := (s.core g c).taper.th
  if th.wait == some .halt && th.pend.isEmpty then .next (haltTaper s g c) else .next s

/-- Whether a wait is one whose arrival stands when it is abandoned (18 R386). -/
def Wait.arrives : Wait → Bool
  | .bar .. | .step _ => true
  | _ => false

/-- WICK_EVENT (18 R386): the taper takes the lowest-numbered unreported wick fault at an instruction boundary; without a handler it is
a double trap. -/
def execWickEvent (g c : Nat) (s : State) : Host.Outcome State Fault Refusal :=
  let C := s.core g c
  let T := C.taper
  if T.run != .running || T.act then .next s
  else match pendingFault C with
  | none => .next s
  | some w =>
    let W := C.wicks[w]
    if T.tvec == 0 then .next (doubleTrap s g c W.code)
    else
      let s := s.modWick g c w fun W => { W with reported := true }
      let s := s.modTaper g c fun T =>
        { T with
          hidden := T.th.pc, tepc := W.tepc, tval := W.tval, code := W.code, evWick := w, ev := true, disp := 0, act := true
          arrival := if T.th.wait.any Wait.arrives then some T.th.pc else T.arrival
          th := { T.th with pc := T.tvec ++ 0#2, wait := none } }
      .next (s.modGang g fun G => { G with progressAt := s.ac })

end Sys2Proof.Machine
end

