-- ==== Sys2Proof/Machine/WickForms.lean ====
section
/-! DEFINITION. The WICK major (05 R118 to R124), the delivery and replay of blocks (05 R114, R115), the choice of the issue slot
(05 R111), and the events by which STOP and WJOIN end (05 R120, R121). -/

namespace Sys2Proof.Machine

/-- The mask of BCAST and WJOIN: the immediate AND X[rs1] when rs1 is not x0 (05 R118, R121). -/
def wickMask (s : State) (t : Tid) (r : Reg) (m : BitVec 8) : BitVec 8 := if r = 0 then m else m &&& (s.getX t r).setWidth 8

/-- How the fetch of a block ends. -/
inductive BlockFetch where
  | words (ws : List IWord) (s : State)
  | stop (s : State)
  deriving DecidableEq, Repr

/-- The fetch of the words of a block from an address; the first that fails traps the BCAST (05 R118). -/
def fetchBlock (s : State) (t : Tid) (a : Word) : Nat → List IWord → BlockFetch
  | 0, ws => .words ws.reverse s
  | n + 1, ws =>
    match fetchWord s t a with
    | .word w s => fetchBlock s t (a + 4) n (w :: ws)
    | .fault c va => .stop (fetchFault s t c va)
    | .wait s => .stop s

/-- BCAST (05 R114, R117, R118): the next words become a block in the replay window. It forks, so the taper's earlier stores are
performed. -/
def execBcast (r : Reg) (n : BitVec 3) (m : BitVec 8) (s : State) : Host.Outcome State Fault Refusal :=
  forTaper (.bcast r n m) s <|
    let t := s.cur
    let count := n.toNat + 1
    let mask := wickMask s t r m
    let next := s.pcOf t + 4 + 4 * BitVec.ofNat 64 count
    if mask == 0 then .next (s.jump t next)
    else if s.curCore.window.length ≥ 4 then .next (s.setWait t .bcast)
    else match fetchBlock s t (s.pcOf t + 4) count [] with
      | .stop s => .next s
      | .words ws s =>
        let s := flushStores s t
        let b : Block := { base := s.pcOf t + 4, words := ws, pos := 0 }
        .next ((s.modCurCore fun C => { C with window := C.window ++ [{ block := b, left := mask, refused := [] }] }).jump t next)

/-- A wick accepts a block: an idle or stopped one becomes block-driven, and its event flag is set (01 R18, 05 R114, 18 R391). -/
def Wick.accept (W : Wick) (b : Block) : Wick :=
  { W with
    queue := W.queue ++ [b], th := { W.th with event := true }
    state := match W.state with | .idle | .stopped => .blockDriven | st => st }

/-- Whether an acceptance makes a wick run. -/
def Wick.startsOnBlock (W : Wick) : Bool := match W.state with | .idle | .stopped => true | _ => false

/-- Waits of a thread instruction that has started, and of a slot instruction, which starts when it issues: it holds no block in the queue
(05 R116; log 45). -/
def Wait.started : Wait → Bool
  | .fence .. | .cpdrain .. | .stop _ | .mwait _ | .mquad .. | .joint _ | .vmem | .tile => true
  | _ => false

/-- Whether a wick's current instruction has started and waits (05 R116): by its wait, or as a tile fetch or a vigil's move that waits on a
page. -/
def Wick.hasStarted (W : Wick) : Bool := W.th.wait.any fun x => x.started || W.fetch.isSome || W.vmem.isSome

/-- The blocks in a wick's queue: a block has left it once its last instruction has started (05 R116). `executing` is whether the wick's
instruction starts now. -/
def Wick.blocksHeld (W : Wick) (executing : Bool) : Nat :=
  match W.queue with
  | [] => 0
  | b :: q => if !W.isFree && b.pos + 1 ≥ b.words.length && (executing || W.hasStarted) then q.length else q.length + 1

/-- The first windowed block that wick `w` has not accepted is sent to it in the ac `now`: accepted whole, or refused by a queue of four
blocks; nothing is sent while a refusal waits for its back-off (05 R114, R115). -/
def deliverOne (C : Core) (w : Fin 8) (now : Nat) : Core :=
  match C.window.findIdx? fun b => bitOf b.left w.val with
  | none => C
  | some k =>
    match C.window[k]? with
    | none => C
    | some b =>
      if (tabGet? b.refused w.val).isSome then C
      else if C.wicks[w].blocksHeld false ≥ 4 then
        { C with window := C.window.set k { b with refused := tabPut b.refused w.val now } }
      else
        let left := setBit b.left w.val false
        let C := C.runWick w C.wicks[w].startsOnBlock (·.accept b.block)
        { C with window := if left == 0 then C.window.eraseIdx k else C.window.set k { b with left := left } }

/-- BLOCK_DELIVERY (05 R114). -/
def execBlockDelivery (g c : Nat) (w : Fin 8) (s : State) : Host.Outcome State Fault Refusal :=
  .next (if (s.core g c).window.isEmpty then s else s.modCore g c (deliverOne · w s.ac))

/-- Every windowed block for `w` resent in order, `n` of them (05 R115). -/
def replayTo (w : Fin 8) (now : Nat) : Nat → Core → Core
  | 0, C => C
  | n + 1, C => replayTo w now n (deliverOne C w now)

/-- Whether a refusal of wick `w` has waited its back-off of bcbackoff.count + 1 ac (05 R115). -/
def backoffOver (C : Core) (w : Fin 8) (now : Nat) : Bool :=
  C.window.any fun b => (tabGet? b.refused w.val).any fun a => a + C.bcbackoff.toNat + 1 ≤ now

/-- BCAST_REPLAY (05 R115): once the back-off is over the refused block and every later one for `w` are resent. -/
def execBcastReplay (g c : Nat) (w : Fin 8) (s : State) : Host.Outcome State Fault Refusal :=
  .next (if backoffOver (s.core g c) w s.ac then
      s.modCore g c fun C => replayTo w s.ac 4 { C with window := C.window.map fun b => { b with refused := tabDel b.refused w.val } }
    else s)

/-- BFETCH (05 R119): the wick runs free from X[rs1] + off; the rest of its block is discarded. -/
def execBfetch (a : Reg) (o : BitVec 12) (s : State) : Host.Outcome State Fault Refusal :=
  forWick (.bfetch a o) s fun w =>
    let t := s.cur
    let target := s.getX t a + (o.signExtend 64 <<< 2)
    if target.setWidth 2 != 0#2 then trapNext s t .misaligned target
    else
      let s := s.modCur w fun W => { W with state := .freeRunning, queue := if W.isFree then W.queue else W.queue.tail }
      .next (s.jump t target)

/-- A wick after STOP: the stopcode and stop-pending; a free-running one stops, and runs the blocks that wait (01 R19, 05 R120). -/
def Wick.stopEffect (W : Wick) (code : BitVec 8) : Wick :=
  let W := { W with stopcode := code, stopPend := true }
  if W.isFree then
    { W with
      th := { W.th with wait := none }
      state := if W.queue.isEmpty then .stopped else .blockDriven }
  else W.completed

/-- STOP's effect on its core: the wick, its move to youngest when it runs a block from stopped, the taper's event flag
(05 R111, R120, 18 R391). -/
def stopNow (s : State) (g c : Nat) (w : Fin 8) (code : BitVec 8) : State :=
  let s := s.modCore g c fun C =>
    let W := C.wicks[w]
    let C := C.runWick w (W.isFree && !W.queue.isEmpty) (·.stopEffect code)
    { C with taper := { C.taper with th := { C.taper.th with event := true } } }
  s.modGang g fun G => { G with progressAt := s.ac }

/-- STOP (05 R120): completes once the wick's earlier accesses have. -/
def execStop (code : BitVec 8) (s : State) : Host.Outcome State Fault Refusal :=
  forWick (.stop code) s fun w =>
    if (s.thread s.cur).pend.isEmpty then .next (stopNow s s.cur.gang s.cur.core w code)
    else .next (s.setWait s.cur (.stop code))

/-- STOP_EVENT (05 R120): the wick's earlier accesses have completed. -/
def execStopEvent (g c : Nat) (w : Fin 8) (_code : BitVec 8) (s : State) : Host.Outcome State Fault Refusal :=
  let th := (s.wick g c w).th
  match th.wait with
  | some (.stop code) => if th.pend.isEmpty then .next (stopNow s g c w code) else .next s
  | _ => .next s

/-- Whether the wicks of a mask are quiescent and have no block outstanding (05 R121). -/
def joined (C : Core) (mask : BitVec 8) : Bool :=
  (List.finRange 8).all fun w =>
    !bitOf mask w.val || (C.wicks[w].quiescent && !C.window.any fun b => bitOf b.left w.val)

/-- The wicks of a mask that are stopped with stop-pending set (05 R121). -/
def stoppedMask (C : Core) (mask : BitVec 8) : BitVec 8 :=
  (List.finRange 8).foldl (fun m w =>
    if bitOf mask w.val && C.wicks[w].state == .stopped && C.wicks[w].stopPend then setBit m w.val true else m) 0

/-- WJOIN returns: the named wicks' writes are performed, rd receives the stopped ones, and the return is an acquire (05 R121,
14 R316). -/
def joinReturn (s : State) (t : Tid) (d : Reg) (mask : BitVec 8) : State :=
  let s := (List.finRange 8).foldl (fun s w => if bitOf mask w.val then flushStores s { t with who := .wick w } else s) s
  let v := stoppedMask (s.core t.gang t.core) mask
  ((acquire s t 1).setX t d (v.setWidth 64)).done t

/-- WJOIN (05 R121). -/
def execWjoin (d a : Reg) (m : BitVec 8) (s : State) : Host.Outcome State Fault Refusal :=
  forTaper (.wjoin d a m) s <|
    let mask := wickMask s s.cur a m
    if joined s.curCore mask then .next (joinReturn s s.cur d mask) else .next (s.setWait s.cur (.wjoin d mask))

/-- WJOIN_RETURN (05 R121). -/
def execWjoinReturn (g c : Nat) (s : State) : Host.Outcome State Fault Refusal :=
  let C := s.core g c
  match C.taper.th.wait with
  | some (.wjoin d mask) =>
    if joined C mask then .next (joinReturn s { gang := g, core := c, who := .taper } d mask) else .next s
  | _ => .next s

/-- The wick that a wick links to (05 R122). -/
def nextWick (w : Fin 8) : Fin 8 := fin8 (w.val + 1)

/-- XLINK (05 R122): in a wick, a register of the next wick; in the taper, of wick 0. -/
def execXlink (d a : Reg) (s : State) : Host.Outcome State Fault Refusal :=
  let w := match s.cur.who with | .taper => 0 | .wick w => nextWick w
  writeRd s d ((s.curWick w).th.getX a)

/-- XLINK in the taper with a wick number that is not 0 (05 R122); in a wick those bits are reserved. -/
def execXlinkTaper (d a : Reg) (w : BitVec 3) (s : State) : Host.Outcome State Fault Refusal :=
  if isTaper s.cur then writeRd s d ((s.curWick (fin8 w.toNat)).th.getX a)
  else trapNext s s.cur .reservedField (wordOf (.xlinkTaper d a w))

/-- A whole row taken as written: its extent is the row (06 R145). -/
def Wick.wholeRow (W : Wick) (n : Nat) : Wick := { W with extent := tabPut W.extent (if W.split then n / 2 else n) 128 }

/-- XLINK.V (05 R122): a whole register of the next wick, its name rotated by that wick's state; the extent becomes the whole row
(06 R145), and vstart 0 (02 R52). -/
def execXlinkV (d a : Reg) (s : State) : Host.Outcome State Fault Refusal :=
  forWick (.xlinkV d a) s fun w =>
    let W := s.curWick w
    let L := s.curWick (nextWick w)
    if W.split != L.split then trapNext s s.cur .illegal (wordOf (.xlinkV d a))
    else
      let n := W.rotate d.toNat
      wickDone s w (((W.setReg n (L.reg (L.rotate a.toNat)) W.regBits).wholeRow n).swept 0 false)

/-- YIELD (05 R123): the wick moves to youngest; a no-op in the taper. -/
def execYield (s : State) : Host.Outcome State Fault Refusal :=
  match s.cur.who with
  | .taper => moveOn s
  | .wick w => moveOn (s.modCurCore fun C => { C with issue := C.issue.toYoungest w })

/-- The number of a wick's state (05 R124). -/
def WickState.num : WickState → BitVec 3
  | .idle => 0 | .blockDriven => 1 | .freeRunning => 2 | .stalled _ => 3 | .faulted _ => 4 | .stopped => 5

/-- Whether a wick is faulted. -/
def Wick.isFaulted (W : Wick) : Bool := match W.state with | .faulted _ => true | _ => false
/-- Whether the replay window holds a block that a wick has not accepted (05 R124). -/
def inWindow (C : Core) (w : Fin 8) : Bool := C.window.any fun b => bitOf b.left w.val

/-- A bit of a status word. -/
abbrev flagBit (b : Bool) : BitVec 1 := if b then 1 else 0

/-- The detail word of a wick, read by itself or by another thread (05 R124). -/
def wickStatus (C : Core) (w : Fin 8) (own : Bool) : Word :=
  let W := C.wicks[w]
  W.stopcode ++ (if W.isFaulted then W.code else 0) ++ 0#36 ++ flagBit (inWindow C w) ++ flagBit W.stopPend ++ 0#3 ++
    BitVec.ofNat 3 (W.blocksHeld own) ++ 0#1 ++ W.state.num

/-- Bit w of a mask says whether a condition holds for wick w. -/
def wickBits (p : Fin 8 → Bool) : BitVec 8 := (List.finRange 8).foldl (fun m w => if p w then setBit m w.val true else m) 0

/-- The summary word (05 R124). -/
def wickSummary (C : Core) : Word :=
  0#16 ++ wickBits (inWindow C) ++ wickBits (fun w => C.wicks[w].isStalled) ++ wickBits (fun w => C.wicks[w].state == .freeRunning) ++
    wickBits (fun w => C.wicks[w].stopPend) ++ wickBits (fun w => C.wicks[w].isFaulted) ++ wickBits (fun w => C.wicks[w].quiescent)

/-- A core with the stop-pending bits cleared of the wicks that a status word reports (05 R124). -/
def clearStops (C : Core) (sel : BitVec 4) : Core :=
  if sel == 8 then { C with wicks := vmap (fun W => { W with stopPend := false }) C.wicks }
  else let w := fin8 sel.toNat; { C with wicks := C.wicks.set w { C.wicks[w] with stopPend := false } }

/-- WSTAT (05 R124). -/
def execWstat (d : Reg) (c : BitVec 1) (sel : BitVec 4) (s : State) : Host.Outcome State Fault Refusal :=
  let C := s.curCore
  let v := if sel == 8 then wickSummary C else wickStatus C (fin8 sel.toNat) (s.cur.who == .wick (fin8 sel.toNat))
  let s := if c == 1 then s.modCurCore (clearStops · sel) else s
  writeRd s d v

/-- SLOT_ISSUE (05 R111): the chosen wick's turn comes next. -/
def execSlotIssue (g c : Nat) (s : State) : Host.Outcome State Fault Refusal :=
  match slotChoice s g c with
  | some w =>
    .next { s with agenda := { ac := 0, perf := [], move := .thread { gang := g, core := c, who := .wick w } } :: s.agenda }
  | none => .next s

end Sys2Proof.Machine
end

