-- ==== Sys2Proof/Machine/Vcfg.lean ====
section
/-! DEFINITION. The VCFG major (06 R147 to R152) and STRIP_W_RETURN (06 R148). -/

namespace Sys2Proof.Machine

/-- Whether a watermark slot is held by a VF (15 R342). -/
def slotHeld (s : State) (vf slot : Nat) : Bool := slot < 4096 && tabGet? s.markBlocks (slot / 64) == some vf
/-- The value of a watermark slot (15 R342). -/
def markOf (s : State) (slot : Nat) : Word := tabGet 0 s.marks slot
/-- A slot at `w` reaches a bound (15 R343). -/
def reaches (w bound : Word) : Bool := (w - bound).toNat < 2 ^ 63

/-- The pointers that a strip's end advances past the elements that it granted (06 R147). -/
def stripStep (W : Wick) (mask : BitVec 4) : Wick :=
  let adv (n : Fin 4) : Word :=
    if bitOf mask n.val && W.apEsz[n] != 0 then W.ap[n] + BitVec.ofNat 64 ((W.vln * 2 ^ W.apEsz[n].toNat + 7) / 8) else W.ap[n]
  { W with ap := #v[adv 0, adv 1, adv 2, adv 3] }

/-- The grant of a strip: min(X[xn], C) (06 R147). -/
def stripGrant (W : Wick) (n : Word) : Nat := min n.toNat W.cap

/-- STRIP (06 R147). -/
def execStrip (d a : Reg) (mask : BitVec 4) (s : State) : Host.Outcome State Fault Refusal :=
  forWick (.strip d a mask) s fun w =>
    let W := s.curWick w
    let g := stripGrant W (s.getX s.cur a)
    let s := s.modCur w fun W => { stripStep W mask with vl := BitVec.ofNat 16 g, vstart := 0 }
    writeRd s d (BitVec.ofNat 64 g)

/-- STRIP.W returns: the strip's pointer step, the grant, X[xd] := bound; an acquire at .pt (06 R148, 15 R343). -/
def stripWEffect (s : State) (t : Tid) (w : Fin 8) (xd : Reg) (g : Nat) (bound : Word) (adv : Bool) : State :=
  let s := s.modWick t.gang t.core w fun W =>
    { stripStep W (if adv then 15 else 0) with vl := BitVec.ofNat 16 g, vstart := 0 }
  ((acquire s t 3).setX t xd bound).done t

/-- STRIP.W (06 R148): a slot that the VF does not hold traps before any wait. -/
def execStripW (d a : Reg) (v : BitVec 1) (slot : BitVec 12) (s : State) : Host.Outcome State Fault Refusal :=
  forWick (.stripW d a v slot) s fun w =>
    let t := s.cur
    if !slotHeld s (s.vfOf t) slot.toNat then trapNext s t .protection (slot.setWidth 64)
    else
      let g := stripGrant (s.curWick w) (s.getX t a)
      let bound := s.getX t d + BitVec.ofNat 64 g
      if reaches (markOf s slot.toNat) bound then .next (stripWEffect s t w d g bound (v == 1))
      else .next (s.setWait t (.stripW d a slot.toNat (v == 1)))

/-- STRIP_W_RETURN (06 R148): the watermark has reached the strip's upper bound. -/
def execStripWReturn (t : Tid) (s : State) : Host.Outcome State Fault Refusal :=
  match t.who, (s.thread t).wait with
  | .wick w, some (.stripW d a slot adv) =>
    let g := stripGrant (s.wick t.gang t.core w) (s.getX t a)
    let bound := s.getX t d + BitVec.ofNat 64 g
    if reaches (markOf s slot) bound then .next (stripWEffect s t w d g bound adv) else .next s
  | _, _ => .next s

/-- VSETT (06 R149). -/
def execVsett (d a : Reg) (g : BitVec 2) (ta : BitVec 1) (m e : BitVec 3) (s : State) : Host.Outcome State Fault Refusal :=
  forWick (.vsett d a g ta m e) s fun w =>
    let W := s.curWick w
    let rows := 2 ^ g.toNat
    let W1 := { W with
      vrot := if rows != W.nrows then 0 else W.vrot
      vrows := BitVec.ofNat 4 rows, vstart := 0
      th := { W.th with vtype := ta ++ m ++ 0#1 ++ e } }
    let vl := if a = 0 then min W1.vln W1.cap else min (s.getX s.cur a).toNat W1.cap
    writeRd (s.modCur w fun _ => { W1 with vl := BitVec.ofNat 16 vl }) d (BitVec.ofNat 64 vl)

/-- VSETT.AP (06 R150). -/
def execVsettAp (d a : Reg) (n : BitVec 2) (s : State) : Host.Outcome State Fault Refusal :=
  forWick (.vsettAp d a n) s fun w =>
    let old := (s.curWick w).ap[n.toFin]
    let new := s.getX s.cur a
    writeRd (s.modCur w fun W => { W with ap := W.ap.set n.toFin new }) d old

/-- The lowest-numbered valid window that a wick owns (06 R151). -/
def ownedWindow (C : Core) (w : Fin 8) : Option (Fin 8) :=
  (List.finRange 8).find? fun n => C.windows[n].valid && C.windows[n].owner == w

/-- Thirty-two rows of undefined bits (06 R151, log 6). -/
def freeRows (free : Nat) : Tab (BitVec 65536) :=
  (natsFrom 0 32).foldl (fun t j => putRow t j (Config.freeRow (free + j))) []

/-- A wick after VMODE (06 R151): the other mode; the contents of its registers are undefined. -/
def Wick.toggled (W : Wick) (free : Nat) : Wick :=
  ({ W with
     split := !W.split, vrot := 0, vstart := 0, rows := freeRows free, dirty := BitVec.allOnes 32
     extent := (natsFrom 0 32).map fun j => (j, 128) } : Wick).clampVl

/-- VMODE (06 R151). -/
def execVmode (d : Reg) (s : State) : Host.Outcome State Fault Refusal :=
  forWick (.vmode d) s fun w =>
    match ownedWindow s.curCore w with
    | some n => trapNext s s.cur .illegal (BitVec.ofNat 64 n.val)
    | none =>
      let split := !(s.curWick w).split
      let s := { s.modCur w (·.toggled s.free) with free := s.free + 32 }
      writeRd s d (boolWord split)

/-- The stage predicates of pass `q` of a loop of `n` items in `k` stages: stage k runs when k - 1 ≤ q ≤ n + k - 2 (06 R140, R152). -/
def passPreds (n stages q : Nat) : BitVec 7 :=
  (natsFrom 1 7).foldl (fun p k => if k ≤ stages && k - 1 ≤ q && q + 2 ≤ n + k then setBit p (k - 1) true else p) 0

/-- VLOOP (06 R152). -/
def execVloop (o : BitVec 13) (s : State) : Host.Outcome State Fault Refusal :=
  forWick (.vloop o) s fun w =>
    let t := s.cur
    let W := s.curWick w
    let stages := W.pipeDepth.toNat
    let n := W.pipeItems.toNat
    if stages == 0 || W.pipepass.toNat + 1 ≥ n + stages then moveOn s
    else
      let q := W.pipepass.toNat + 1
      let take := q + 1 < n + stages
      if take && s.blockDriven t then trapNext s t .illegal (s.pcOf t)
      else
        let s' := s.modCur w fun W =>
          { W with
            pipepass := BitVec.ofNat 64 q, pred := passPreds n stages q
            vrot := BitVec.ofNat 5 ((W.vrot.toNat + 1) % (W.rotBase / W.nrows)) }
        if take then .next (s'.jump t (target s o)) else moveOn s'

end Sys2Proof.Machine
end

