-- ==== Sys2Proof/Machine/VecMem.lean ====
section
/-! DEFINITION. Vector loads, stores, gathers and prefetches (08 R188 to R205), with the replay of elements whose pages miss
(09 R224, R225). -/

namespace Sys2Proof.Machine

/-- The memory size m of an element in bits (08 R192): ElemSize() when mfmt is 0. -/
def memBits (W : Wick) (mf : Reg) : Nat :=
  if mf == 0 then W.esize else if mf.toNat == 13 || mf.toNat == 14 then 8 else if mf.toNat == 15 then 4 else mfmtBits mf.toNat

/-- The base value b of a vector memory form: an x register, or an address pointer (02 R38, 08 R192). -/
def vbase (s : State) (W : Wick) (b : Reg) : Word := if b.toNat < 28 then s.getX s.cur b else W.ap[fin4 b.toNat]

/-- The bit address of a row's start relative to the base's own layout: an ap base steps by its stride (06 R136, 08 R192). -/
def apRow (W : Wick) (b : Reg) (r : Nat) : Int := 8 * (r * (W.apStride[fin4 b.toNat]).toInt)

/-- A vector memory form as its checks find it: the memory size, the groups of its fields, the bit address of field f of (r, e) without
the base (modulo 2^67), and the positions that are active. -/
structure VecGeom where
  load : Bool
  m : Nat
  mf : Nat
  nf : Nat
  groups : List (List Nat)
  addr : Nat → Nat → Nat → Int
  base : Word
  act : Nat → Bool
  mx : Option Word

/-- The register of field `f`, row `r`. -/
def VecGeom.reg (G : VecGeom) (f r : Nat) : Nat := (G.groups.getD f []).getD r 0

/-- The bit address A(r, e) of a field, modulo 2^67 (08 R192). -/
def VecGeom.bitAddr (G : VecGeom) (r e f : Nat) : Nat := ((8 * (G.base.toNat : Int) + G.addr r e f) % 2 ^ 67).toNat

/-- The illegal conditions of 08 R194 check 1 that do not depend on the form. -/
def vecIllegal (W : Wick) (mf : Reg) : Bool := mfmtFloat mf.toNat && isIntEt W.et

/-- The 32-bit capacity of an index row (08 R193). -/
def Wick.cap32 (W : Wick) : Nat := W.capBits / 32

/-- The row-start part of a bit address: with an ap base the rows lie one stride apart (08 R192). -/
def rowTerm (W : Wick) (b : Reg) (r : Nat) (xTerm : Int) : Int := if b.toNat < 28 then xTerm else apRow W b r

/-- Where the bytes of an element lie: pieces of one page each. -/
inductive ElemX where
  | ok (pcs : List (Xlat × Nat)) (s : State)
  | fail (c : Cause) (va : Word) (p : FaultPlace) (s : State)
  | wait (w : PageWait) (s : State)

/-- The translation of `n` bytes from a virtual address that lie in one page (08 R195); one that waits for room in the dirty log or in the
L2 waits without a request (12 R277, R280, 17 R381). -/
def xlatPiece (s : State) (t : Tid) (va : Word) (k : Kind) : ElemX :=
  let room := roomWait va k
  match translate s (s.pcoreNum t) (s.vfOf t) va k false with
  | (.ok x, s) => if l2Room s (s.vfOf t) x.pa then .ok [(x, 1)] s else .wait room (noRoom s (s.vfOf t) x.pa)
  | (.fail c p, s) => .fail c va p s
  | (.miss m, s) => let (w, s) := raiseMiss s (s.vfOf t) va k m; .wait w s
  | (.logFull, s) => .wait room s

/-- The translation of an element's `n` bytes, over two pages when it straddles them (08 R195). -/
def xlatElem (s : State) (t : Tid) (va : Word) (n : Nat) (k : Kind) : ElemX :=
  let last := va + BitVec.ofNat 64 (n - 1)
  match xlatPiece s t va k with
  | .ok [(x, _)] s =>
    if va.toNat / 4096 == last.toNat / 4096 then .ok [(x, n)] s
    else
      let n1 := 4096 - va.toNat % 4096
      match xlatPiece s t (va + BitVec.ofNat 64 n1) k with
      | .ok [(y, _)] s => .ok [(x, n1), (y, n - n1)] s
      | r => r
  | r => r

/-- The bytes of an element's pieces, after those of its wick's earlier vector accesses that it must follow; and the L2's use of their
sectors (08 R205, 12 R274, 14 R312 case 2). -/
def readPieces (s : State) (t : Tid) : List (Xlat × Nat) → List Byte × State
  | [] => ([], s)
  | (x, n) :: ps =>
    let s := flushBefore s t (vectorAt x.pa n)
    let bs := memBytes s.mem x.pa n
    let s := l2Touch s (s.vfOf t) x.pa .read x.cmp none
    let (cs, s) := readPieces s t ps
    (bs ++ cs, s)

/-- The bytes of a store's element with the bits that it writes: `m` bits from bit `sh` of the first byte (08 R202). -/
def storeBytes (pcs : List (Xlat × Nat)) (sh m v : Nat) : List PendByte :=
  let mask := (2 ^ m - 1) * 2 ^ sh
  let val := v % 2 ^ m * 2 ^ sh
  let pas := pcs.flatMap fun (x, n) => natsFrom x.pa n
  (pas.zip (natsFrom 0 pas.length)).map fun (pa, k) =>
    { pa := pa, mask := BitVec.ofNat 8 (mask / 2 ^ (8 * k)), val := BitVec.ofNat 8 (val / 2 ^ (8 * k)) }

/-- A vector store's element as it joins the queue. -/
def storePend (pcs : List (Xlat × Nat)) (sh m v : Nat) : PendAccess :=
  { vector := true, bytes := storeBytes pcs sh m v, watched := pcs.any (·.1.wch), cmp := pcs.any (·.1.cmp), clears := [] }

/-- The pieces of an element with the address of each one's first byte. -/
def pieceVas (va : Word) : List (Xlat × Nat) → List (Word × Xlat × Nat)
  | [] => []
  | (x, n) :: ps => (va, x, n) :: pieceVas (va + BitVec.ofNat 64 n) ps

/-- A byte of host memory in a packed store that the store's active elements cover in part: the first such address (08 R209). -/
def hostPartial (cover : Nat → Byte) (va : Word) (pcs : List (Xlat × Nat)) : Option Word :=
  ((pieceVas va pcs).flatMap fun (a, x, n) => if isHost x.pa then (natsFrom 0 n).map fun k => a + BitVec.ofNat 64 k else []).find?
    fun a => cover a.toNat != 0xFF

/-- A vector load's element as its thread's queue holds it until it is performed (14 R312; log 3). -/
def elemPend (pcs : List (Xlat × Nat)) (x : LateElem) : PendAccess :=
  { vector := true, watched := false, cmp := pcs.any (·.1.cmp), clears := [], load := some (.v x)
    bytes := (pcs.flatMap fun (x, n) => natsFrom x.pa n).map fun a => { pa := a, mask := 0xFF, val := 0 } }

/-- What one access of a vector memory form comes to (08 R195): misaligned, translation, host refusal (R209), poison, race; then for a load
its value, which `late` leaves to be read later, for a store its queued bytes. A trap at a byte of one page names the element's first
byte in that page. -/
def accessElem (s : State) (t : Tid) (load late : Bool) (a m : Nat) (cover : Nat → Byte) (x : LateElem) (val : Flagged) : Slot × State :=
  let va : Word := BitVec.ofNat 64 (a / 8)
  let n := (a % 8 + m + 7) / 8
  if m ≥ 16 && a / 8 % (m / 8) != 0 then (.failed .misaligned va none, s)
  else match xlatElem s t va n (if load then .read else .write) with
  | .fail c fa p s => (.failed c fa (some p), s)
  | .wait w s => (.pending w, s)
  | .ok pcs s =>
    match if load then (pieceVas va pcs).find? (fun (_, x, n) => (natsFrom x.pa n).any (hostRefuses s)) else none with
    | some (pv, x, _) => (.failed .protection pv (some { ipa := x.ipa, place := 0 }), s)
    | none =>
    match if load then (pieceVas va pcs).find? (fun (_, x, n) => poisonedRange s x.pa n) else none with
    | some (pv, _) => (.failed .poison pv none, s)
    | none =>
    if pcs.any (fun (x, n) => raceRange s t x n) then (.failed .race va none, s)
    else if load then
      if late && !pcs.any (fun (x, _) => isHost x.pa) then (.done 0 0 (some (elemPend pcs { x with shift := a % 8, bits := m })), s)
      else
        let (bs, s) := readPieces s t pcs
        let (v, fl) := { x with shift := a % 8, bits := m }.value (leNat bs)
        (.done v fl none, s)
    else match hostPartial cover va pcs with
      | some b => (.failed .protection b none, s)
      | none => (.done val.1 val.2 (some (storePend pcs (a % 8) m val.1)), s)

/-- One access of a form in order: its key (twice the field's index, plus one; an MX scale goes before its block's first element), and
the attempt to make it, given the slots before it. -/
structure VecItem where
  key : Nat
  run : State → List (Nat × Slot) → Slot × State

/-- The accesses that are not done yet are tried in ascending order, up to the first that has failed. The result is in ascending
order. -/
def tryItems (old : Tab Slot) : List VecItem → State → List (Nat × Slot) → List (Nat × Slot) × State
  | [], s, acc => (acc.reverse, s)
  | i :: is, s, acc =>
    let (sl, s) := match tabGet? old i.key with
      | some sl => (sl, s)
      | none => i.run s acc
    match sl with
    | .failed .. => (((i.key, sl) :: acc).reverse, s)
    | _ => tryItems old is s ((i.key, sl) :: acc)

/-- Whether a slot waits. -/
def Slot.isPending : Slot → Bool
  | .pending _ => true
  | _ => false

/-- The first failure of a form, by key. -/
def firstFailure : List (Nat × Slot) → Option (Nat × Cause × Word × Option FaultPlace)
  | [] => none
  | (k, .failed c va p) :: _ => some (k, c, va, p)
  | _ :: t => firstFailure t

/-- The position of a key. -/
def keyPos (nf k : Nat) : Nat := k / 2 / nf

/-- The values that have been read at positions below `upto` go to their registers, with their flags (08 R196, R198). -/
def commitLoads (G : VecGeom) (vl w upto : Nat) : List (Nat × Slot) → Wick → Wick
  | [], W => W
  | (k, sl) :: t, W =>
    let p := keyPos G.nf k
    match sl with
    | .done v fl st =>
      if k % 2 == 0 || p ≥ upto || st.isSome then commitLoads G vl w upto t W
      else
        let reg := G.reg (k / 2 % G.nf) (p / vl)
        let e := p % vl
        let W := W.setReg reg (elemSet (W.reg reg) w e v) (w * (e + 1))
        commitLoads G vl w upto t { W with th := { W.th with fflags := W.th.fflags ||| fl } }
    | _ => commitLoads G vl w upto t W

/-- The accesses of positions below `upto` that are to be queued, each under the name of its element group, with their flags (08 R196,
R202). -/
def commitStores (nf upto : Nat) (grp : Nat → Option (Nat × Nat)) (l : List (Nat × Slot)) : List PendAccess × FlagSet :=
  l.foldr (fun (k, sl) (ps, fl) =>
    match sl with
    | .done _ f (some p) => if keyPos nf k < upto then ({ p with group := grp k } :: ps, fl ||| f) else (ps, fl)
    | _ => (ps, fl)) ([], 0)

/-- The name of the 64 B element group of a key in a wick's vector memory form: the form's number, and the field, row and group (05 R108,
18 R394). -/
def Wick.groupName (W : Wick) (nf k : Nat) : Option (Nat × Nat) :=
  let p := keyPos nf k
  some (W.flights, ((k / 2 % nf) * W.nrows + p / W.vln) * 128 + p % W.vln * W.esize / 512)

/-- The poisoned sectors that the stores of one instruction cover whole (12 R275). -/
def coveredPoison (poison : List Nat) (ps : List PendAccess) : List Nat :=
  poison.filter fun k => (natsFrom (k * 64) 64).all fun a =>
    ps.foldl (fun m p => p.bytes.foldl (fun m b => if b.pa == a then m ||| b.mask else m) m) 0 == 0xFF

/-- The stores of one instruction join the queue, the last of them clearing the poison that they cover whole. -/
def queueStores (s : State) (t : Tid) (ps : List PendAccess) : State :=
  let ps := match ps.getLast? with
    | some l => ps.dropLast ++ [{ l with clears := coveredPoison s.poison ps }]
    | none => ps
  s.modThread t fun th => { th with pend := th.pend ++ ps }

/-- The bytes of each of a store's elements that no element after it in the store reaches: where two meet, the later one alone is ever
seen (08 R203). -/
def keepLast : List PendAccess → List PendAccess
  | [] => []
  | p :: ps =>
    let bs := p.bytes.filterMap fun b =>
      let m := ps.foldl (fun m q => q.bytes.foldl (fun m x => if x.pa == b.pa then m &&& ~~~x.mask else m) m) b.mask
      if m == 0 then none else some { b with mask := m }
    if bs.isEmpty then keepLast ps else { p with bytes := bs } :: keepLast ps

/-- The tails of a load's groups under ta = 1 (07 R157). -/
def zeroTails (groups : List (List Nat)) (w vl cap : Nat) (W : Wick) : Wick :=
  if W.ta && vl < cap then
    groups.foldl (fun W g => g.foldl (fun W reg => W.setReg reg (elemsZero (W.reg reg) w vl cap) 0) W) W
  else W

/-- Whether a failure lets VLDFF end without a trap: that of a translation, which a refusal of the host, whose record says 0 for where, is
not (08 R199, 09 R221). -/
def endsLoad (c : Cause) (p : Option FaultPlace) : Bool :=
  match c, p with
  | .stage1, some _ | .stage2, some _ => true
  | .protection, some f => f.place != 0
  | _, _ => false

/-- Whether a form under the wick's vtype draws from the generator: with every memory format but 0, be the conversion exact or not
(03 R79, 08 R198, R202; DEDUCED, log 19). -/
def vecDraws (W : Wick) (mf : Nat) : Bool := W.th.rm == 5 && mf != 0

/-- A queued element of an older load that a newer load writes, or zeroes as its tail, lands nowhere: the name has taken fresh rows (06 R141,
R142). -/
def PendAccess.shadow (written : Nat → Nat → Bool) (p : PendAccess) : PendAccess :=
  match p.load with
  | some (.v x) => if x.reg.any fun r => written r x.e then { p with load := some (.v { x with reg := none }) } else p
  | _ => p

/-- A wick whose load of some groups has issued: fresh rows for those that older loads are still to write, held until these are
performed (06 R141 to R143). -/
def Wick.rename (W : Wick) (groups : List (List Nat)) (written : Nat → Nat → Bool) : Wick :=
  let gs := W.renamed groups
  { W with
    renames := W.liveRenames ++ gs.map fun g =>
      { rows := groupRows W.split W.nrows, flights := (W.th.pend.filter (·.lands g)).filterMap (·.flight) |>.eraseDups }
    th := { W.th with pend := W.th.pend.map (·.shadow written) } }

/-- Whether a load's accesses at positions below `upto` write an element of a register, or its tails zero it (07 R157). -/
def VecGeom.writes (G : VecGeom) (W : Wick) (upto : Nat) (tails : Bool) (l : List (Nat × Slot)) (reg e : Nat) : Bool :=
  (tails && W.ta && W.vln ≤ e && e < W.cap && G.groups.any (·.contains reg)) ||
  l.any fun (k, _) => k % 2 == 1 && keyPos G.nf k < upto && G.reg (k / 2 % G.nf) (keyPos G.nf k / W.vln) == reg && keyPos G.nf k % W.vln == e

/-- The commit of a form's accesses at positions below `upto`, on the wick `w` of thread `t`; `tails` is whether the form ends here. -/
def vecCommit (s : State) (t : Tid) (w : Fin 8) (G : VecGeom) (upto : Nat) (tails : Bool) (l : List (Nat × Slot)) : State :=
  let (ps, fl) := commitStores G.nf upto ((s.wick t.gang t.core w).groupName G.nf) l
  let left (s : State) : State := if ps.isEmpty then s else s.modWick t.gang t.core w fun W => { W with flights := W.flights + 1 }
  if G.load then
    let s := s.modWick t.gang t.core w fun W =>
      commitLoads G W.vln W.esize upto l (W.rename G.groups (G.writes W upto tails l))
    left (if ps.isEmpty then s else s.modWick t.gang t.core w fun W => { W with th := { W.th with pend := W.th.pend ++ ps } })
  else left (raiseFlags (queueStores s t (keepLast ps)) t fl)

/-- A wick whose vector memory form of `nf` fields has ended: vstart := 0, and rctr past every position where it draws (03 R79,
08 R198, R201). -/
def Wick.vecEnd (W : Wick) (nf mf : Nat) : Wick :=
  { W with
    vstart := 0
    th := { W.th with rctr := if vecDraws W mf then W.th.rctr + BitVec.ofNat 64 (nf * W.positions) else W.th.rctr } }

/-- A form ends: at `upto` its tails, vstart := 0 and rctr (08 R198, R201, R202). -/
def vecComplete (s : State) (t : Tid) (w : Fin 8) (G : VecGeom) (upto : Nat) (l : List (Nat × Slot)) : State :=
  let s := vecCommit s t w G upto true l
  let s := s.modWick t.gang t.core w fun W =>
    (if G.load then zeroTails G.groups W.esize W.vln W.cap W else W).vecEnd G.nf G.mf
  s.done t

/-- A form traps at position `p` (08 R196): the lower positions are committed, vstart is set, and a failed translation writes a fault
record. -/
def vecTrap (s : State) (t : Tid) (w : Fin 8) (G : VecGeom) (p : Nat) (c : Cause) (va : Word) (pl : Option FaultPlace)
    (l : List (Nat × Slot)) : State :=
  let s := vecCommit s t w G p false l
  let s := s.modWick t.gang t.core w fun W => { W with vstart := BitVec.ofNat 18 p }
  match pl with
  | some f => trapXlat s t c va (if G.load then .read else .write) f
  | none => trap s t c va

/-- A form whose accesses wait is kept with what it has done. -/
def vecWait (s : State) (t : Tid) (w : Fin 8) (i : Instr) (l : List (Nat × Slot)) : State :=
  (s.modWick t.gang t.core w fun W => { W with vmem := some { instr := i, slots := l } }).setWait t .vmem

/-- The run of a vector memory form, new or resumed (08 R198, R202, 09 R224, R225): it traps at its lowest failed position as soon as no
lower position waits. `ff` is VLDFF's mask register. -/
def vecRun (s : State) (t : Tid) (w : Fin 8) (i : Instr) (G : VecGeom) (items : List VecItem) (ff : Option (BitVec 3)) : State :=
  let W := s.wick t.gang t.core w
  let old := match W.vmem with | some v => v.slots | none => []
  let (l, s) := tryItems old items s []
  let n := W.positions
  match firstFailure l with
  | none => if l.any (·.2.isPending) then vecWait s t w i l else vecComplete s t w G n l
  | some (k, c, va, pl) =>
    let p := keyPos G.nf k
    if l.any fun (j, sl) => sl.isPending && keyPos G.nf j < p then vecWait s t w i l
    else match ff with
      | some m =>
        if endsLoad c pl && l.length ≥ 2 then
          let s := s.modWick t.gang t.core w fun W =>
            W.setMask m.toNat (tabGet 0 W.masks m.toNat &&& (BitVec.ofNat 32768 (2 ^ p - 1) ||| ~~~(BitVec.ofNat 32768 (2 ^ n - 1))))
          vecComplete s t w G p l
        else vecTrap s t w G p c va pl l
      | none => vecTrap s t w G p c va pl l

/-- The rounding mode of an access: a stochastic one draws at position × nf + field (03 R79, 08 R201). -/
def vecMode (W : Wick) (k : Nat) : Mode := laneMode W.th k

/-- The value of a loaded element without a scale (08 R198). -/
def loadValue (W : Wick) (mf k raw : Nat) : Flagged :=
  if mf == 0 then (raw, 0) else convert (mfmtFmt mf) (etFmt W.et) (vecMode W k) raw

/-- Field `f` of position `p` of a load as data: where its value goes and how it is made of what is read (08 R198, R201). -/
def lateElem (W : Wick) (G : VecGeom) (p f : Nat) (scale : Option Nat) : LateElem :=
  { flight := W.flights, reg := some (G.reg f (p / W.vln)), e := p % W.vln, w := W.esize, shift := 0, bits := G.m, mf := G.mf, et := W.et
    rm := W.th.rm, draw := if W.th.rm == 5 then laneDraw W.th (p * G.nf + f) else 0, scale := scale }

/-- The value of a stored element without a scale (08 R202). -/
def storeValue (W : Wick) (mf k v : Nat) : Flagged :=
  if mf == 0 then (v, 0) else convert (etFmt W.et) (mfmtFmt mf) (vecMode W k) v

/-- The active positions of a form. -/
def activeList (W : Wick) (act : Nat → Bool) : List Nat := (natsFrom 0 W.positions).filter act

/-- Which bits of each byte the active elements of a store write, by virtual byte address (08 R209). -/
def coverage (as : List Nat) (m : Nat) : Nat → Byte := fun b =>
  as.foldl (fun c a =>
    let lo := if a ≤ 8 * b then 0 else a - 8 * b
    let hi := if a + m ≤ 8 * b then 0 else min 8 (a + m - 8 * b)
    if lo < hi then c ||| BitVec.ofNat 8 (2 ^ hi - 2 ^ lo) else c) 0

/-- The accesses of a form without MX scales: its fields in order at each active position. -/
def plainItems (t : Tid) (W : Wick) (G : VecGeom) (late : Bool) : List VecItem :=
  let vl := W.vln
  let ps := activeList W G.act
  let keys := ps.flatMap fun p => (natsFrom 0 G.nf).map fun f => (p, f)
  let src := G.groups.map fun g => readGroup W g W.esize
  let cover := coverage (keys.map fun (p, f) => G.bitAddr (p / vl) (p % vl) f) G.m
  let cov (b : Nat) : Byte := if G.m % 8 == 0 then 0xFF else cover b
  keys.map fun (p, f) =>
    { key := 2 * (p * G.nf + f) + 1
      run := fun s _ =>
        let k := p * G.nf + f
        let v := if G.load then (0, 0) else storeValue W G.mf k (((src[f]?).getD fun _ _ => 0) (p / vl) (p % vl))
        accessElem s t G.load late (G.bitAddr (p / vl) (p % vl) f) G.m cov (lateElem W G p f none) v }

/-- The block of an MX element: 32 elements of a row (03 R66). -/
def blockOf (vl p : Nat) : Nat × Nat := (p / vl, p % vl / 32)

/-- The scale that the accesses before an element have read for its block. -/
def scaleOf (acc : List (Nat × Slot)) (vl : Nat) (b : Nat × Nat) : Nat :=
  match acc.find? fun (k, _) => k % 2 == 0 && blockOf vl (k / 2) == b with
  | some (_, .done v _ _) => v
  | _ => 0

/-- Whether the scale that an element needs is still waited for. -/
def scaleWait (acc : List (Nat × Slot)) (vl : Nat) (b : Nat × Nat) : Option PageWait :=
  match acc.find? fun (k, _) => k % 2 == 0 && blockOf vl (k / 2) == b with
  | some (_, .pending w) => some w
  | _ => none

/-- The accesses of an MX load or store: each block's scale before its first active element (03 R66, 08 R195, R198, R202). -/
def mxItems (t : Tid) (W : Wick) (G : VecGeom) (scaleBase : Word) (late : Bool) : List VecItem :=
  let vl := W.vln
  let w := W.esize
  let ps := activeList W G.act
  let src := readGroup W (G.groups.getD 0 []) w
  let val (p : Nat) : FVal := decodeFloat (floatOf W.et) (src (p / vl) (p % vl))
  let scaleAt (p : Nat) : Nat := 8 * ((scaleBase + BitVec.ofNat 64 (p / vl * ((vl + 31) / 32) + p % vl / 32)).toNat)
  let blockScale (b : Nat × Nat) : Nat := mxScale G.mf ((ps.filter fun q => blockOf vl q == b).map val)
  let cover := coverage (ps.map fun p => G.bitAddr (p / vl) (p % vl) 0) G.m
  let cov (b : Nat) : Byte := if G.m % 8 == 0 then 0xFF else cover b
  let firsts := ps.filter fun p => !ps.any fun q => q < p && blockOf vl q == blockOf vl p
  ps.flatMap fun p =>
    let elem : VecItem :=
      { key := 2 * p + 1
        run := fun s acc =>
          let b := blockOf vl p
          match scaleWait acc vl b with
          | some pw => (.pending pw, s)
          | none =>
            let v := if G.load then (0, 0) else mxElement G.mf (blockScale b) (vecMode W p) (val p)
            accessElem s t G.load late (G.bitAddr (p / vl) (p % vl) 0) G.m cov (lateElem W G p 0 (some (scaleOf acc vl b))) v }
    if firsts.contains p then
      [{ key := 2 * p
         run := fun s _ =>
           accessElem s t G.load false (scaleAt p) 8 (fun _ => 0xFF) { lateElem W G p 0 none with mf := 0 } (blockScale (blockOf vl p), 0) },
       elem]
    else [elem]

/-- The accesses of a form, in order. -/
def formItems (t : Tid) (W : Wick) (G : VecGeom) (late : Bool) : List VecItem :=
  match G.mx with
  | some b => mxItems t W G b late
  | none => plainItems t W G late

/-- Whether an access has been made, or translated to be made later. -/
def Slot.isDone : Slot → Bool
  | .done .. => true
  | _ => false

/-- A vector memory form after its operand checks (08 R198): nothing to do for an empty sweep, else its run. A load all of whose elements
translate may be left to be performed later (14 R312, 23 R435; log 3). -/
def vecGo (s : State) (t : Tid) (w : Fin 8) (i : Instr) (G : VecGeom) (ff : Option (BitVec 3)) : State :=
  let W := s.wick t.gang t.core w
  if W.emptySweep then (s.modWick t.gang t.core w fun W => W.vecEnd G.nf G.mf).done t
  else
    let now := vecRun s t w i G (formItems t W G false) ff
    if s.late && G.load && ff.isNone && W.vmem.isNone then
      let (l, s) := tryItems [] (formItems t W G true) s []
      if l.all (·.2.isDone) then vecComplete s t w G W.positions l else now
    else now

/-- The operand checks of a unit-stride, strided or indexed form (08 R194), and its geometry; none when check 1, 2 or 3 fails. `idx` is
the index group's field. -/
def vecGeom (s : State) (w : Fin 8) (load : Bool) (d b : Reg) (mf : Reg) (m : BitVec 3) (mx : Option Word) (small : Bool) (idx : Option Reg)
    (addr : Wick → (Nat → Nat → Nat) → Nat → Nat → Nat → Int) : Option (VecGeom × List Nat) :=
  let W := s.curWick w
  let bits := memBits W mf
  let vi : Option (List Nat) := match idx with | some f => W.group? f | none => some []
  if vecIllegal W mf || (!small && bits < 8) || (mx.isNone && isMx mf) || (idx.isSome && W.vln > W.cap32) || !W.maskFits m then none
  else match W.group? d, vi with
    | some g, some v =>
      some ({ load := load, m := bits, mf := mf.toNat, nf := 1, groups := [g], base := vbase s W b
              addr := fun r e f => addr W (readGroup W v 32) r e f, act := W.active m, mx := if isMx mf then mx else none }, v)
    | _, _ => none

/-- A form whose geometry the checks have given: the overlap check of a load, then its run (08 R194 check 4). -/
def vecStart (s : State) (w : Fin 8) (i : Instr) (ff : Option (BitVec 3)) (o : Option (VecGeom × List Nat)) :
    Host.Outcome State Fault Refusal :=
  match o with
  | none => trapNext s s.cur .illegal (wordOf i)
  | some (G, vi) =>
    if G.load && G.groups.any fun g => g.any vi.contains then trapNext s s.cur .groupOverlap (wordOf i)
    else .next (vecGo s s.cur w i G ff)

/-- Unit stride (08 R192). -/
def unitAddr (b : Reg) (m : Nat) (W : Wick) (_ : Nat → Nat → Nat) (r e _f : Nat) : Int :=
  rowTerm W b r (r * W.vln * m) + e * m
/-- Strided by `st` bytes (08 R192). -/
def strideAddr (b : Reg) (st : Int) (W : Wick) (_ : Nat → Nat → Nat) (r e _f : Nat) : Int :=
  rowTerm W b r (8 * (r * W.vln * st)) + 8 * (e * st)
/-- Indexed (08 R192). -/
def indexAddr (b : Reg) (W : Wick) (idx : Nat → Nat → Nat) (r e _f : Nat) : Int := rowTerm W b r 0 + 8 * idx r e

/-- VLD (08 R198). -/
def execVld (d b f : Reg) (k : BitVec 3) (m : Reg) (s : State) : Host.Outcome State Fault Refusal :=
  forWick (.vld d b f k m) s fun w =>
    vecStart s w (.vld d b f k m) none
      (vecGeom s w true d b m k (some (s.getX s.cur f)) true none (unitAddr b (memBits (s.curWick w) m)))

/-- VLDS (08 R198). -/
def execVlds (d b f : Reg) (k : BitVec 3) (m : Reg) (s : State) : Host.Outcome State Fault Refusal :=
  forWick (.vlds d b f k m) s fun w =>
    vecStart s w (.vlds d b f k m) none (vecGeom s w true d b m k none false none (strideAddr b (s.getX s.cur f).toInt))

/-- VLDX (08 R198). -/
def execVldx (d b f : Reg) (k : BitVec 3) (m : Reg) (s : State) : Host.Outcome State Fault Refusal :=
  forWick (.vldx d b f k m) s fun w =>
    vecStart s w (.vldx d b f k m) none (vecGeom s w true d b m k none false (some f) (indexAddr b))

/-- VLDFF (08 R199). -/
def execVldff (d b : Reg) (k : BitVec 3) (m : Reg) (s : State) : Host.Outcome State Fault Refusal :=
  forWick (.vldff d b k m) s fun w =>
    if k == 0 then trapNext s s.cur .illegal (wordOf (.vldff d b k m))
    else vecStart s w (.vldff d b k m) (some k)
      (vecGeom s w true d b m k none true none (unitAddr b (memBits (s.curWick w) m)))

/-- VST (08 R202). -/
def execVst (d b f : Reg) (k : BitVec 3) (m : Reg) (s : State) : Host.Outcome State Fault Refusal :=
  forWick (.vst d b f k m) s fun w =>
    vecStart s w (.vst d b f k m) none
      (vecGeom s w false d b m k (some (s.getX s.cur f)) true none (unitAddr b (memBits (s.curWick w) m)))

/-- VSTS (08 R202). -/
def execVsts (d b f : Reg) (k : BitVec 3) (m : Reg) (s : State) : Host.Outcome State Fault Refusal :=
  forWick (.vsts d b f k m) s fun w =>
    vecStart s w (.vsts d b f k m) none (vecGeom s w false d b m k none false none (strideAddr b (s.getX s.cur f).toInt))

/-- VSTX (08 R202). -/
def execVstx (d b f : Reg) (k : BitVec 3) (m : Reg) (s : State) : Host.Outcome State Fault Refusal :=
  forWick (.vstx d b f k m) s fun w =>
    vecStart s w (.vstx d b f k m) none (vecGeom s w false d b m k none false (some f) (indexAddr b))

/-- The geometry of a segment form (08 R192, R194, R201). -/
def segGeom (s : State) (w : Fin 8) (load : Bool) (d b f : Reg) (n : BitVec 3) (mf : Reg) : Option (VecGeom × List Nat) :=
  let W := s.curWick w
  let nf := n.toNat + 1
  let bits := memBits W mf
  let perm := f != d
  let vi : Option (List Nat) := if perm then W.group? f else some []
  if n == 0 || vecIllegal W mf || bits < 8 || isMx mf || (perm && W.vln > W.cap32) then none
  else match W.groups? d nf, vi with
    | some g, some v =>
      let idx := readGroup W v 32
      let q (r e : Nat) : Nat := if perm then idx r e else e
      let groups := (natsFrom 0 nf).map fun j => (g.drop (j * W.nrows)).take W.nrows
      some ({ load := load, m := bits, mf := mf.toNat, nf := nf, groups := groups, base := vbase s W b
              addr := fun r e k => rowTerm W b r (r * W.vln * nf * bits) + (q r e * nf + k) * bits
              act := fun p => W.vstart.toNat ≤ p, mx := none }, v)
    | _, _ => none

/-- VLDSEG (08 R201). -/
def execVldseg (d b f : Reg) (n : BitVec 3) (m : Reg) (s : State) : Host.Outcome State Fault Refusal :=
  forWick (.vldseg d b f n m) s fun w => vecStart s w (.vldseg d b f n m) none (segGeom s w true d b f n m)

/-- VSTSEG (08 R201). -/
def execVstseg (d b f : Reg) (n : BitVec 3) (m : Reg) (s : State) : Host.Outcome State Fault Refusal :=
  forWick (.vstseg d b f n m) s fun w => vecStart s w (.vstseg d b f n m) none (segGeom s w false d b f n m)

/-- The bytes of an exported group as a reader finds them: a snapshot, or a landing window's own rows (16 R345, R349). -/
def windowRow (C : Core) (v : Window) (r : Nat) : BitVec 65536 :=
  if v.landing then (C.wicks[v.owner]).reg (v.first + r) else v.snap.getD r 0

/-- The lantern element that an index names, or none when it reads as zero (08 R200). -/
def lanternRead (s : State) (g : Nat) (ix m : Nat) : Option Nat :=
  let core := ix / 2 ^ 25
  let off := ix % 2 ^ 16
  let C := s.core g core
  let v := C.windows[fin8 (ix / 2 ^ 22)]
  if core > (s.gang g).desc.ncm1.toNat || !v.valid || ix / 2 ^ 16 % 64 != 0 || off + m / 8 > v.rows.toNat * v.rb.toNat then none
  else some (elemAt (windowRow C v (off / v.rb.toNat)) 8 (off % v.rb.toNat) +
    (natsFrom 1 (m / 8 - 1)).foldl (fun a k =>
      a + 2 ^ (8 * k) * elemAt (windowRow C v ((off + k) / v.rb.toNat)) 8 ((off + k) % v.rb.toNat)) 0)

/-- VLDX.P element by element: the index of a misaligned one ends it; an absent one reads zero and clears its mask bit (08 R200). -/
def lanternSweep (s : State) (g : Nat) (W0 : Wick) (regs : List Nat) (idx : Nat → Nat → Nat) (mf m k : Nat) :
    List Nat → Wick → Wick × Option (Nat × Nat)
  | [], W => (W, none)
  | p :: ps, W =>
    let r := p / W0.vln
    let e := p % W0.vln
    let ix := idx r e
    if ix % 2 ^ 16 % (m / 8) != 0 then (W, some (p, ix))
    else
      let reg := regs.getD r 0
      let w := W0.esize
      let put (v : Nat) (fl : FlagSet) (W : Wick) : Wick :=
        let W := W.setReg reg (elemSet (W.reg reg) w e v) (w * (e + 1))
        { W with th := { W.th with fflags := W.th.fflags ||| fl } }
      match lanternRead s g ix m with
      | some raw => let (v, fl) := loadValue W0 mf p raw; lanternSweep s g W0 regs idx mf m k ps (put v fl W)
      | none =>
        let W := put 0 0 W
        lanternSweep s g W0 regs idx mf m k ps (W.setMask k (setBit (tabGet 0 W.masks k) p false))

/-- VLDX.P (08 R200). -/
def execVldxP (d f : Reg) (k : BitVec 3) (m : Reg) (s : State) : Host.Outcome State Fault Refusal :=
  forWick (.vldxP d f k m) s fun w =>
    let t := s.cur
    let i := Instr.vldxP d f k m
    if k == 0 then trapNext s t .illegal (wordOf i)
    else match vecGeom s w true d 0 m k none false (some f) (indexAddr 0) with
    | none => trapNext s t .illegal (wordOf i)
    | some (G, vi) =>
      if G.groups.any fun g => g.any vi.contains then trapNext s t .groupOverlap (wordOf i)
      else
        let W := s.curWick w
        if W.emptySweep then wickDone s w (W.vecEnd 1 G.mf)
        else
          let regs := G.groups.getD 0 []
          match lanternSweep s t.gang W regs (readGroup W vi 32) G.mf G.m k.toNat (activeList W G.act) W with
          | (W', some (p, ix)) =>
            trapNext (s.modCur w fun _ => { W' with vstart := BitVec.ofNat 18 p }) t .misaligned (BitVec.ofNat 64 ix)
          | (W', none) => wickDone s w ((zeroTails G.groups W.esize W.vln W.cap W').vecEnd 1 G.mf)

/-- A prefetched line of the L2: its four sectors (08 R204, 12 R295). -/
def prefetchLine (s : State) (t : Tid) (x : Xlat) (sectors : Nat) : State :=
  (natsFrom 0 sectors).foldl (fun s k => l2Touch s (s.vfOf t) (x.pa + 64 * k) .read x.cmp (some (t.gang, t.core))) s

/-- One line of a prefetch, translated under kind prefetch: requested, or dropped and counted (08 R204, 09 R229). A line that the L2 holds
counts as present whichever of its sectors are valid (DEDUCED, log 17). -/
def prefetchOne (s : State) (t : Tid) (va : Word) (ifetch : Bool) : State :=
  match translate s (s.pcoreNum t) (s.vfOf t) va .prefetch ifetch with
  | (.ok x, s) =>
    let s := s.modCore t.gang t.core fun C => { C with pfissued := C.pfissued + 1 }
    if ifetch then
      let p := s.pcoreNum t
      if (s.pcoreOf p).icache.any (·.line == x.pa / 64) then s
      else icacheFill (prefetchLine s t x 1) p (x.pa / 64)
    else if l2Present s x.pa then s else prefetchLine s t x 4
  | (_, s) => s.modCore t.gang t.core fun C => { C with pfdropped := C.pfdropped + 1 }

/-- The lines of a prefetch from an address on. -/
def prefetchLines (t : Tid) (ifetch : Bool) (size : Nat) : Nat → Word → State → State
  | 0, _, s => s
  | n + 1, a, s => prefetchLines t ifetch size n (a + BitVec.ofNat 64 size) (prefetchOne s t a ifetch)

/-- PREF.D and PREF.I (08 R204): the lines that cover the bytes from the base, at most `most` of them. -/
def prefetch (s : State) (w : Fin 8) (b f : Reg) (ifetch : Bool) : Host.Outcome State Fault Refusal :=
  let t := s.cur
  let size := if ifetch then 64 else 256
  let ea := vbase s (s.curWick w) b
  let len := min (s.getX t f).toNat (if ifetch then 4096 else 65536)
  if len == 0 then moveOn s
  else
    let lo := ea.toNat / size
    let n := (ea.toNat + len - 1) / size - lo + 1
    moveOn (prefetchLines t ifetch size n (BitVec.ofNat 64 (lo * size)) s)

/-- PREF.D (08 R204). -/
def execPrefD (b f : Reg) (s : State) : Host.Outcome State Fault Refusal := forWick (.prefD b f) s fun w => prefetch s w b f false
/-- PREF.I (08 R204). -/
def execPrefI (b f : Reg) (s : State) : Host.Outcome State Fault Refusal := forWick (.prefI b f) s fun w => prefetch s w b f true

/-- What an answer does to the accesses of a waiting form: those that `sel` picks are tried again, or have failed (09 R223, R224). -/
def answerSlots (sel : PageWait → Bool) (refuse : Bool) (l : Tab Slot) : Tab Slot :=
  l.filterMap fun (k, sl) =>
    match sl with
    | .pending w => if sel w then (if refuse then some (k, .failed .stage2 w.va (some w.miss.place)) else none) else some (k, sl)
    | _ => some (k, sl)

/-- A wick's waiting vector memory form goes on: it executes again, with what it has already done. -/
def vecGeomOf (s : State) (w : Fin 8) : Instr → Option (VecGeom × Option (BitVec 3))
  | .vld d b f k m =>
    (vecGeom s w true d b m k (some (s.getX s.cur f)) true none (unitAddr b (memBits (s.curWick w) m))).map fun o => (o.1, none)
  | .vlds d b f k m => (vecGeom s w true d b m k none false none (strideAddr b (s.getX s.cur f).toInt)).map fun o => (o.1, none)
  | .vldx d b f k m => (vecGeom s w true d b m k none false (some f) (indexAddr b)).map fun o => (o.1, none)
  | .vldff d b k m =>
    (vecGeom s w true d b m k none true none (unitAddr b (memBits (s.curWick w) m))).map fun o => (o.1, some k)
  | .vst d b f k m =>
    (vecGeom s w false d b m k (some (s.getX s.cur f)) true none (unitAddr b (memBits (s.curWick w) m))).map fun o => (o.1, none)
  | .vsts d b f k m => (vecGeom s w false d b m k none false none (strideAddr b (s.getX s.cur f).toInt)).map fun o => (o.1, none)
  | .vstx d b f k m => (vecGeom s w false d b m k none false (some f) (indexAddr b)).map fun o => (o.1, none)
  | .vldseg d b f n m => (segGeom s w true d b f n m).map fun o => (o.1, none)
  | .vstseg d b f n m => (segGeom s w false d b f n m).map fun o => (o.1, none)
  | _ => none

/-- The accesses of a waiting vector memory form that may go on are made; it ends when it can (09 R224, R225). -/
def vecResume (s : State) (t : Tid) : State :=
  match t.who with
  | .taper => s
  | .wick w =>
    match (s.wick t.gang t.core w).vmem with
    | none => s
    | some v =>
      let s1 := { s with cur := t }
      match vecGeomOf s1 w v.instr with
      | none => s
      | some (G, ff) => { vecGo s1 t w v.instr G ff with cur := s.cur }

/-- The accesses of a waiting vector memory form that `sel` picks are tried again, or have failed (09 R223 to R225). -/
def answerVmem (s : State) (t : Tid) (sel : PageWait → Bool) (refuse : Bool) : State :=
  match t.who with
  | .taper => s
  | .wick w =>
    match (s.wick t.gang t.core w).vmem with
    | some v =>
      let slots := answerSlots sel refuse v.slots
      if slots == v.slots then s
      else vecResume (s.modWick t.gang t.core w fun W => { W with vmem := some { v with slots := slots } }) t
    | none => s

/-- The lowest active position of a waiting form that is not done, by key (08 R197). -/
def firstUndone (t : Tid) (W : Wick) (G : VecGeom) (l : Tab Slot) : Option Nat :=
  ((formItems t W G false).find? fun i => !(tabGet? l i.key).any Slot.isDone).map (·.key)

/-- A waiting vector memory form is stopped for a pre-emption (08 R197): as though it had faulted at its lowest active position not yet
done. -/
def vecAbandon (s : State) (t : Tid) (w : Fin 8) : State :=
  match (s.wick t.gang t.core w).vmem with
  | none => s
  | some v =>
    let s1 := { s with cur := t }
    match vecGeomOf s1 w v.instr with
    | none => s.modWick t.gang t.core w fun W => { W with vmem := none }
    | some (G, _) =>
      match firstUndone t (s.wick t.gang t.core w) G v.slots with
      | some k =>
        let s := vecCommit s t w G (keyPos G.nf k) false v.slots
        s.modWick t.gang t.core w fun W => { W with vstart := BitVec.ofNat 18 (keyPos G.nf k), vmem := none }
      | none => s.modWick t.gang t.core w fun W => { W with vmem := none }

end Sys2Proof.Machine
end

