-- ==== Sys2Proof/Machine/VecInt.lean ====
section
/-! DEFINITION. The integer lane forms: VINT (07 R161 to R164) and VWIDE (07 R165 to R168). -/

namespace Sys2Proof.Machine

/-- Operand b of a lane form: a vector group, or a scalar narrowed to the element (07 R155). -/
def vecB (s : State) (W : Wick) (b : Reg) (k : BitVec 1) : Option (Nat → Nat → Nat) :=
  if k == 1 then
    let v := (s.getX s.cur b).toNat % 2 ^ W.esize
    some fun _ _ => v
  else (W.group? b).map fun g => readGroup W g W.esize

/-- A lane form with destination d and operands a and b (07 R157, R160): the operand checks, then the sweep, in which `f` is given the
position, a, b and the old destination element. -/
def laneForm (s : State) (i : Instr) (d a : Reg) (m : BitVec 3) (b : Wick → Option (Nat → Nat → Nat)) (ok : Nat → Bool) (draws : Bool)
    (f : Wick → Nat → Nat → Nat → Nat → Flagged) : Host.Outcome State Fault Refusal :=
  forWick i s fun w =>
    let W := s.curWick w
    let e := W.esize
    match W.group? d, W.group? a, b W with
    | some gd, some ga, some vb =>
      if !ok W.et || !W.maskFits m then trapNext s s.cur .illegal (wordOf i)
      else
        let draws := draws && W.th.rm == 5
        if W.emptySweep then wickDone s w (W.swept 0 draws)
        else
          let ra := readGroup W ga e
          let rd := readGroup W gd e
          let (W', fl) := laneSweep W gd e (W.active m) fun r c => some (f W (r * W.vln + c) (ra r c) (vb r c) (rd r c))
          wickDone s w (W'.swept fl draws)
    | _, _, _ => trapNext s s.cur .illegal (wordOf i)

/-- An integer form of two operands (07 R161): `f` is given the width, a, b and c. -/
def intForm (s : State) (i : Instr) (d a b : Reg) (m : BitVec 3) (k : BitVec 1) (f : Nat → Nat → Nat → Nat → Flagged) :
    Host.Outcome State Fault Refusal :=
  laneForm s i d a m (fun W => vecB s W b k) isIntEt false fun W _ x y c => f W.esize x y c

/-- A result modulo 2^w without flags. -/
abbrev wrapped (w : Nat) (v : Int) : Flagged := (wrapTo w v, 0)
/-- The range of a signed element. -/
abbrev satS (w : Nat) (v : Int) : Flagged := let (r, f) := saturate (-(2 ^ (w - 1))) (2 ^ (w - 1) - 1) v; (wrapTo w r, f)
/-- The range of an unsigned element. -/
abbrev satU (w : Nat) (v : Int) : Flagged := let (r, f) := saturate 0 (2 ^ w - 1) v; (wrapTo w r, f)

/-- The signed quotient of width w, saturating instead of trapping (07 R161). -/
def quotS (w : Nat) (a b : Int) : Int :=
  if b == 0 then (if a ≥ 0 then 2 ^ (w - 1) - 1 else -(2 ^ (w - 1)))
  else if a == -(2 ^ (w - 1)) && b == -1 then 2 ^ (w - 1) - 1
  else a.tdiv b
/-- The remainder with the sign of a (07 R161). -/
def modS (a b : Int) : Int := if b == 0 then a else a.tmod b

/-- VADD (07 R161): a + b. -/
def execVadd (d a b : Reg) (m : BitVec 3) (k : BitVec 1) (s : State) : Host.Outcome State Fault Refusal :=
  intForm s (.vadd d a b m k) d a b m k fun w x y _ => wrapped w (x + y)

/-- VSUB (07 R161): a - b. -/
def execVsub (d a b : Reg) (m : BitVec 3) (k : BitVec 1) (s : State) : Host.Outcome State Fault Refusal :=
  intForm s (.vsub d a b m k) d a b m k fun w x y _ => wrapped w ((x : Int) - y)

/-- VRSUB (07 R161): b - a. -/
def execVrsub (d a b : Reg) (m : BitVec 3) (k : BitVec 1) (s : State) : Host.Outcome State Fault Refusal :=
  intForm s (.vrsub d a b m k) d a b m k fun w x y _ => wrapped w ((y : Int) - x)

/-- VMUL (07 R161): low w bits of a × b. -/
def execVmul (d a b : Reg) (m : BitVec 3) (k : BitVec 1) (s : State) : Host.Outcome State Fault Refusal :=
  intForm s (.vmul d a b m k) d a b m k fun w x y _ => wrapped w (x * y)

/-- VMULH (07 R161): high w bits of the signed product. -/
def execVmulh (d a b : Reg) (m : BitVec 3) (k : BitVec 1) (s : State) : Host.Outcome State Fault Refusal :=
  intForm s (.vmulh d a b m k) d a b m k fun w x y _ => wrapped w (toSigned w x * toSigned w y / 2 ^ w)

/-- VMULHU (07 R161): high w bits of the unsigned product. -/
def execVmulhu (d a b : Reg) (m : BitVec 3) (k : BitVec 1) (s : State) : Host.Outcome State Fault Refusal :=
  intForm s (.vmulhu d a b m k) d a b m k fun w x y _ => wrapped w ((x * y / 2 ^ w : Nat))

/-- VDIV (07 R161): signed quotient. -/
def execVdiv (d a b : Reg) (m : BitVec 3) (k : BitVec 1) (s : State) : Host.Outcome State Fault Refusal :=
  intForm s (.vdiv d a b m k) d a b m k fun w x y _ => wrapped w (quotS w (toSigned w x) (toSigned w y))

/-- VREM (07 R161): signed remainder. -/
def execVrem (d a b : Reg) (m : BitVec 3) (k : BitVec 1) (s : State) : Host.Outcome State Fault Refusal :=
  intForm s (.vrem d a b m k) d a b m k fun w x y _ => wrapped w (modS (toSigned w x) (toSigned w y))

/-- VMIN (07 R161): signed minimum. -/
def execVmin (d a b : Reg) (m : BitVec 3) (k : BitVec 1) (s : State) : Host.Outcome State Fault Refusal :=
  intForm s (.vmin d a b m k) d a b m k fun w x y _ => wrapped w (min (toSigned w x) (toSigned w y))

/-- VMAX (07 R161): signed maximum. -/
def execVmax (d a b : Reg) (m : BitVec 3) (k : BitVec 1) (s : State) : Host.Outcome State Fault Refusal :=
  intForm s (.vmax d a b m k) d a b m k fun w x y _ => wrapped w (max (toSigned w x) (toSigned w y))

/-- VMINU (07 R161): unsigned minimum. -/
def execVminu (d a b : Reg) (m : BitVec 3) (k : BitVec 1) (s : State) : Host.Outcome State Fault Refusal :=
  intForm s (.vminu d a b m k) d a b m k fun _ x y _ => (min x y, 0)

/-- VMAXU (07 R161): unsigned maximum. -/
def execVmaxu (d a b : Reg) (m : BitVec 3) (k : BitVec 1) (s : State) : Host.Outcome State Fault Refusal :=
  intForm s (.vmaxu d a b m k) d a b m k fun _ x y _ => (max x y, 0)

/-- VSLL (07 R161): shift left by b mod w. -/
def execVsll (d a b : Reg) (m : BitVec 3) (k : BitVec 1) (s : State) : Host.Outcome State Fault Refusal :=
  intForm s (.vsll d a b m k) d a b m k fun w x y _ => wrapped w (x * 2 ^ (y % w))

/-- VSRL (07 R161): logical shift right by b mod w. -/
def execVsrl (d a b : Reg) (m : BitVec 3) (k : BitVec 1) (s : State) : Host.Outcome State Fault Refusal :=
  intForm s (.vsrl d a b m k) d a b m k fun w x y _ => (x / 2 ^ (y % w), 0)

/-- VSRA (07 R161): arithmetic shift right by b mod w. -/
def execVsra (d a b : Reg) (m : BitVec 3) (k : BitVec 1) (s : State) : Host.Outcome State Fault Refusal :=
  intForm s (.vsra d a b m k) d a b m k fun w x y _ => wrapped w (toSigned w x / 2 ^ (y % w))

/-- VSADD (07 R161): signed a + b, saturated. -/
def execVsadd (d a b : Reg) (m : BitVec 3) (k : BitVec 1) (s : State) : Host.Outcome State Fault Refusal :=
  intForm s (.vsadd d a b m k) d a b m k fun w x y _ => satS w (toSigned w x + toSigned w y)

/-- VSSUB (07 R161): signed a - b, saturated. -/
def execVssub (d a b : Reg) (m : BitVec 3) (k : BitVec 1) (s : State) : Host.Outcome State Fault Refusal :=
  intForm s (.vssub d a b m k) d a b m k fun w x y _ => satS w (toSigned w x - toSigned w y)

/-- VSADDU (07 R161): unsigned a + b, saturated. -/
def execVsaddu (d a b : Reg) (m : BitVec 3) (k : BitVec 1) (s : State) : Host.Outcome State Fault Refusal :=
  intForm s (.vsaddu d a b m k) d a b m k fun w x y _ => satU w (x + y)

/-- VSSUBU (07 R161): unsigned a - b, saturated. -/
def execVssubu (d a b : Reg) (m : BitVec 3) (k : BitVec 1) (s : State) : Host.Outcome State Fault Refusal :=
  intForm s (.vssubu d a b m k) d a b m k fun w x y _ => satU w ((x : Int) - y)

/-- VMACC (07 R161): c + a × b. -/
def execVmacc (d a b : Reg) (m : BitVec 3) (k : BitVec 1) (s : State) : Host.Outcome State Fault Refusal :=
  intForm s (.vmacc d a b m k) d a b m k fun w x y c => wrapped w (c + x * y)

/-- VNMSAC (07 R161): c - a × b. -/
def execVnmsac (d a b : Reg) (m : BitVec 3) (k : BitVec 1) (s : State) : Host.Outcome State Fault Refusal :=
  intForm s (.vnmsac d a b m k) d a b m k fun w x y c => wrapped w ((c : Int) - x * y)

/-- A bitwise form: any element type, bits copied without flags (07 R161, R162). -/
def bitForm (s : State) (i : Instr) (d a b : Reg) (m : BitVec 3) (k : BitVec 1) (f : Nat → Nat → Nat) :
    Host.Outcome State Fault Refusal :=
  laneForm s i d a m (fun W => vecB s W b k) (fun _ => true) false fun _ _ x y _ => (f x y, 0)

/-- VAND (07 R161): bitwise AND. -/
def execVand (d a b : Reg) (m : BitVec 3) (k : BitVec 1) (s : State) : Host.Outcome State Fault Refusal :=
  bitForm s (.vand d a b m k) d a b m k fun x y => x &&& y

/-- VOR (07 R161): bitwise OR. -/
def execVor (d a b : Reg) (m : BitVec 3) (k : BitVec 1) (s : State) : Host.Outcome State Fault Refusal :=
  bitForm s (.vor d a b m k) d a b m k fun x y => x ||| y

/-- VXOR (07 R161): bitwise XOR. -/
def execVxor (d a b : Reg) (m : BitVec 3) (k : BitVec 1) (s : State) : Host.Outcome State Fault Refusal :=
  bitForm s (.vxor d a b m k) d a b m k fun x y => x ^^^ y

/-- VMV (07 R161, R162): b. -/
def execVmv (d b : Reg) (m : BitVec 3) (k : BitVec 1) (s : State) : Host.Outcome State Fault Refusal :=
  bitForm s (.vmv d b m k) d d b m k fun _ y => y

/-- VMERGE (07 R163): b where the mask bit is 1, else a; the mask governs no activity. -/
def execVmerge (d a b : Reg) (m : BitVec 3) (k : BitVec 1) (s : State) : Host.Outcome State Fault Refusal :=
  let i := Instr.vmerge d a b m k
  forWick i s fun w =>
    let W := s.curWick w
    let e := W.esize
    match W.group? d, W.group? a, vecB s W b k with
    | some gd, some ga, some vb =>
      if m == 0 || !W.maskFits m then trapNext s s.cur .illegal (wordOf i)
      else if W.emptySweep then wickDone s w (W.swept 0 false)
      else
        let ra := readGroup W ga e
        let sel := W.mask m.toNat
        let (W', fl) := laneSweep W gd e (W.active 0) fun r c =>
          some (if sel.getLsbD (r * W.vln + c) then vb r c else ra r c, 0)
        wickDone s w (W'.swept fl false)
    | _, _, _ => trapNext s s.cur .illegal (wordOf i)

/-- A field that names a mask register m1 to m7 (07 R160). -/
abbrev isMaskReg (r : Reg) : Bool := 1 ≤ r.toNat && r.toNat ≤ 7

/-- The bits of a mask at some positions replaced by what `f` says, with the flags that it raises (07 R164). -/
def maskBits (f : Nat → Bool × FlagSet) : List Nat → BitVec 32768 → FlagSet → BitVec 32768 × FlagSet
  | [], v, fl => (v, fl)
  | p :: ps, v, fl => let (b, g) := f p; maskBits f ps (setBit v p b) (fl ||| g)

/-- A compare form that writes mask register md at active positions (07 R164, R170). -/
def cmpForm (s : State) (i : Instr) (d a b : Reg) (m : BitVec 3) (k : BitVec 1) (ok : Nat → Bool)
    (f : Wick → Nat → Nat → Bool × FlagSet) : Host.Outcome State Fault Refusal :=
  forWick i s fun w =>
    let W := s.curWick w
    let e := W.esize
    match W.group? a, vecB s W b k with
    | some ga, some vb =>
      if !ok W.et || !isMaskReg d || W.positions > 32768 then trapNext s s.cur .illegal (wordOf i)
      else if W.emptySweep then wickDone s w (W.swept 0 false)
      else
        let ra := readGroup W ga e
        let vl := W.vln
        let (v, fl) := maskBits (fun p => f W (ra (p / vl) (p % vl)) (vb (p / vl) (p % vl))) (activeList W (W.active m))
          (tabGet 0 W.masks d.toNat) 0
        wickDone s w ((W.setMask d.toNat v).swept fl false)
    | _, _ => trapNext s s.cur .illegal (wordOf i)

/-- The conditions of VCMP (02 R42): EQ NE LT LTU LE LEU GT GTU. -/
def intCond (c : BitVec 3) (w x y : Nat) : Bool :=
  let a := toSigned w x
  let b := toSigned w y
  match c.toNat with
  | 0 => x == y | 1 => x != y | 2 => a < b | 3 => x < y | 4 => a ≤ b | 5 => x ≤ y | 6 => a > b | _ => x > y

/-- VCMP (07 R164). -/
def execVcmp (d a b : Reg) (m : BitVec 3) (k : BitVec 1) (c : BitVec 3) (s : State) : Host.Outcome State Fault Refusal :=
  cmpForm s (.vcmp d a b m k c) d a b m k isIntEt fun W x y => (intCond c W.esize x y, 0)

/-- An et that has a type of twice its width (07 R156). -/
abbrev isNarrowEt (et : Nat) : Bool := 1 ≤ et && et ≤ 4

/-- Whether two lists of registers share one. -/
def shares (a b : List Nat) : Bool := a.any b.contains

/-- A widening form (07 R165, R166, R168): operand b with the registers that it reads, and `f` given the narrow width, a, b and the old
wide element. -/
def wideOp (s : State) (i : Instr) (d a : Reg) (m : BitVec 3) (b : Wick → Option (List Nat × (Nat → Nat → Nat))) (ok : Nat → Bool)
    (f : Nat → Nat → Nat → Nat → Flagged) : Host.Outcome State Fault Refusal :=
  forWick i s fun w =>
    let W := s.curWick w
    let e := W.esize
    match W.wide? d, W.group? a, b W with
    | some gd, some ga, some (gb, vb) =>
      if !ok W.et || !W.maskFits m then trapNext s s.cur .illegal (wordOf i)
      else if shares gd ga || shares gd gb then trapNext s s.cur .groupOverlap (wordOf i)
      else if W.emptySweep then wickDone s w (W.swept 0 false)
      else
        let h := W.cap / 2
        let ra := readGroup W ga e
        let rd := readGroup W gd (2 * e)
        let act := W.active m
        let (W', fl) := wideRows (2 * e) W.vln h
          (fun r c => if act (r * W.vln + c) then some (f e (ra r c) (vb r c) (rd (2 * r + c / h) (c % h))) else none) gd 0 (W, 0)
        wickDone s w (W'.swept fl false)
    | _, _, _ => trapNext s s.cur .illegal (wordOf i)

/-- A widening integer form (07 R166). -/
def wideForm (s : State) (i : Instr) (d a b : Reg) (m : BitVec 3) (k : BitVec 1) (f : Nat → Nat → Nat → Nat → Flagged) :
    Host.Outcome State Fault Refusal :=
  wideOp s i d a m
    (fun W => do
      let g ← if k == 1 then some [] else W.group? b
      let v ← vecB s W b k
      pure (g, v)) isNarrowEt f

/-- VWADD (07 R166): SignExt(a) + SignExt(b). -/
def execVwadd (d a b : Reg) (m : BitVec 3) (k : BitVec 1) (s : State) : Host.Outcome State Fault Refusal :=
  wideForm s (.vwadd d a b m k) d a b m k fun w x y _ => wrapped (2 * w) (toSigned w x + toSigned w y)

/-- VWMUL (07 R166): SignExt(a) × SignExt(b). -/
def execVwmul (d a b : Reg) (m : BitVec 3) (k : BitVec 1) (s : State) : Host.Outcome State Fault Refusal :=
  wideForm s (.vwmul d a b m k) d a b m k fun w x y _ => wrapped (2 * w) (toSigned w x * toSigned w y)

/-- VWMACC (07 R166): W + SignExt(a) × SignExt(b). -/
def execVwmacc (d a b : Reg) (m : BitVec 3) (k : BitVec 1) (s : State) : Host.Outcome State Fault Refusal :=
  wideForm s (.vwmacc d a b m k) d a b m k fun w x y c => wrapped (2 * w) (c + toSigned w x * toSigned w y)

/-- VWMACCU (07 R166): W + ZeroExt(a) × ZeroExt(b). -/
def execVwmaccu (d a b : Reg) (m : BitVec 3) (k : BitVec 1) (s : State) : Host.Outcome State Fault Refusal :=
  wideForm s (.vwmaccu d a b m k) d a b m k fun w x y c => wrapped (2 * w) (c + x * y)

/-- VWMACCSU (07 R166): W + SignExt(a) × ZeroExt(b). -/
def execVwmaccsu (d a b : Reg) (m : BitVec 3) (k : BitVec 1) (s : State) : Host.Outcome State Fault Refusal :=
  wideForm s (.vwmaccsu d a b m k) d a b m k fun w x y c => wrapped (2 * w) (c + toSigned w x * y)

/-- A narrowing form over a wide source (07 R165, R167, R168, R171): `f` is given the position, the wide element and b. -/
def narrowForm (s : State) (i : Instr) (d a : Reg) (m : BitVec 3) (b : Wick → Option (Nat → Nat → Nat)) (ok : Nat → Bool)
    (f : Wick → Nat → Nat → Nat → Flagged) : Host.Outcome State Fault Refusal :=
  forWick i s fun w =>
    let W := s.curWick w
    let e := W.esize
    match W.group? d, W.wide? a, b W with
    | some gd, some ga, some vb =>
      if !ok W.et || !W.maskFits m then trapNext s s.cur .illegal (wordOf i)
      else if shares gd ga then trapNext s s.cur .groupOverlap (wordOf i)
      else
        let draws := W.th.rm == 5
        if W.emptySweep then wickDone s w (W.swept 0 draws)
        else
          let h := W.cap / 2
          let ra := readGroup W ga (2 * e)
          let (W', fl) := laneSweep W gd e (W.active m) fun r c =>
            some (f W (r * W.vln + c) (ra (2 * r + c / h) (c % h)) (vb r c))
          wickDone s w (W'.swept fl draws)
    | _, _, _ => trapNext s s.cur .illegal (wordOf i)

/-- A value divided by 2^k and rounded to an integer, without flags (07 R167). -/
def shiftRound (md : Mode) (v : Int) (k : Nat) : Int := (roundToInt md (v < 0) v.natAbs (-(k : Int))).1

/-- VNCLIP (07 R167). -/
def execVnclip (d a b : Reg) (m : BitVec 3) (k : BitVec 1) (s : State) : Host.Outcome State Fault Refusal :=
  narrowForm s (.vnclip d a b m k) d a m (fun W => vecB s W b k) isNarrowEt fun W p x y =>
    satS W.esize (shiftRound (laneMode W.th p) (toSigned (2 * W.esize) x) (y % (2 * W.esize)))

/-- VNCLIPU (07 R167). -/
def execVnclipu (d a b : Reg) (m : BitVec 3) (k : BitVec 1) (s : State) : Host.Outcome State Fault Refusal :=
  narrowForm s (.vnclipu d a b m k) d a m (fun W => vecB s W b k) isNarrowEt fun W p x y =>
    satU W.esize (shiftRound (laneMode W.th p) x (y % (2 * W.esize)))

end Sys2Proof.Machine
end

