-- ==== Sys2Proof/Machine/VecFp.lean ====
section
/-! DEFINITION. The floating lane forms (07 R169 to R172), the special functions (R173), the generator (R174) and the reductions (R175,
R176). -/

namespace Sys2Proof.Machine

/-- No operand b. -/
abbrev noB : Wick → Option (Nat → Nat → Nat) := fun _ => some fun _ _ => 0

/-- A floating form that rounds an exact value of a, b and c once, drawing under stochastic rounding (07 R158, R169). -/
def fpRound (s : State) (i : Instr) (d a : Reg) (m : BitVec 3) (b : Wick → Option (Nat → Nat → Nat))
    (f : Mode → FVal → FVal → FVal → FVal × FlagSet) : Host.Outcome State Fault Refusal :=
  laneForm s i d a m b isFloatEt true fun W p x y c =>
    let F := floatOf W.et
    let md := laneMode W.th p
    let (v, fl) := f md (decodeFloat F x) (decodeFloat F y) (decodeFloat F c)
    let (r, g) := roundTo F md v
    (r, fl ||| g)

/-- A floating form that rounds nothing: its result is bits (07 R169, R172). -/
def fpBits (s : State) (i : Instr) (d a : Reg) (m : BitVec 3) (b : Wick → Option (Nat → Nat → Nat))
    (f : FloatFmt → Nat → Nat → Flagged) : Host.Outcome State Fault Refusal :=
  laneForm s i d a m b isFloatEt false fun W _ x y _ => f (floatOf W.et) x y

/-- VFADD (07 R169): a + b. -/
def execVfadd (d a b : Reg) (m : BitVec 3) (k : BitVec 1) (s : State) : Host.Outcome State Fault Refusal :=
  fpRound s (.vfadd d a b m k) d a m (fun W => vecB s W b k) fun md x y _ => addExact md x y

/-- VFSUB (07 R169): a - b. -/
def execVfsub (d a b : Reg) (m : BitVec 3) (k : BitVec 1) (s : State) : Host.Outcome State Fault Refusal :=
  fpRound s (.vfsub d a b m k) d a m (fun W => vecB s W b k) fun md x y _ => addExact md x y.negate

/-- VFMUL (07 R169): a × b. -/
def execVfmul (d a b : Reg) (m : BitVec 3) (k : BitVec 1) (s : State) : Host.Outcome State Fault Refusal :=
  fpRound s (.vfmul d a b m k) d a m (fun W => vecB s W b k) fun _ x y _ => mulExact x y

/-- VFDIV (07 R169): a ÷ b. -/
def execVfdiv (d a b : Reg) (m : BitVec 3) (k : BitVec 1) (s : State) : Host.Outcome State Fault Refusal :=
  fpRound s (.vfdiv d a b m k) d a m (fun W => vecB s W b k) fun _ x y _ => divExact x y

/-- VFSQRT (07 R169). -/
def execVfsqrt (d a : Reg) (m : BitVec 3) (s : State) : Host.Outcome State Fault Refusal :=
  fpRound s (.vfsqrt d a m) d a m noB fun _ x _ _ => sqrtExact x

/-- VFMA (07 R169): a × b + c, rounded once. -/
def execVfma (d a b : Reg) (m : BitVec 3) (k : BitVec 1) (s : State) : Host.Outcome State Fault Refusal :=
  fpRound s (.vfma d a b m k) d a m (fun W => vecB s W b k) fmaExact

/-- VFMS (07 R169): a × b - c, rounded once. -/
def execVfms (d a b : Reg) (m : BitVec 3) (k : BitVec 1) (s : State) : Host.Outcome State Fault Refusal :=
  fpRound s (.vfms d a b m k) d a m (fun W => vecB s W b k) fun md x y c => fmaExact md x y c.negate

/-- VFNMA (07 R169): c - a × b, rounded once. -/
def execVfnma (d a b : Reg) (m : BitVec 3) (k : BitVec 1) (s : State) : Host.Outcome State Fault Refusal :=
  fpRound s (.vfnma d a b m k) d a m (fun W => vecB s W b k) fun md x y c => fmaExact md x.negate y c

/-- VFMIN (07 R169, 04 R103). -/
def execVfmin (d a b : Reg) (m : BitVec 3) (k : BitVec 1) (s : State) : Host.Outcome State Fault Refusal :=
  fpBits s (.vfmin d a b m k) d a m (fun W => vecB s W b k) fun f x y => minMaxBits f false x y

/-- VFMAX (07 R169, 04 R103). -/
def execVfmax (d a b : Reg) (m : BitVec 3) (k : BitVec 1) (s : State) : Host.Outcome State Fault Refusal :=
  fpBits s (.vfmax d a b m k) d a m (fun W => vecB s W b k) fun f x y => minMaxBits f true x y

/-- VFCMP (07 R170, 04 R105). -/
def execVfcmp (d a b : Reg) (m : BitVec 3) (k : BitVec 1) (c : BitVec 2) (s : State) : Host.Outcome State Fault Refusal :=
  cmpForm s (.vfcmp d a b m k c) d a b m k isFloatEt fun W x y => compareBits (floatOf W.et) c.toNat x y

/-- A conversion between a float et and an integer of its width (07 R171): `f` is given the width, the layout and the mode. -/
def cvtForm (s : State) (i : Instr) (d a : Reg) (m : BitVec 3) (f : Nat → FloatFmt → Mode → Nat → Flagged) :
    Host.Outcome State Fault Refusal :=
  laneForm s i d a m noB isFloatEt true fun W p x _ _ => f W.esize (floatOf W.et) (laneMode W.th p) x

/-- VFCVT.XF (07 R171): float to signed integer. -/
def execVfcvtXf (d a : Reg) (m : BitVec 3) (s : State) : Host.Outcome State Fault Refusal :=
  cvtForm s (.vfcvtXf d a m) d a m fun w F md x => convert (.float F) (.int w true) md x

/-- VFCVT.FX (07 R171): signed integer to float. -/
def execVfcvtFx (d a : Reg) (m : BitVec 3) (s : State) : Host.Outcome State Fault Refusal :=
  cvtForm s (.vfcvtFx d a m) d a m fun w F md x => convert (.int w true) (.float F) md x

/-- VFCVT.XUF (07 R171): float to unsigned integer. -/
def execVfcvtXuf (d a : Reg) (m : BitVec 3) (s : State) : Host.Outcome State Fault Refusal :=
  cvtForm s (.vfcvtXuf d a m) d a m fun w F md x => convert (.float F) (.int w false) md x

/-- VFCVT.FXU (07 R171): unsigned integer to float. -/
def execVfcvtFxu (d a : Reg) (m : BitVec 3) (s : State) : Host.Outcome State Fault Refusal :=
  cvtForm s (.vfcvtFxu d a m) d a m fun w F md x => convert (.int w false) (.float F) md x

/-- VFCVT.FW (07 R171): BF16 to F32, widening. -/
def execVfcvtFw (d a : Reg) (m : BitVec 3) (s : State) : Host.Outcome State Fault Refusal :=
  wideOp s (.vfcvtFw d a m) d a m (fun _ => some ([], fun _ _ => 0)) (· == 6) fun _ x _ _ =>
    convert (.float fmtBF16) (.float fmtF32) .rne x

/-- VFCVT.FN (07 R171): F32 to BF16, narrowing. -/
def execVfcvtFn (d a : Reg) (m : BitVec 3) (s : State) : Host.Outcome State Fault Refusal :=
  narrowForm s (.vfcvtFn d a m) d a m noB (· == 6) fun W p x _ => convert (.float fmtF32) (.float fmtBF16) (laneMode W.th p) x

/-- The class code of a float's bits (07 R172). -/
def classOf (f : FloatFmt) (x : Nat) : Nat :=
  match decodeFloat f x with
  | .nan sg => if sg then 5 else 4
  | .inf _ => 3
  | .fin _ m _ => if m == 0 then 0 else if x / 2 ^ f.mbits % 2 ^ f.ebits == 0 then 1 else 2

/-- VFCLASS (07 R172): the sign in bit 0, the class code in bits 3:1. -/
def execVfclass (d a : Reg) (m : BitVec 3) (s : State) : Host.Outcome State Fault Refusal :=
  fpBits s (.vfclass d a m) d a m noB fun f x _ => (2 * classOf f x + x / 2 ^ (f.width - 1) % 2, 0)

/-- a's magnitude bits with a sign computed from the two sign bits (07 R169). -/
def signForm (s : State) (i : Instr) (d a b : Reg) (m : BitVec 3) (k : BitVec 1) (g : Nat → Nat → Nat) : Host.Outcome State Fault Refusal :=
  fpBits s i d a m (fun W => vecB s W b k) fun f x y =>
    let h := 2 ^ (f.width - 1)
    (x % h + g (x / h % 2) (y / h % 2) * h, 0)

/-- VFSGNJ (07 R169). -/
def execVfsgnj (d a b : Reg) (m : BitVec 3) (k : BitVec 1) (s : State) : Host.Outcome State Fault Refusal :=
  signForm s (.vfsgnj d a b m k) d a b m k fun _ y => y

/-- VFSGNJ.N (07 R169). -/
def execVfsgnjN (d a b : Reg) (m : BitVec 3) (k : BitVec 1) (s : State) : Host.Outcome State Fault Refusal :=
  signForm s (.vfsgnjN d a b m k) d a b m k fun _ y => 1 - y

/-- VFSGNJ.X (07 R169). -/
def execVfsgnjX (d a b : Reg) (m : BitVec 3) (k : BitVec 1) (s : State) : Host.Outcome State Fault Refusal :=
  signForm s (.vfsgnjX d a b m k) d a b m k fun x y => (x + y) % 2

/-- A special function (07 R173): rounded under RNE, without a draw. -/
def sfuForm (s : State) (i : Instr) (d a : Reg) (m : BitVec 3) (f : FVal → FVal × FlagSet) : Host.Outcome State Fault Refusal :=
  laneForm s i d a m noB isFloatEt false fun W _ x _ _ => specialResult W.et f x

/-- VFEXP2 (07 R173). -/
def execVfexp2 (d a : Reg) (m : BitVec 3) (s : State) : Host.Outcome State Fault Refusal := sfuForm s (.vfexp2 d a m) d a m exp2Val
/-- VFLOG2 (07 R173). -/
def execVflog2 (d a : Reg) (m : BitVec 3) (s : State) : Host.Outcome State Fault Refusal := sfuForm s (.vflog2 d a m) d a m log2Val
/-- VFRCP (07 R173). -/
def execVfrcp (d a : Reg) (m : BitVec 3) (s : State) : Host.Outcome State Fault Refusal := sfuForm s (.vfrcp d a m) d a m rcpVal
/-- VFRSQRT (07 R173). -/
def execVfrsqrt (d a : Reg) (m : BitVec 3) (s : State) : Host.Outcome State Fault Refusal := sfuForm s (.vfrsqrt d a m) d a m rsqrtVal
/-- VFTANH (07 R173). -/
def execVftanh (d a : Reg) (m : BitVec 3) (s : State) : Host.Outcome State Fault Refusal := sfuForm s (.vftanh d a m) d a m tanhVal

/-- VRAND (07 R174): the low bits of the generator's word for each active position, domain 0. -/
def execVrand (d : Reg) (m : BitVec 3) (s : State) : Host.Outcome State Fault Refusal :=
  let i := Instr.vrand d m
  forWick i s fun w =>
    let W := s.curWick w
    match W.group? d with
    | none => trapNext s s.cur .illegal (wordOf i)
    | some gd =>
      if !W.maskFits m then trapNext s s.cur .illegal (wordOf i)
      else if W.emptySweep then wickDone s w (W.swept 0 true)
      else
        let th := W.th
        let (W', fl) := laneSweep W gd W.esize (W.active m) fun r c =>
          some ((drawWord (th.rctr + BitVec.ofNat 64 (r * W.vln + c)) 0 th.rkey0 th.rkey1).toNat % 2 ^ W.esize, 0)
        wickDone s w (W'.swept fl true)

/-- A reduction (07 R175, R176): `f` folds the start value with the active positions' elements, given by position. -/
def redForm (s : State) (i : Instr) (d a b : Reg) (m : BitVec 3) (ok : Nat → Bool) (f : Wick → Nat → List (Nat × Nat) → Flagged) :
    Host.Outcome State Fault Refusal :=
  forWick i s fun w =>
    let W := s.curWick w
    let e := W.esize
    match W.group? d, W.group? a, W.group? b with
    | some gd, some ga, some gb =>
      if !ok W.et || !W.maskFits m then trapNext s s.cur .illegal (wordOf i)
      else if W.emptySweep then wickDone s w (W.swept 0 false)
      else
        let vl := W.vln
        let ra := readGroup W ga e
        let start := readGroup W gb e 0 0
        let xs := (activeList W (W.active m)).map fun p => (p, ra (p / vl) (p % vl))
        let (r, fl) := if xs.isEmpty then (start, 0) else f W start xs
        let (W', fl') := sweepReg W (gd.headD 0) e 1 W.cap fun _ => some (r, fl)
        wickDone s w (W'.swept fl' false)
    | _, _, _ => trapNext s s.cur .illegal (wordOf i)

/-- VREDSUM (07 R175): the sum modulo 2^w. -/
def execVredsum (d a b : Reg) (m : BitVec 3) (s : State) : Host.Outcome State Fault Refusal :=
  redForm s (.vredsum d a b m) d a b m isIntEt fun W st xs => (xs.foldl (fun n x => (n + x.2) % 2 ^ W.esize) st, 0)

/-- VREDMAX (07 R175): the signed maximum. -/
def execVredmax (d a b : Reg) (m : BitVec 3) (s : State) : Host.Outcome State Fault Refusal :=
  redForm s (.vredmax d a b m) d a b m isIntEt fun W st xs =>
    wrapped W.esize (xs.foldl (fun n x => max n (toSigned W.esize x.2)) (toSigned W.esize st))

/-- VREDMIN (07 R175): the signed minimum. -/
def execVredmin (d a b : Reg) (m : BitVec 3) (s : State) : Host.Outcome State Fault Refusal :=
  redForm s (.vredmin d a b m) d a b m isIntEt fun W st xs =>
    wrapped W.esize (xs.foldl (fun n x => min n (toSigned W.esize x.2)) (toSigned W.esize st))

/-- One level of the pairwise tree: nodes 2j and 2j + 1 combine into node j; a node alone passes up unchanged (03 R76). -/
def treeLevel (add : Nat → Nat → Flagged) : List (Nat × Nat) → FlagSet → List (Nat × Nat) × FlagSet
  | (p, x) :: (q, y) :: rest, fl =>
    if p / 2 == q / 2 then
      let (v, g) := add x y
      let (r, fl') := treeLevel add rest (fl ||| g)
      ((p / 2, v) :: r, fl')
    else
      let (r, fl') := treeLevel add ((q, y) :: rest) fl
      ((p / 2, x) :: r, fl')
  | [(p, x)], fl => ([(p / 2, x)], fl)
  | [], fl => ([], fl)

/-- The root of the tree over the non-empty nodes, by levels (03 R76). -/
def treeSum (add : Nat → Nat → Flagged) : Nat → List (Nat × Nat) → FlagSet → List (Nat × Nat) × FlagSet
  | 0, xs, fl => (xs, fl)
  | n + 1, xs, fl => let (ys, g) := treeLevel add xs fl; treeSum add n ys g

/-- A sum of two floats' bits, rounded. -/
def addBits (f : FloatFmt) (md : Mode) (x y : Nat) : Flagged :=
  let (v, fl) := addExact md (decodeFloat f x) (decodeFloat f y)
  let (r, g) := roundTo f md v
  (r, fl ||| g)

/-- The rounding mode of a reduction: a stochastic one rounds as RNE (07 R175). -/
def redMode (th : Thread) : Mode := if th.rm == 5 then .rne else modeOf th.rm 0

/-- VFREDSUM (07 R175, 03 R76): the pairwise tree over the active positions, the start value added at the root. -/
def execVfredsum (d a b : Reg) (m : BitVec 3) (s : State) : Host.Outcome State Fault Refusal :=
  redForm s (.vfredsum d a b m) d a b m isFloatEt fun W st xs =>
    let add := addBits (floatOf W.et) (redMode W.th)
    let (root, fl) := treeSum add 18 xs 0
    match root with
    | (_, v) :: _ => let (r, g) := add v st; (r, fl ||| g)
    | [] => (st, fl)

/-- VFREDMAX (07 R175, 04 R103). -/
def execVfredmax (d a b : Reg) (m : BitVec 3) (s : State) : Host.Outcome State Fault Refusal :=
  redForm s (.vfredmax d a b m) d a b m isFloatEt fun W st xs =>
    xs.foldl (fun (v, fl) x => let (r, g) := minMaxBits (floatOf W.et) true v x.2; (r, fl ||| g)) (st, 0)

/-- VFREDMIN (07 R175, 04 R103). -/
def execVfredmin (d a b : Reg) (m : BitVec 3) (s : State) : Host.Outcome State Fault Refusal :=
  redForm s (.vfredmin d a b m) d a b m isFloatEt fun W st xs =>
    xs.foldl (fun (v, fl) x => let (r, g) := minMaxBits (floatOf W.et) false v x.2; (r, fl ||| g)) (st, 0)

end Sys2Proof.Machine
end

