-- ==== Sys2Proof/Machine/VecPerm.lean ====
section
/-! DEFINITION. The slide ring: VPERM major (07 R177 to R183). -/

namespace Sys2Proof.Machine

/-- The value that a slide takes for each row: X[xs], or element r of row 0 of group vs2 (07 R177). -/
def slideArg (s : State) (W : Wick) (b : Reg) (k : BitVec 1) (narrow : Bool) : Option (Nat → Nat) :=
  if k == 1 then
    let v := (s.getX s.cur b).toNat
    some fun _ => if narrow then v % 2 ^ W.esize else v
  else (W.group? b).map fun g => let v := readGroup W g W.esize; fun r => v 0 r

/-- A slide form (07 R177): `f` is given the row's argument, the row's elements as read and the element; none leaves it unwritten. -/
def slideForm (s : State) (i : Instr) (d a b : Reg) (m : BitVec 3) (k : BitVec 1) (narrow : Bool)
    (f : Wick → Nat → (Nat → Nat) → Nat → Option Nat) : Host.Outcome State Fault Refusal :=
  forWick i s fun w =>
    let W := s.curWick w
    let e := W.esize
    match W.group? d, W.group? a, slideArg s W b k narrow with
    | some gd, some ga, some arg =>
      if !W.maskFits m then trapNext s s.cur .illegal (wordOf i)
      else if W.emptySweep then wickDone s w (W.swept 0 false)
      else
        let ra := readGroup W ga e
        let (W', fl) := laneSweep W gd e (W.active m) fun r c => (f W (arg r) (ra r) c).map fun v => (v, 0)
        wickDone s w (W'.swept fl false)
    | _, _, _ => trapNext s s.cur .illegal (wordOf i)

/-- VSLIDEUP (07 R177). -/
def execVslideup (d a b : Reg) (m : BitVec 3) (k : BitVec 1) (s : State) : Host.Outcome State Fault Refusal :=
  slideForm s (.vslideup d a b m k) d a b m k false fun _ dist row e => if e ≥ dist then some (row (e - dist)) else none

/-- VSLIDEDN (07 R177): past the row's end, the row's last element. -/
def execVslidedn (d a b : Reg) (m : BitVec 3) (k : BitVec 1) (s : State) : Host.Outcome State Fault Refusal :=
  slideForm s (.vslidedn d a b m k) d a b m k false fun W dist row e =>
    some (row (if e + dist < W.vln then e + dist else W.vln - 1))

/-- VSLIDE1 (07 R177): the row's last element receives the insert value. -/
def execVslide1 (d a b : Reg) (m : BitVec 3) (k : BitVec 1) (s : State) : Host.Outcome State Fault Refusal :=
  slideForm s (.vslide1 d a b m k) d a b m k true fun W ins row e => some (if e + 1 < W.vln then row (e + 1) else ins)

/-- VPERM (07 R179): a gather over the linear positions of the sweep. -/
def execVperm (d a b : Reg) (m : BitVec 3) (k : BitVec 1) (s : State) : Host.Outcome State Fault Refusal :=
  let i := Instr.vperm d a b m k
  forWick i s fun w =>
    let W := s.curWick w
    let e := W.esize
    let idx : Option (List Nat × (Nat → Nat → Nat)) :=
      if k == 1 then some ([], fun _ _ => (s.getX s.cur b).toNat) else (W.group? b).map fun g => (g, readGroup W g e)
    match W.group? d, W.group? a, idx with
    | some gd, some ga, some (gb, at_) =>
      if !W.maskFits m then trapNext s s.cur .illegal (wordOf i)
      else if shares gd ga || shares gd gb then trapNext s s.cur .groupOverlap (wordOf i)
      else if W.emptySweep then wickDone s w (W.swept 0 false)
      else
        let ra := readGroup W ga e
        let vl := W.vln
        let (W', fl) := laneSweep W gd e (W.active m) fun r c =>
          let j := at_ r c
          some (if j < W.positions then ra (j / vl) (j % vl) else 0, 0)
        wickDone s w (W'.swept fl false)
    | _, _, _ => trapNext s s.cur .illegal (wordOf i)

/-- VCOMPRESS (07 R180): the selected elements to consecutive positions; the positions after them are zeroed under ta = 1. -/
def execVcompress (d a : Reg) (m : BitVec 3) (s : State) : Host.Outcome State Fault Refusal :=
  let i := Instr.vcompress d a m
  forWick i s fun w =>
    let W := s.curWick w
    let e := W.esize
    match W.group? d, W.group? a with
    | some gd, some ga =>
      if W.vstart != 0 || !W.maskFits m then trapNext s s.cur .illegal (wordOf i)
      else if shares gd ga then trapNext s s.cur .groupOverlap (wordOf i)
      else if W.emptySweep then wickDone s w (W.swept 0 false)
      else
        let ra := readGroup W ga e
        let vl := W.vln
        let taken := ((activeList W (W.active m)).map fun p => ra (p / vl) (p % vl)).toArray
        let (W', fl) := laneSweep W gd e (fun _ => true) fun r c =>
          match taken[r * vl + c]? with
          | some v => some (v, 0)
          | none => if W.ta then some (0, 0) else none
        wickDone s w (W'.swept fl false)
    | _, _ => trapNext s s.cur .illegal (wordOf i)

/-- VID (07 R181): base + r × vl + e. -/
def execVid (d b : Reg) (m : BitVec 3) (k : BitVec 1) (s : State) : Host.Outcome State Fault Refusal :=
  let base := if k == 1 then (s.getX s.cur b).toNat else 0
  laneForm s (.vid d b m k) d d m noB isIntEt false fun W p _ _ _ => ((base + p) % 2 ^ W.esize, 0)

/-- VMVXS (07 R182): one element to a scalar register; past the sweep's end, 0. -/
def execVmvxs (d a b : Reg) (k : BitVec 1) (s : State) : Host.Outcome State Fault Refusal :=
  let i := Instr.vmvxs d a b k
  forWick i s fun w =>
    let W := s.curWick w
    let e := W.esize
    match W.group? a with
    | none => trapNext s s.cur .illegal (wordOf i)
    | some ga =>
      let p := if k == 1 then (s.getX s.cur b).toNat else 0
      let v : Word :=
        if p < W.positions then
          let x := readGroup W ga e (p / W.vln) (p % W.vln)
          if isIntEt W.et then BitVec.ofInt 64 (toSigned e x) else BitVec.ofNat 64 x
        else 0
      writeRd (s.modCur w fun W => W.swept 0 false) d v

/-- VMVSX (07 R183): b to element (0, 0) of vd. -/
def execVmvsx (d b : Reg) (s : State) : Host.Outcome State Fault Refusal :=
  let i := Instr.vmvsx d b
  forWick i s fun w =>
    let W := s.curWick w
    let e := W.esize
    match W.group? d with
    | none => trapNext s s.cur .illegal (wordOf i)
    | some gd =>
      let n := gd.headD 0
      let W' :=
        if W.vln != 0 && W.vstart == 0 then W.setReg n (elemSet (W.reg n) e 0 ((s.getX s.cur b).toNat % 2 ^ e)) e else W
      wickDone s w (W'.swept 0 false)

end Sys2Proof.Machine
end

