-- ==== Sys2Proof/Machine/VecMask.lean ====
section
/-! DEFINITION. The VMASK forms (07 R184, R185): they act on positions 0 to vrows × vl - 1 and ignore vstart. -/

namespace Sys2Proof.Machine

/-- The lowest `n` bits. -/
def lowBits (n : Nat) : BitVec 32768 := BitVec.ofNat 32768 (2 ^ n - 1)

/-- A VMASK form whose mask-register fields are `fields` (07 R184). -/
def maskForm (s : State) (i : Instr) (fields : List Reg) (k : Fin 8 → Wick → Host.Outcome State Fault Refusal) :
    Host.Outcome State Fault Refusal :=
  forWick i s fun w =>
    let W := s.curWick w
    if !fields.all (fun f => isMaskReg f) || W.positions > 32768 then trapNext s s.cur .illegal (wordOf i) else k w W

/-- A mask register's bits at positions of the sweep replaced; those past it stay (07 R184). -/
def Wick.writeMask (W : Wick) (d : Reg) (v : BitVec 32768) : Wick :=
  let low := lowBits W.positions
  W.setMask d.toNat ((tabGet 0 W.masks d.toNat &&& ~~~low) ||| (v &&& low))

/-- A logical form of two masks (07 R184). -/
def logicForm (s : State) (i : Instr) (d a b : Reg) (f : BitVec 32768 → BitVec 32768 → BitVec 32768) :
    Host.Outcome State Fault Refusal :=
  maskForm s i [d, a, b] fun w W => wickDone s w ((W.writeMask d (f (W.mask a.toNat) (W.mask b.toNat))).swept 0 false)

/-- MAND (07 R184). -/
def execMand (d a b : Reg) (s : State) : Host.Outcome State Fault Refusal := logicForm s (.mand d a b) d a b fun x y => x &&& y
/-- MOR (07 R184). -/
def execMor (d a b : Reg) (s : State) : Host.Outcome State Fault Refusal := logicForm s (.mor d a b) d a b fun x y => x ||| y
/-- MXOR (07 R184). -/
def execMxor (d a b : Reg) (s : State) : Host.Outcome State Fault Refusal := logicForm s (.mxor d a b) d a b fun x y => x ^^^ y
/-- MANDN (07 R184). -/
def execMandn (d a b : Reg) (s : State) : Host.Outcome State Fault Refusal :=
  logicForm s (.mandn d a b) d a b fun x y => x &&& ~~~y

/-- The positions of a sweep where a mask's bit is set, ascending. -/
def Wick.setPositions (W : Wick) (a : Reg) : List Nat :=
  let v := W.mask a.toNat
  (natsFrom 0 W.positions).filter v.getLsbD

/-- MPOP (07 R184): how many bits are set. -/
def execMpop (d a : Reg) (s : State) : Host.Outcome State Fault Refusal :=
  maskForm s (.mpop d a) [a] fun w W =>
    writeRd (s.modCur w fun W => W.swept 0 false) d (BitVec.ofNat 64 (W.setPositions a).length)

/-- MFIRST (07 R184): the least set position, or -1. -/
def execMfirst (d a : Reg) (s : State) : Host.Outcome State Fault Refusal :=
  maskForm s (.mfirst d a) [a] fun w W =>
    let v : Word := match W.setPositions a with
      | p :: _ => BitVec.ofNat 64 p
      | [] => BitVec.allOnes 64
    writeRd (s.modCur w fun W => W.swept 0 false) d v

/-- Bit p under a kind (07 R185). -/
def msetiBit (kind k vl p : Nat) : Bool :=
  match kind with
  | 0 => p < k
  | 1 => k != 0 && p % k == 0
  | _ => p % vl < k

/-- MSETI (07 R185). -/
def execMseti (d k b : Reg) (s : State) : Host.Outcome State Fault Refusal :=
  maskForm s (.mseti d k b) [d] fun w W =>
    let n := (s.getX s.cur b).toNat
    let (v, _) := maskBits (fun p => (msetiBit k.toNat n W.vln p, 0)) (natsFrom 0 W.positions) 0 0
    wickDone s w ((W.writeMask d v).swept 0 false)

end Sys2Proof.Machine
end

