-- ==== Sys2Proof/Machine/Engine.lean ====
section
/-! DEFINITION. What the engines share: ranges of bytes translated one 4 KiB granule at a time (09 R228), and SHAKE256 (11 R267; log 9). -/

namespace Sys2Proof.Machine

/-- How the translation of a range ends: its pieces of one granule each with their virtual addresses; or the first granule that fails, that
misses at stage 2, or whose D bit waits for room in the dirty log. -/
inductive RangeX where
  | ok (pcs : List (Word × Xlat × Nat)) (s : State)
  | fail (c : Cause) (va : Word) (p : FaultPlace) (s : State)
  | miss (m : Miss) (va : Word) (s : State)
  | logFull (va : Word) (s : State)
  deriving DecidableEq, Repr

/-- How many of `n` bytes from an address lie in its 4 KiB granule. -/
def inGranule (va : Word) (n : Nat) : Nat := min n (4096 - va.toNat % 4096)

/-- The translation of `n` bytes from an address for a VF, through the caches of a physical core (09 R228). `fuel` bounds the granules. -/
def xlatRange (p vf : Nat) (k : Kind) : Nat → State → Word → Nat → List (Word × Xlat × Nat) → RangeX
  | 0, s, _, _, acc => .ok acc.reverse s
  | fuel + 1, s, va, n, acc =>
    if n == 0 then .ok acc.reverse s
    else match translate s p vf va k false with
    | (.ok x, s) =>
      let n1 := inGranule va n
      xlatRange p vf k fuel s (va + BitVec.ofNat 64 n1) (n - n1) ((va, x, n1) :: acc)
    | (.fail c pl, s) => .fail c va pl s
    | (.miss m, s) => .miss m va s
    | (.logFull, s) => .logFull va s

/-- The first byte of a range that lies in a poisoned sector, or that the host refuses to read, with the cause and its intermediate address
(08 R209, 12 R275). -/
def firstBad (s : State) : List (Word × Xlat × Nat) → Option (Cause × Word × Nat)
  | [] => none
  | (va, x, n) :: ps =>
    match (natsFrom 0 n).find? fun k => poisoned s (x.pa + k) || hostRefuses s (x.pa + k) with
    | some k => some (if hostRefuses s (x.pa + k) then .protection else .poison, va + BitVec.ofNat 64 k, x.ipa + k)
    | none => firstBad s ps

/-- The bytes of the pieces of a range, and the L2's use of their sectors (12 R274). -/
def readRange (s : State) (vf : Nat) : List (Word × Xlat × Nat) → List Byte × State
  | [] => ([], s)
  | (_, x, n) :: ps =>
    let bs := memBytes s.mem x.pa n
    let s := (natsFrom (sectorOf x.pa) (sectorOf (x.pa + n - 1) + 1 - sectorOf x.pa)).foldl
      (fun s k => l2Touch s vf (k * 64) .read x.cmp none) s
    let (cs, s) := readRange s vf ps
    (bs ++ cs, s)

/-- Whether every line of a translated range finds what it needs at the L2 or on the links; else the state in which it waits (12 R277, R280,
18 R397). -/
def piecesRoom (s : State) (vf : Nat) (pcs : List (Word × Xlat × Nat)) : Option State :=
  match pcs.find? fun (_, x, n) => !rangeRoom s vf x.pa n with
  | some (_, x, _) => some (noRoom s vf x.pa)
  | none => none

/-- How an engine's read of a range ends; `full` is a fill that waits for room. -/
inductive EngineRead where
  | full (s : State)
  | ok (bs : List Byte) (s : State)
  | fail (c : Cause) (va : Word) (p : FaultPlace) (s : State)
  | miss (m : Miss) (va : Word) (s : State)
  | logFull (va : Word) (s : State)
  deriving DecidableEq, Repr

/-- An engine's read of `n` bytes (09 R228, 12 R275, R277): translation, poison or the host's refusal, room for its fills, the bytes. -/
def engineRead (s : State) (p vf : Nat) (va : Word) (n : Nat) : EngineRead :=
  match xlatRange p vf .read (n / 4096 + 2) s va n [] with
  | .fail c a pl s => .fail c a pl s
  | .miss m a s => .miss m a s
  | .logFull a s => .logFull a s
  | .ok pcs s =>
    match firstBad s pcs with
    | some (c, a, ipa) => .fail c a { ipa := ipa, place := 0 } s
    | none =>
      match piecesRoom s vf pcs with
      | some s => .full s
      | none => let (bs, s) := readRange s vf pcs; .ok bs s

/-- An engine's write of bytes whose range is translated: it clears the watch records of its sectors (14 R330). -/
def engineWrite (s : State) (vf : Nat) : List (Word × Xlat × Nat) → List Byte → State
  | [], _ => s
  | (_, x, n) :: ps, bs => engineWrite (l2WriteBytes s vf x.pa (bs.take n) x.cmp) vf ps (bs.drop n)

/-- The rotation of a lane of Keccak-f[1600], by 5y + x. -/
def keccakRot : List Nat :=
  [0, 1, 62, 28, 27, 36, 44, 6, 55, 20, 3, 10, 43, 25, 39, 41, 45, 15, 21, 8, 18, 2, 61, 56, 14]

/-- The round constants of Keccak-f[1600]. -/
def keccakRounds : List (BitVec 64) :=
  [0x0000000000000001, 0x0000000000008082, 0x800000000000808A, 0x8000000080008000, 0x000000000000808B, 0x0000000080000001,
   0x8000000080008081, 0x8000000000008009, 0x000000000000008A, 0x0000000000000088, 0x0000000080008009, 0x000000008000000A] ++
  [0x000000008000808B, 0x800000000000008B, 0x8000000000008089, 0x8000000000008003, 0x8000000000008002, 0x8000000000000080,
   0x000000000000800A, 0x800000008000000A, 0x8000000080008081, 0x8000000000008080, 0x0000000080000001, 0x8000000080008008]

/-- A lane of a Keccak state. -/
def lane (a : List (BitVec 64)) (x y : Nat) : BitVec 64 := a.getD (5 * (y % 5) + x % 5) 0

/-- One round of Keccak-f[1600] (FIPS 202). -/
def keccakRound (a : List (BitVec 64)) (rc : BitVec 64) : List (BitVec 64) :=
  let c := (natsFrom 0 5).map fun x => lane a x 0 ^^^ lane a x 1 ^^^ lane a x 2 ^^^ lane a x 3 ^^^ lane a x 4
  let d := (natsFrom 0 5).map fun x => c.getD ((x + 4) % 5) 0 ^^^ (c.getD ((x + 1) % 5) 0).rotateLeft 1
  let a := (natsFrom 0 25).map fun i => a.getD i 0 ^^^ d.getD (i % 5) 0
  let b := (natsFrom 0 25).map fun i =>
    let x := (i % 5 + 3 * (i / 5)) % 5
    let y := i % 5
    (lane a x y).rotateLeft (keccakRot.getD (5 * y + x) 0)
  (natsFrom 0 25).map fun i =>
    let x := i % 5
    let y := i / 5
    let v := lane b x y ^^^ (~~~lane b (x + 1) y &&& lane b (x + 2) y)
    if i == 0 then v ^^^ rc else v

/-- Keccak-f[1600]. -/
def keccakF (a : List (BitVec 64)) : List (BitVec 64) := keccakRounds.foldl keccakRound a

/-- The lanes of a block of 136 bytes. -/
def blockLanes (bs : List Byte) : List (BitVec 64) := (natsFrom 0 17).map fun i => BitVec.ofNat 64 (leNat ((bs.drop (8 * i)).take 8))

/-- A block absorbed. -/
def absorb (a : List (BitVec 64)) (bs : List Byte) : List (BitVec 64) :=
  let ls := blockLanes bs
  keccakF ((natsFrom 0 25).map fun i => a.getD i 0 ^^^ ls.getD i 0)

/-- The blocks of a message absorbed, the last one padded for SHAKE; `fuel` bounds the blocks. -/
def absorbAll : Nat → List (BitVec 64) → List Byte → List (BitVec 64)
  | 0, a, _ => a
  | fuel + 1, a, bs =>
    let b := bs.take 136
    if b.length == 136 then absorbAll fuel (absorb a b) (bs.drop 136)
    else
      let n := 136 - b.length
      let pad : List Byte := if n == 1 then [0x9F] else [0x1F] ++ List.replicate (n - 2) 0 ++ [0x80]
      absorb a (b ++ pad)

/-- The first 32 bytes of SHAKE256 of a message (11 R267; log 9). -/
def shake256 (bs : List Byte) : List Byte :=
  let a := absorbAll (bs.length / 136 + 1) (List.replicate 25 0) bs
  (a.take 4).flatMap fun l => leBytes 8 l.toNat

end Sys2Proof.Machine
end

