-- ==== Sys2Proof/Machine/Matrix.lean ====
section
/-! DEFINITION. The accumulator tiles and the register forms of the matrix array (10 R230 to R253). -/

namespace Sys2Proof.Machine

/-- An array form (10 R239, R242): the taper traps illegal; it does not issue while the array is held. -/
def forArray (i : Instr) (s : State) (k : Fin 8 → Host.Outcome State Fault Refusal) : Host.Outcome State Fault Refusal :=
  forWick i s fun w => if arrayBusy s s.cur w then .next s else k w

/-- Cell `j` of a tile row, as its 32 bits (10 R230). -/
def cellAt (row : BitVec 8192) (j : Nat) : Nat := row.toNat / 2 ^ (32 * j) % 2 ^ 32
/-- A tile row with cell `j` replaced. -/
def cellPut (row : BitVec 8192) (j v : Nat) : BitVec 8192 :=
  (row &&& ~~~(0xFFFFFFFF#8192 <<< (32 * j))) ||| (BitVec.ofNat 8192 (v % 2 ^ 32) <<< (32 * j))
/-- A row of a tile. -/
def Tile.row (T : Tile) (i : Nat) : BitVec 8192 := tabGet 0 T.rows i
/-- Cell (i, j) of a tile. -/
def Tile.cell (T : Tile) (i j : Nat) : Nat := cellAt (T.row i) j
/-- A tile with a row written: it is dirty (10 R238); a zero row is not listed. -/
def Tile.setRow (T : Tile) (i : Nat) (v : BitVec 8192) : Tile :=
  { rows := if v == 0 then tabDel T.rows i else tabPut T.rows i v, dirty := true, imaged := T.imaged }

/-- The state with a tile of a core changed. -/
def State.modTile (s : State) (g c : Nat) (a : BitVec 2) (f : Tile → Tile) : State :=
  s.modCore g c fun C => { C with tiles := C.tiles.set a.toFin (f C.tiles[a.toFin]) }
/-- The state with an ownership entry of a core changed. -/
def State.modOwner (s : State) (g c : Nat) (a : BitVec 2) (f : Owner → Owner) : State :=
  s.modCore g c fun C => { C with owners := C.owners.set a.toFin (f C.owners[a.toFin]) }
/-- The ownership entry of a tile of the acting core. -/
def State.curOwner (s : State) (a : BitVec 2) : Owner := s.curCore.owners[a.toFin]

/-- Whether a wick of a core may act on a tile: it owns it or nobody does (10 R237). -/
def mayOwnIn (s : State) (g c : Nat) (w : Fin 8) (a : BitVec 2) : Bool :=
  match ((s.core g c).owners[a.toFin]).owner with
  | some v => v == w
  | none => true
/-- Whether a wick of the acting core may act on a tile. -/
abbrev mayOwn (s : State) (w : Fin 8) (a : BitVec 2) : Bool := mayOwnIn s s.cur.gang s.cur.core w a
/-- A wick of a core owns the tile (10 R237). -/
def takeTileIn (s : State) (g c : Nat) (w : Fin 8) (a : BitVec 2) : State := s.modOwner g c a fun o => { o with owner := some w }
/-- The acting wick owns the tile (10 R237). -/
abbrev takeTile (s : State) (w : Fin 8) (a : BitVec 2) : State := takeTileIn s s.cur.gang s.cur.core w a
/-- The trap of another wick's tile (10 R237). -/
abbrev ownershipTrap (s : State) (a : BitVec 2) : Host.Outcome State Fault Refusal :=
  trapNext s s.cur .ownership (a.zeroExtend 64)

/-- The joined tile of the acting core's quad (10 R254). -/
def joinedTile (s : State) (g c : Nat) : Option (Fin 4) := (tabGet { joined := none } (s.gang g).quadMode (c / 4)).joined
/-- Whether a tile of the acting core is joined. -/
def isJoined (s : State) (a : BitVec 2) : Bool := joinedTile s s.cur.gang s.cur.core == some a.toFin

/-- A tile of zeros that has been written (10 R244). -/
def Tile.cleared : Tile := { rows := [], dirty := true, imaged := false }

/-- MZERO (10 R244, 11 R258): every cell +0; a vigil's counts become 0. -/
def execMzero (a : BitVec 2) (s : State) : Host.Outcome State Fault Refusal :=
  forArray (.mzero a) s fun w =>
    if !mayOwn s w a then ownershipTrap s a
    else
      let s := takeTile s w a
      let s := s.modTile s.cur.gang s.cur.core a fun _ => Tile.cleared
      wickDone (s.modOwner s.cur.gang s.cur.core a fun o => { o with tokens := 0, hidx := 0 }) w ((s.curWick w).swept 0 false)

/-- MZERO.R (10 R244): as MZERO, and the tile becomes free; a pinned one traps. -/
def execMzeroR (a : BitVec 2) (s : State) : Host.Outcome State Fault Refusal :=
  forArray (.mzeroR a) s fun w =>
    if !mayOwn s w a || (s.curOwner a).pinned then ownershipTrap s a
    else
      let s := s.modTile s.cur.gang s.cur.core a fun _ => Tile.cleared
      wickDone (s.modOwner s.cur.gang s.cur.core a fun _ => Owner.free) w ((s.curWick w).swept 0 false)

/-- The layout of a floating matrix format code (02 R45). -/
def matLayout (code : Nat) : FloatFmt :=
  match code with
  | 0 => fmtBF16 | 1 | 6 => fmtE4M3 | 2 | 7 => fmtE5M2 | 3 => fmtE3M2 | 4 => fmtE2M3 | _ => fmtE2M1

/-- Whether a matrix format code is floating (02 R45). -/
abbrev matFloat (code : Nat) : Bool := code ≤ 8
/-- Whether a matrix format code is an MX format (02 R45). -/
abbrev matMx (code : Nat) : Bool := 6 ≤ code && code ≤ 8

/-- The element width of a matrix format code (12 R281). -/
def matWidth (code : Nat) : Nat :=
  match code with
  | 0 => 16 | 3 | 4 => 6 | 5 | 8 | 11 | 12 => 4 | 13 => 2 | _ => 8

/-- The step width w′ of a matrix format code (10 R232). -/
def matStep (code : Nat) : Nat :=
  match code with
  | 0 => 16 | 5 | 8 | 11 | 12 => 4 | 13 => 2 | _ => 8

/-- The integer value of an element of an integer or T2 code (10 R246, 03 R67). -/
def matInt (code raw : Nat) : Int :=
  match code with
  | 9 => toSigned 8 raw | 11 => toSigned 4 raw | 13 => (t2Value raw).1 | _ => raw

/-- How many k-steps the array takes in one group (10 R231). -/
def matGroupSize (fa fb : Nat) : Nat :=
  let w := max (matStep fa) (matStep fb)
  if fa == 13 then 4 else if w == 16 then 1 else if w == 8 then 2 else 4

/-- The depth K (10 R232). -/
def Wick.depth (W : Wick) (fa fb : Nat) : Nat := W.nrows * W.capBits / (128 * max (matStep fa) (matStep fb))

/-- An operand's element at a k-step and a lane: its bits, and the scale code of its block (127 where there is none). -/
abbrev MatGet := Nat → Nat → Nat × Nat

/-- A register operand: one bit string of its group's rows, the row capacity of bits from each (10 R233). Past its end, which only a joint
step of wicks in different modes reads, the value is free (log 6). -/
def regOperand (rows : List (BitVec 65536)) (cap lanes code : Nat) : MatGet :=
  let a := rows.toArray
  let w := matWidth code
  fun k i =>
    let off := (k * lanes + i) * w
    if off / cap < a.size then (elemAt (a.getD (off / cap) 0) w (off % cap / w), 127) else (Config.freeNat off % 2 ^ w, 127)

/-- The product of two floating elements, exactly (10 R245, 03 R66). -/
def matTerm (fa fb : Nat) (x y : Nat × Nat) : FVal :=
  (mulExact (mxValue (matLayout fa) x.2 x.1) (mxValue (matLayout fb) y.2 y.1)).1

/-- A cell after one group of k-steps (10 R245, 03 R74, R75): the exact sum of the products and the accumulator, rounded once; or the sum
modulo 2^32. -/
def cellGroup (fa fb : Nat) (A B : MatGet) (i j acc : Nat) (ks : List Nat) : Nat :=
  if ks.isEmpty then acc
  else if matFloat fa then
    (roundTo fmtF32 .rne (ks.foldl (fun v k => (addExact .rne v (matTerm fa fb (A k i) (B k j))).1) (decodeFloat fmtF32 acc))).1
  else wrapTo 32 (ks.foldl (fun v k => v + matInt fa (A k i).1 * matInt fb (B k j).1) (acc : Int))

/-- The enabled result rows and columns under a cell mask (10 R235). -/
def enabledCells (W : Wick) (m : BitVec 3) : List Nat × List Nat :=
  let v := W.mask m.toNat
  if m == 0 then (natsFrom 0 128, natsFrom 0 256)
  else ((natsFrom 0 128).filter v.getLsbD, (natsFrom 0 256).filter fun j => v.getLsbD (128 + j))

/-- Whether a k-step is enabled (10 R236). -/
def Wick.kOn (W : Wick) : Nat → Bool :=
  let v := W.mask W.mkReg.toNat
  fun k => W.mkReg == 0 || v.getLsbD ((W.mkBase.toNat + k) % 32768)

/-- The groups of k-steps from `lo` up to `hi`, `p` at a time, the enabled ones of each (10 R236, R245). -/
def kGroups (on : Nat → Bool) (p lo hi : Nat) : List (List Nat) :=
  (natsFrom 0 ((hi - lo + p - 1) / p)).map fun n => (natsFrom (lo + n * p) (min p (hi - (lo + n * p)))).filter on

/-- A tile after some groups of k-steps (10 R245). -/
def tileProduct (fa fb : Nat) (A B : MatGet) (cells : List Nat × List Nat) (groups : List (List Nat)) (T : Tile) : Tile :=
  if groups.all (·.isEmpty) || cells.2.isEmpty then T
  else cells.1.foldl (fun T i =>
    T.setRow i (cells.2.foldl (fun row j => cellPut row j (groups.foldl (fun v ks => cellGroup fa fb A B i j v ks) (cellAt row j)))
      (T.row i))) T

/-- TR when a step from `lo` to `hi` - 1 obtains a reserved T2 code, whatever the cell and step enables hold (03 R67, 10 R245; log 28
DEDUCED). -/
def t2Flag (fa : Nat) (A : MatGet) (lo hi : Nat) : FlagSet :=
  flagIf (fa == 13 && (natsFrom lo (hi - lo)).any fun k => (natsFrom 0 128).any fun i => (A k i).1 == 2) flagTR

/-- K-steps `lo` to `hi` - 1 on one core's tile, over the enabled cells and k-steps (10 R245, R255). -/
def productStep (s : State) (g c : Nat) (w : Fin 8) (a : BitVec 2) (cells : List Nat × List Nat) (on : Nat → Bool) (fa fb lo hi : Nat)
    (A B : MatGet) : State :=
  let s := s.modTile g c a (tileProduct fa fb A B cells (kGroups on (matGroupSize fa fb) lo hi))
  s.modWick g c w fun W => { W with th := { W.th with fflags := W.th.fflags ||| t2Flag fa A lo hi } }

/-- The checks of a k-stepped form on register groups, and its operands' registers (10 R243 checks 1 and 2). -/
def regGroups (W : Wick) (x y : Reg) : Option (List Nat × List Nat) := do
  let ga ← W.group? x
  let gb ← W.wide? y
  pure (ga, gb)

/-- A k-stepped form on register groups (10 R245): checks, ownership, then every k-step; on a joined tile it waits for the other cores
before the checks that follow the agreement of the four (10 R243, R255). -/
def regProduct (s : State) (i : Instr) (a : BitVec 2) (x y : Reg) (m : BitVec 3) (fa fb : Nat) : Host.Outcome State Fault Refusal :=
  forArray i s fun w =>
    let W := s.curWick w
    let t := s.cur
    if W.vstart.toNat % 16 != 0 then trapNext s t .illegal (wordOf i)
    else if isJoined s a then .next (s.setWait t (.joint i))
    else match regGroups W x y with
    | none => trapNext s t .illegal (wordOf i)
    | some (ga, gb) =>
      if !mayOwn s w a then ownershipTrap s a
      else
        let k := W.depth fa fb
        let s := takeTile s w a
        let s := s.modCurCore fun C => { C with resident := a.toFin }
        let s :=
          if W.vstart.toNat ≥ k then s
          else
            productStep s t.gang t.core w a (enabledCells W m) W.kOn fa fb W.vstart.toNat k (regOperand (ga.map W.reg) W.capBits 128 fa)
              (regOperand (gb.map W.reg) W.capBits 256 fb)
        wickDone s w ((s.curWick w).swept 0 false)

/-- MXP.BF16.BF16 (10 R246). -/
def execMxp (a : BitVec 2) (x y : Reg) (m : BitVec 3) (s : State) : Host.Outcome State Fault Refusal :=
  regProduct s (.mxp a x y m) a x y m 0 0

/-- The format codes of MXPI's variant (10 R246). -/
def mxpiCodes (v : BitVec 3) : Nat × Nat :=
  let base := if bitOf v 2 then 11 else 9
  (base + (if bitOf v 0 then 1 else 0), base + (if bitOf v 1 then 1 else 0))

/-- MXPI (10 R246). -/
def execMxpi (a : BitVec 2) (x y : Reg) (m v : BitVec 3) (s : State) : Host.Outcome State Fault Refusal :=
  regProduct s (.mxpi a x y m v) a x y m (mxpiCodes v).1 (mxpiCodes v).2

/-- MTER (10 R247). -/
def execMter (a : BitVec 2) (x y : Reg) (m : BitVec 3) (v : BitVec 1) (s : State) : Host.Outcome State Fault Refusal :=
  regProduct s (.mter a x y m v) a x y m 13 (if v == 1 then 10 else 9)

/-- The starts of the groups of counts (10 R251). -/
def startsOf : List Nat → Nat → List (Nat × Nat)
  | [], _ => []
  | c :: cs, n => (n, c) :: startsOf cs (n + c)

/-- The group that occupies a row, or none (10 R251). -/
def groupAtRow (ss : List (Nat × Nat)) (i : Nat) : Option Nat := (ss.findIdx? fun (n, c) => n ≤ i && i < n + c)

/-- MSEG (10 R251). -/
def execMseg (x y : Reg) (m : BitVec 3) (s : State) : Host.Outcome State Fault Refusal :=
  let i := Instr.mseg x y m
  forArray i s fun w =>
    let W := s.curWick w
    match W.group? x, W.group? y with
    | some gd, some gs =>
      if m == 0 || W.vln > W.cap32 || W.nrows * W.cap32 < 128 then trapNext s s.cur .illegal (wordOf i)
      else
        let read := readGroup W gs 32
        let counts := (natsFrom 0 W.vln).map fun g => read (g / W.cap32) (g % W.cap32)
        let total := counts.foldl (· + ·) 0
        if total > 128 then trapNext s s.cur .illegal (BitVec.ofNat 64 total)
        else
          let ss := startsOf counts 0
          let W' := (natsFrom 0 128).foldl (fun W p =>
            let reg := gd.getD (p / W.cap32) 0
            let e := p % W.cap32
            W.setReg reg (elemSet (W.reg reg) 32 e ((groupAtRow ss p).getD 0xFFFFFFFF)) (32 * (e + 1))) W
          let low : BitVec 32768 := BitVec.ofNat 32768 (2 ^ 384 - 1)
          let bits : BitVec 32768 := BitVec.ofNat 32768 (2 ^ total - 1 + (2 ^ 384 - 2 ^ 128))
          let W' := W'.setMask m.toNat ((tabGet 0 W.masks m.toNat &&& ~~~low) ||| bits)
          wickDone s w (W'.swept 0 false)
    | _, _ => trapNext s s.cur .illegal (wordOf i)

/-- The first cell of a sweep over a tile, from X[xs] (10 R252). -/
def firstCell (v : Word) : Nat := v.toNat % 128 * 256

/-- An exact value where the clamp applies: below zero, or -0, becomes +0 (10 R252). -/
def clampVal (v : FVal) : FVal :=
  match v with
  | .nan _ => v
  | .inf n => if n then .fin false 0 0 else v
  | .fin n _ _ => if n then .fin false 0 0 else v

/-- The value that MRD gives an element (10 R252). -/
def mrdValue (et : Nat) (md : Mode) (int scale clamp : Bool) (f cell : Nat) : Flagged :=
  if int && !scale then
    let v := toSigned 32 cell
    let v := if clamp && v < 0 then 0 else v
    if isIntEt et then satS (etBits et) v else convertVal (etFmt et) md (ofInt v)
  else
    let v := if int then ofInt (toSigned 32 cell) else decodeFloat fmtF32 cell
    let (v, fl) := if scale then mulExact v (decodeFloat fmtF32 f) else (v, 0)
    let v := if clamp then clampVal v else v
    let (r, g) := convertVal (etFmt et) md v
    (r, fl ||| g)

/-- MRD (10 R252). -/
def execMrd (a : BitVec 2) (x y : Reg) (m : BitVec 3) (i r c : BitVec 1) (s : State) : Host.Outcome State Fault Refusal :=
  let ins := Instr.mrd a x y m i r c
  forArray ins s fun w =>
    let W := s.curWick w
    let v := s.getX s.cur y
    match W.group? x with
    | none => trapNext s s.cur .illegal (wordOf ins)
    | some gd =>
      if firstCell v + W.positions > 32768 || !W.maskFits m then trapNext s s.cur .illegal (wordOf ins)
      else if !mayOwn s w a then ownershipTrap s a
      else
        let s := takeTile s w a
        let draws := W.th.rm == 5
        if W.emptySweep then wickDone s w (W.swept 0 draws)
        else
          let T := s.curCore.tiles[a.toFin]
          let (W', fl) := laneSweep W gd W.esize (W.active m) fun r' e =>
            let p := r' * W.vln + e
            let q := firstCell v + p
            some (mrdValue W.et (laneMode W.th p) (i == 1) (r == 1) (c == 1) (v.toNat / 2 ^ 32) (T.cell (q / 256) (q % 256)))
          wickDone s w (W'.swept fl draws)

/-- Cells written in ascending order: cell number and value. -/
def writeCells : List (Nat × Nat) → Tile → Tile
  | [], T => T
  | (q, v) :: l, T => writeCells l (T.setRow (q / 256) (cellPut (T.row (q / 256)) (q % 256) v))

/-- MWR (10 R252). -/
def execMwr (a : BitVec 2) (x y : Reg) (m : BitVec 3) (i : BitVec 1) (s : State) : Host.Outcome State Fault Refusal :=
  let ins := Instr.mwr a x y m i
  forArray ins s fun w =>
    let W := s.curWick w
    let v := s.getX s.cur y
    match W.group? x with
    | none => trapNext s s.cur .illegal (wordOf ins)
    | some gs =>
      if firstCell v + W.positions > 32768 || !W.maskFits m then trapNext s s.cur .illegal (wordOf ins)
      else if !mayOwn s w a then ownershipTrap s a
      else
        let s := takeTile s w a
        let draws := W.th.rm == 5
        if W.emptySweep then wickDone s w (W.swept 0 draws)
        else
          let read := readGroup W gs W.esize
          let dst : NumFmt := if i == 1 then .int 32 true else .float fmtF32
          let outs := (activeList W (W.active m)).map fun p =>
            (firstCell v + p, convert (etFmt W.et) dst (laneMode W.th p) (read (p / W.vln) (p % W.vln)))
          let fl := outs.foldl (fun f o => f ||| o.2.2) 0
          let s := s.modTile s.cur.gang s.cur.core a (writeCells (outs.map fun o => (o.1, o.2.1)))
          wickDone s w (W.swept fl draws)

/-- Whether another wick of the core waits in an MWAIT: the array class has no room for a second one (05 R109, 10 R239). -/
def otherMwait (s : State) (t : Tid) (w : Fin 8) : Bool :=
  (List.finRange 8).any fun k => k != w && match (s.wick t.gang t.core k).th.wait with | some (.mwait _) => true | _ => false

/-- MWAIT (10 R253): it issues behind the instruction that holds the array, and waits for its end and for that of a tile fetch left
behind. -/
def execMwait (t : BitVec 4) (s : State) : Host.Outcome State Fault Refusal :=
  forWick (.mwait t) s fun w =>
    if otherMwait s s.cur w then .next s
    else if arrayBusy s s.cur w then .next (s.setWait s.cur (.mwait t))
    else wickDone s w ((s.curWick w).swept 0 false)

/-- MWAIT_END (10 R253): what issued before the MWAIT has ended; nothing that issues after it holds the array before it ends. -/
def execMwaitEnd (t : Tid) (s : State) : Host.Outcome State Fault Refusal :=
  match t.who, (s.thread t).wait with
  | .wick w, some (.mwait _) =>
    if arrayBusy s t w then .next s else .next ((s.modWick t.gang t.core w fun W => { W with vstart := 0 }).done t)
  | _, _ => .next s

end Sys2Proof.Machine
end

