-- ==== Sys2Proof/Machine/TileFetch.lean ====
section
/-! DEFINITION. Tile lines (12 R281 to R283), MXPT's tile fetch (10 R234, R248, R249), and quad mode (10 R254, R255). -/

namespace Sys2Proof.Machine

/-- The sub-tile of a tile line for an element width: rows and k elements (12 R281). -/
def lineShape (w : Nat) : Nat × Nat := if w == 16 then (8, 16) else if w == 4 then (16, 32) else if w == 2 then (32, 32) else (16, 16)

/-- T of a tile line (12 R281). -/
def tileIndex (ten : Tensor) (bidx m0 k0 : Nat) : Nat :=
  let (hM, hK) := lineShape (matWidth ten.fmt)
  (bidx * ((ten.dim1 + hM - 1) / hM) + m0 / hM) * ((ten.dim0 + hK - 1) / hK) + k0 / hK

/-- Whether a row and a k element lie in a slice of the tensor (12 R282). -/
def inTensor (ten : Tensor) (bidx m k : Nat) : Bool := m < ten.dim1 && k < ten.dim0 && bidx / ten.dim2 < ten.dim3

/-- The virtual address of the first byte of a row's elements from k on (12 R282). -/
def tileRowVa (ten : Tensor) (bidx m k : Nat) : Word :=
  ten.base +
    BitVec.ofNat 64 (m * ten.stride1 + bidx % ten.dim2 * ten.stride2 + bidx / ten.dim2 * ten.stride3 + k * matWidth ten.fmt / 8)

/-- How obtaining something for a tile fetch ends: it is there; a failure; a stage-2 miss; no way may be pinned (12 R277). -/
inductive Fetch (α : Type) where
  | ok (v : α) (s : State)
  | fail (c : Cause) (va : Word) (p : FaultPlace) (s : State)
  | miss (m : Miss) (va : Word) (s : State)
  | full (s : State)

/-- Fetches in order: `f` for each item, its results in a list; the first that does not succeed ends them. -/
def fetchAll {α β : Type} (f : State → α → Fetch β) : List α → State → List β → Fetch (List β)
  | [], s, acc => .ok acc.reverse s
  | a :: as, s, acc =>
    match f s a with
    | .ok v s => fetchAll f as s (v :: acc)
    | .fail c va p s => .fail c va p s
    | .miss m va s => .miss m va s
    | .full s => .full s

/-- How a tile fetch reads bytes, with the intermediate pages that they lie in: through Translate, or from pages that it has translated at
issue. -/
abbrev Reader := State → Word → Nat → Fetch (List Byte × List Nat)

/-- An engine's read as a fetch (09 R228, 12 R275): translation, poison or the host's refusal, the bytes. -/
def engineReader (p vf : Nat) : Reader := fun s va n =>
  match xlatRange p vf .read (n / 4096 + 2) s va n [] with
  | .fail c a pl s => .fail c a pl s
  | .miss m a s => .miss m a s
  | .logFull _ s => .full s
  | .ok pcs s =>
    match firstBad s pcs with
    | some (c, a, ipa) => .fail c a { ipa := ipa, place := 0 } s
    | none => let (bs, s) := readRange s vf pcs; .ok (bs, pcs.map fun (_, x, _) => x.ipa / 4096) s

/-- The pieces of a range that lie in translated pages. `fuel` bounds the granules. -/
def pagePieces (pages : List Page) : Nat → Word → Nat → List (Word × Xlat × Nat)
  | 0, _, _ => []
  | fuel + 1, va, n =>
    if n == 0 then []
    else
      let n1 := inGranule va n
      let rest := pagePieces pages fuel (va + BitVec.ofNat 64 n1) (n - n1)
      match pages.find? (·.va == va.toNat / 4096) with
      | some p =>
        (va, { pa := p.pa + va.toNat % 4096, ipa := p.ipage * 4096 + va.toNat % 4096, wch := false, cmp := p.cmp }, n1) :: rest
      | none => rest

/-- A read from pages that have been translated. -/
def pageReader (vf : Nat) (pages : List Page) : Reader := fun s va n =>
  let pcs := pagePieces pages (n / 4096 + 2) va n
  let (bs, s) := readRange s vf pcs
  .ok (bs, pcs.map fun (_, x, _) => x.ipa / 4096) s

/-- The bytes of row `r` of a tile line that its tensor holds, none outside the dimensions (12 R281, R282). -/
def rowSpan (ten : Tensor) (bidx m0 k0 r : Nat) : Option (Word × Nat) :=
  if !inTensor ten bidx (m0 + r) k0 then none
  else
    let w := matWidth ten.fmt
    some (tileRowVa ten bidx (m0 + r) k0, (min (lineShape w).2 (ten.dim0 - k0) * w + 7) / 8)

/-- The bytes of one row of a tile line, with their pages (12 R281, R282): elements outside the dimensions are zero and fetch nothing. -/
def fetchTileRow (ten : Tensor) (bidx m0 k0 : Nat) (rd : Reader) (s : State) (r : Nat) : Fetch (List Byte × List Nat) :=
  let w := matWidth ten.fmt
  let hK := (lineShape w).2
  let size := hK * w / 8
  match rowSpan ten bidx m0 k0 r with
  | none => .ok (List.replicate size 0, []) s
  | some (va, n) =>
    match rd s va n with
    | .ok (bs, ps) s => .ok (leBytes size (leNat bs % 2 ^ (min hK (ten.dim0 - k0) * w)), ps) s
    | o => o

/-- The backing bytes of a tile line, with their pages (12 R282). -/
def fetchTileData (ten : Tensor) (bidx m0 k0 : Nat) (rd : Reader) (s : State) : Fetch (List Byte × List Nat) :=
  match fetchAll (fetchTileRow ten bidx m0 k0 rd) (natsFrom 0 (lineShape (matWidth ten.fmt)).1) s [] with
  | .ok rows s =>
    let bs := rows.flatMap (·.1)
    .ok (bs ++ List.replicate (256 - bs.length) 0, (rows.flatMap (·.2)).eraseDups) s
  | .fail c va p s => .fail c va p s
  | .miss m va s => .miss m va s
  | .full s => .full s

/-- A tile line pinned for a core (10 R249). -/
def L2Line.pinFor (l : L2Line) (g c : Nat) : L2Line := { l with pins := if l.pins.contains (g, c) then l.pins else (g, c) :: l.pins }

/-- A tile line of a VF with an empty mask goes through the bypass buffer of its slice (12 R280): at most one line of the fetch at a time,
pinned until its k-steps are taken; it waits while all four are held. -/
def bypassLine (g c vf tid bidx : Nat) (ten : Tensor) (m0 k0 : Nat) (rd : Reader) (s : State) : Fetch (List Byte) :=
  let tag := L2Tag.tile vf tid bidx m0 k0
  let sl := (tilePlace tid (tileIndex ten bidx m0 k0)).1
  match s.bypass.find? fun l => l.gang == g && l.core == c && l.tag == tag with
  | some l => .ok l.data s
  | none =>
    let others := s.bypass.filter fun l => !(l.gang == g && l.core == c && l.slice == sl)
    if (others.filter (·.slice == sl)).length ≥ 4 then .full s
    else match fetchTileData ten bidx m0 k0 rd s with
    | .ok (data, _) s => .ok data { s with bypass := { slice := sl, gang := g, core := c, tag := tag, data := data } :: others }
    | .fail e va p s => .fail e va p s
    | .miss m va s => .miss m va s
    | .full s => .full s

/-- A tile line obtained and pinned (10 R249, 12 R277, R281 to R283): a line present that is not stale, or that this core pins, is a hit;
otherwise it is filled from its backing memory. A VF with an empty mask keeps nothing (12 R280). -/
def tileLine (g c vf tid bidx : Nat) (ten : Tensor) (m0 k0 : Nat) (rd : Reader) (s : State) : Fetch (List Byte) :=
  let tag := L2Tag.tile vf tid bidx m0 k0
  let (sl, st) := tilePlace tid (tileIndex ten bidx m0 k0)
  match s.l2.find? fun l => l.tag == tag && (!l.stale || l.pins.contains (g, c)) with
  | some l =>
    if l.pins.isEmpty && !mayPin s sl st then .full s
    else .ok l.data { s with l2 := l.pinFor g c :: s.l2.filter fun x => !samePlace x l }
  | none =>
    if (s.vf vf).wayMask == 0 then bypassLine g c vf tid bidx ten m0 k0 rd s
    else if !mayPin s sl st || (chooseWay s vf sl st).isNone then .full s
    else match fetchTileData ten bidx m0 k0 rd s with
    | .ok (data, pages) s =>
      if (chooseWay s vf sl st).isNone then .full s
      else
        .ok data (insertLine s
          { slice := sl, set := st, way := 0, tag := tag, vf := vf
            sectors := Vector.replicate 4 { valid := true, dirty := false, mask := 0xFFFF }, data := data, backing := pages
            pins := [(g, c)], stale := false, prefetched := none, inflight := false, cmp := false })
    | .fail e va p s => .fail e va p s
    | .miss m va s => .miss m va s
    | .full s => .full s

/-- The virtual address of the scale of a row's block of 32 k elements (12 R282). -/
def scaleVa (ten : Tensor) (bidx m k : Nat) : Word :=
  ten.scalebase +
    BitVec.ofNat 64 (((bidx / ten.dim2 * ten.dim2 + bidx % ten.dim2) * ten.dim1 + m) * ((ten.dim0 + 31) / 32) + k / 32)

/-- The scale codes of some rows for the block of a k element; 127 outside the tensor (10 R234, 12 R282). -/
def fetchScales (r : TileRef) (k lanes : Nat) (rd : Reader) (s : State) : Fetch (List Nat) :=
  if !matMx r.ten.fmt then .ok [] s
  else
    fetchAll (fun s m =>
      if !inTensor r.ten r.bidx m k then .ok 127 s
      else match rd s (scaleVa r.ten r.bidx m k) 1 with
        | .ok (bs, _) s => .ok (leNat bs) s
        | .fail c va p s => .fail c va p s
        | .miss m va s => .miss m va s
        | .full s => .full s) (natsFrom r.morg lanes) s []

/-- A supplier of an operand: its core, its wick, the operand, its format code and its lanes. -/
structure Supply where
  core : Nat
  wick : Fin 8
  op : MatOperand
  code : Nat
  lanes : Nat

/-- The first rows of the tile lines that hold some lanes of an operand at a k element (10 R234, 12 R281). -/
def TileRef.lineRows (r : TileRef) (lanes kl : Nat) : List Nat :=
  let hM := (lineShape (matWidth r.ten.fmt)).1
  let m0 := r.morg / hM * hM
  ((natsFrom 0 ((r.morg + lanes - m0 + hM - 1) / hM)).map fun n => m0 + n * hM).filter fun m => inTensor r.ten r.bidx m kl

/-- The operand of a supplier over k-steps `lo` to `hi` - 1, which lie in one tile line's k elements (10 R233, R234, R249). `get` obtains
a tile line. -/
def supplyChunk (lo : Nat) (rd : Reader) (get : TileRef → Nat → Nat → State → Fetch (List Byte)) (s : State) (u : Supply) : Fetch MatGet :=
  match u.op with
  | .reg rows cap => .ok (regOperand rows cap u.lanes u.code) s
  | .tile r =>
    let w := matWidth u.code
    let (hM, hK) := lineShape w
    let kk := r.k0 + lo
    let kl := kk / hK * hK
    match fetchAll (fun s m =>
        match get r m kl s with
        | .ok bs s => .ok (m, leNat bs) s
        | .fail c va pl s => .fail c va pl s
        | .miss e va s => .miss e va s
        | .full s => .full s) (r.lineRows u.lanes kl) s [] with
    | .fail c va pl s => .fail c va pl s
    | .miss e va s => .miss e va s
    | .full s => .full s
    | .ok lines s =>
      match fetchScales r kk u.lanes rd s with
      | .fail c va pl s => .fail c va pl s
      | .miss e va s => .miss e va s
      | .full s => .full s
      | .ok scales s =>
        let sc := scales.toArray
        .ok (fun k i =>
          let m := r.morg + i
          let k := r.k0 + k
          if !inTensor r.ten r.bidx m k then (0, 127)
          else
            let bit := (m % hM * hK + k % hK) * w
            (tabGet 0 lines (m / hM * hM) / 2 ^ bit % 2 ^ w, sc.getD i 127)) s

/-- Whether an operand has taken its last k-step of a tile line once the steps below `hi` are taken (10 R249). -/
def MatOperand.past (o : MatOperand) (hi : Nat) : L2Tag → Bool
  | .tile _ tid bidx _ kl => match o with
    | .tile r => r.tid != tid || r.bidx != bidx || kl + (lineShape (matWidth r.ten.fmt)).2 ≤ r.k0 + hi
    | .reg .. => true
  | .linear _ => true

/-- A member of a product: a core with the wick whose tile takes part, and which suppliers feed it. -/
structure Member where
  core : Nat
  wick : Fin 8
  a : Nat
  b : Nat

/-- A product under way: its instruction, tile, cell-mask field, format codes, depth, suppliers and members. -/
structure MatJob where
  instr : Instr
  gang : Nat
  tile : BitVec 2
  mask : BitVec 3
  fa : Nat
  fb : Nat
  depth : Nat
  sa : List Supply
  sb : List Supply
  members : List Member

/-- The pins of every core of a job end (10 R249). -/
def MatJob.unpin (j : MatJob) (s : State) : State := j.members.foldl (fun s m => Machine.unpin s j.gang m.core) s

/-- The pins end of the lines whose last k-step lies below `hi` (10 R249). -/
def MatJob.unpinPast (j : MatJob) (s : State) (hi : Nat) : State :=
  j.members.foldl (fun s m => unpinWhere s j.gang m.core fun tag => (j.sa ++ j.sb).all fun u => u.core != m.core || u.op.past hi tag) s

/-- vstart of every member. -/
def MatJob.setVstart (j : MatJob) (s : State) (k : Nat) : State :=
  j.members.foldl (fun s m => s.modWick j.gang m.core m.wick fun W => { W with vstart := BitVec.ofNat 18 k }) s

/-- Every member traps with one cause and value (10 R249, R255); a joined tile dissolves (10 R256). -/
def MatJob.trapAll (j : MatJob) (s : State) (c : Cause) (va : Word) : State :=
  let s := j.members.foldl (fun s m => wickFault s j.gang m.core m.wick c va) s
  match j.members with
  | m :: _ :: _ => dissolve s j.gang m.core
  | [m] => if joinedTile s j.gang m.core == some j.tile.toFin then dissolve s j.gang m.core else s
  | [] => s

/-- The end of a fetch that fails at k-step `k` (10 R249): traps, and a fault record of the supplier's engine (09 R221). -/
def MatJob.failAt (j : MatJob) (s : State) (u : Supply) (k : Nat) (c : Cause) (va : Word) (p : FaultPlace) : State :=
  let s := j.unpin (j.setVstart s k)
  let r := faultRec s j.gang u.core (.wick u.wick) true c va .read p
  pushFault (j.trapAll s c va) (s.gang j.gang).vf r

/-- A supplier's wick waits inside its array instruction, which goes on at k-step `k` with the operands that it read at issue (10 R249,
12 R288). -/
def MatJob.waitAt (j : MatJob) (s : State) (u : Supply) (k : Nat) (x : Wait) : State :=
  (j.setVstart s k).setWait { gang := j.gang, core := u.core, who := .wick u.wick } x

/-- The operands of a chunk from each supplier in turn, or the state in which the fetch has stopped. Of several lines and scales of one
k-step that fail the first to be asked for gives the cause and the value: operand A before B, of each its lines before its scales,
rows ascending (DESIGN CHOICE, log 28). -/
def MatJob.gather (j : MatJob) (vf k : Nat) : List Supply → State → List MatGet → Except State (List MatGet × State)
  | [], s, acc => .ok (acc.reverse, s)
  | u :: us, s, acc =>
    let rd := engineReader ((s.gang j.gang).pcore u.core) vf
    match supplyChunk k rd (fun r m kl s => tileLine j.gang u.core vf r.tid r.bidx r.ten m kl rd s) s u with
    | .ok v s => j.gather vf k us s (v :: acc)
    | .fail c va p s => .error (j.failAt s u k c va p)
    | .miss m va s => let (w, s) := raiseMiss s vf va .read m; .error (j.waitAt s u k (.page w))
    | .full s => .error (j.waitAt s u k .tile)

/-- Where an operand gives nothing. -/
def noOperand : MatGet := fun _ _ => (0, 127)

/-- A product from k-step `k` on, sixteen k-steps at a time, the lines of each obtained before they are taken (10 R245, R249). -/
def MatJob.run (j : MatJob) (vf : Nat) : Nat → State → Nat → State
  | 0, s, _ => s
  | fuel + 1, s, k =>
    if k ≥ j.depth then
      let s := j.setVstart (j.unpin s) 0
      j.members.foldl (fun s m => s.done { gang := j.gang, core := m.core, who := .wick m.wick }) s
    else
      let hi := min (k + 16) j.depth
      match j.gather vf k (j.sa ++ j.sb) s [] with
      | .error s => s
      | .ok (gets, s) =>
        let s := j.members.foldl (fun s m =>
          let W := s.wick j.gang m.core m.wick
          productStep s j.gang m.core m.wick j.tile (enabledCells W j.mask) W.kOn j.fa j.fb k hi (gets.getD m.a noOperand)
            (gets.getD (j.sa.length + m.b) noOperand)) s
        j.run vf fuel (j.unpinPast s hi) hi

/-- The pairs of formats that MXPT accepts, register operands as 10 R248 limits them. -/
def mxptPair (sel : BitVec 2) (fa fb : Nat) : Bool :=
  let ra := !bitOf sel 0
  let rb := !bitOf sel 1
  if fa ≤ 8 && fb ≤ 8 then (!ra || fa == 0) && (!rb || fb == 0)
  else if fa == 9 || fa == 10 then fb == 9 || fb == 10
  else if fa == 11 || fa == 12 then fb == 11 || fb == 12
  else fa == 13 && (fb == 9 || fb == 10)

/-- A tile operand of MXPT from its x value, for a VF and a format code: tensor-id, then misaligned (10 R248). -/
def tileRef (s : State) (vf : Nat) (code : Nat) (x : Word) : Except Cause TileRef :=
  let tid := x.toNat % 2 ^ 13
  if x.toNat / 2 ^ 13 % 8 != 0 || tabGet? s.tensorBlocks (tid / 64) != some vf then .error .tensorId
  else match tabGet? s.tensors tid with
  | none => .error .tensorId
  | some ten =>
    if ten.fmt != code || ten.rank < 2 then .error .tensorId
    else
      let r : TileRef :=
        { tid := tid, bidx := x.toNat / 2 ^ 16 % 2 ^ 16, morg := x.toNat / 2 ^ 32 % 2 ^ 16, k0 := x.toNat / 2 ^ 48, ten := ten }
      if r.k0 % 32 != 0 || r.morg % 16 != 0 then .error .misaligned else .ok r

/-- The operands of a k-stepped form as a wick names them: checks 2 and 5 of 10 R243 have passed, or the trap of the first that fails.
`own` is check 4. -/
def matOperands (s : State) (g c : Nat) (w : Fin 8) : Instr → Except (Cause × Option Word) (MatOperand × MatOperand)
  | .mxpt _ sel x y _ f h =>
    let W := s.wick g c w
    let th := W.th
    let vf := (s.gang g).vf
    let reg (rows : Option (List Nat)) : Except (Cause × Option Word) MatOperand :=
      match rows with
      | some r => .ok (.reg (r.map W.reg) W.capBits)
      | none => .error (.illegal, none)
    let tile (code : Nat) (r : Reg) : Except (Cause × Option Word) MatOperand :=
      match tileRef s vf code (th.getX r) with
      | .ok t => .ok (.tile t)
      | .error e => .error (e, some (th.getX r))
    do
      let a ← if bitOf sel 0 then tile f.toNat x else reg (W.group? x)
      let b ← if bitOf sel 1 then tile h.toNat y else reg (W.wide? y)
      pure (a, b)
  | .mxp _ x y _ | .mxpi _ x y _ _ | .mter _ x y _ _ =>
    let W := s.wick g c w
    match regGroups W x y with
    | some (ga, gb) => .ok (.reg (ga.map W.reg) W.capBits, .reg (gb.map W.reg) W.capBits)
    | none => .error (.illegal, none)
  | _ => .error (.illegal, none)

/-- The format codes, the tile and the cell-mask field of a k-stepped form. -/
def matFields : Instr → Nat × Nat × BitVec 2 × BitVec 3
  | .mxp a _ _ m => (0, 0, a, m)
  | .mxpi a _ _ m v => ((mxpiCodes v).1, (mxpiCodes v).2, a, m)
  | .mter a _ _ m v => (13, if v == 1 then 10 else 9, a, m)
  | .mxpt a _ _ _ m f h => (f.toNat, h.toNat, a, m)
  | _ => (0, 0, 0, 0)

/-- Whether the register operands of an MXPT are aligned (10 R243 check 2). -/
def mxptAligned (W : Wick) (sel : BitVec 2) (x y : Reg) : Bool :=
  (bitOf sel 0 || (W.group? x).isSome) && (bitOf sel 1 || (W.wide? y).isSome)

/-- The bytes that a tile operand's fetch reads over k-steps `lo` to `hi` - 1: rows of its tile lines, and its scales (12 R282). -/
def TileRef.spans (r : TileRef) (lanes lo hi : Nat) : List (Word × Nat) :=
  let (hM, hK) := lineShape (matWidth r.ten.fmt)
  let k0 := (r.k0 + lo) / hK
  let kls := (natsFrom k0 ((r.k0 + hi + hK - 1) / hK - k0)).map (· * hK)
  (kls.flatMap fun kl => (r.lineRows lanes kl).flatMap fun m => (natsFrom 0 hM).filterMap (rowSpan r.ten r.bidx m kl)) ++
    if matMx r.ten.fmt then
      (natsFrom (lo / 32) ((hi + 31) / 32 - lo / 32)).flatMap fun b =>
        ((natsFrom r.morg lanes).filter fun m => inTensor r.ten r.bidx m (r.k0 + 32 * b)).map fun m => (scaleVa r.ten r.bidx m (r.k0 + 32 * b), 1)
    else []

/-- The pages of some spans, translated with kind read; none when one fails, misses or cannot be read (09 R228). -/
def spanPages (p vf : Nat) : List (Word × Nat) → State → List Page → Option (List Page × State)
  | [], s, acc => some (acc, s)
  | (va, n) :: l, s, acc =>
    match xlatRange p vf .read (n / 4096 + 2) s va n [] with
    | .ok pcs s =>
      if (firstBad s pcs).isSome then none
      else
        spanPages p vf l s (pcs.foldl (fun acc (a, x, _) =>
          if acc.any (·.va == a.toNat / 4096) then acc
          else { va := a.toNat / 4096, pa := x.pa - a.toNat % 4096, ipage := x.ipa / 4096, cmp := x.cmp } :: acc) acc)
    | _ => none

/-- The bytes that an operand's fetch reads. -/
def MatOperand.spans (o : MatOperand) (lanes lo hi : Nat) : List (Word × Nat) :=
  match o with
  | .tile r => r.spans lanes lo hi
  | .reg .. => []

/-- An MXPT whose tile fetch the agenda leaves behind: the wick goes on, and the fetch takes its k-steps later, with its operands, its
masks and its pages as they stand now (10 R249, R250, 14 R310; log 3). None when the fetch cannot run to its end as memory stands. -/
def leaveFetch (s : State) (t : Tid) (w : Fin 8) (a : BitVec 2) (m : BitVec 3) (fa fb : Nat) (oa ob : MatOperand) : Option State :=
  let W := s.wick t.gang t.core w
  let depth := W.depth fa fb
  let k := W.vstart.toNat
  if k ≥ depth then none
  else match spanPages (s.pcoreNum t) (s.vfOf t) (oa.spans 128 k depth ++ ob.spans 256 k depth) s [] with
  | none => none
  | some (pages, s) =>
    let cells := enabledCells W m
    let J : TileJob :=
      { wick := w, tile := a, a := oa, b := ob, fa := fa, fb := fb, rows := cells.1, cols := cells.2
        on := (natsFrom k (depth - k)).filter W.kOn, pages := pages, k := k, depth := depth }
    let s := s.modCore t.gang t.core fun C => { C with job := some J }
    some ((s.modWick t.gang t.core w fun W => { W with vstart := 0 }).done t)

/-- The next sixteen k-steps of the tile fetch that a wick of a core has left behind; after the last of them its pins end (10 R249). A line
that finds no way to pin is read without being kept. -/
def jobStep (s : State) (g c : Nat) : State :=
  match (s.core g c).job with
  | none => s
  | some J =>
    let vf := (s.gang g).vf
    let hi := min (J.k + 16) J.depth
    let rd := pageReader vf J.pages
    let get (r : TileRef) (m kl : Nat) (s : State) : Fetch (List Byte) :=
      match tileLine g c vf r.tid r.bidx r.ten m kl rd s with
      | .ok bs s => .ok bs s
      | _ => match fetchTileData r.ten r.bidx m kl rd s with
        | .ok (bs, _) s => .ok bs s
        | .fail e va p s => .fail e va p s
        | .miss e va s => .miss e va s
        | .full s => .full s
    let side (s : State) (o : MatOperand) (code lanes : Nat) : MatGet × State :=
      match supplyChunk J.k rd get s { core := c, wick := J.wick, op := o, code := code, lanes := lanes } with
      | .ok v s => (v, s)
      | _ => (noOperand, s)
    let (A, s) := side s J.a J.fa 128
    let (B, s) := side s J.b J.fb 256
    let s := productStep s g c J.wick J.tile (J.rows, J.cols) J.on.contains J.fa J.fb J.k hi A B
    if hi ≥ J.depth then (unpin s g c).modCore g c fun C => { C with job := none }
    else (unpinWhere s g c fun tag => J.a.past hi tag && J.b.past hi tag).modCore g c fun C => { C with job := some { J with k := hi } }

/-- The rest of the tile fetch that a wick of a core has left behind. -/
def jobAll (s : State) (g c : Nat) : State :=
  match (s.core g c).job with
  | none => s
  | some J => (natsFrom 0 (J.depth / 16 + 1)).foldl (fun s _ => jobStep s g c) s

/-- The product of one core's MXPT, from its wick's vstart on. -/
def tileJob (s : State) (t : Tid) (w : Fin 8) (i : Instr) (a : BitVec 2) (m : BitVec 3) (fa fb : Nat) (oa ob : MatOperand) : MatJob :=
  { instr := i, gang := t.gang, tile := a, mask := m, fa := fa, fb := fb, depth := (s.wick t.gang t.core w).depth fa fb
    sa := [{ core := t.core, wick := w, op := oa, code := fa, lanes := 128 }]
    sb := [{ core := t.core, wick := w, op := ob, code := fb, lanes := 256 }]
    members := [{ core := t.core, wick := w, a := 0, b := 0 }] }

/-- An MXPT that has issued takes its k-steps, with the operands that it read at issue. -/
def runFetch (s : State) (t : Tid) (w : Fin 8) (i : Instr) (a : BitVec 2) (m : BitVec 3) (fa fb : Nat) (oa ob : MatOperand) : State :=
  let j := tileJob s t w i a m fa fb oa ob
  j.run (s.vfOf t) (j.depth / 16 + 2) (s.endWait t) (s.wick t.gang t.core w).vstart.toNat

/-- MXPT (10 R248, R249): checks, ownership, tensors; its tile fetch forks after the wick's earlier accesses (10 R250). One that has issued
goes on with its fetch. -/
def execMxpt (a sel : BitVec 2) (x y : Reg) (m : BitVec 3) (f h : BitVec 4) (s : State) : Host.Outcome State Fault Refusal :=
  let i := Instr.mxpt a sel x y m f h
  forArray i s fun w =>
    let t := s.cur
    let W := s.curWick w
    match W.fetch with
    | some F =>
      if F.joint then .next ((s.endWait t).setWait t (.joint i))
      else .next (runFetch s t w i a m f.toNat h.toNat F.a F.b)
    | none =>
    if !mxptPair sel f.toNat h.toNat || W.vstart.toNat % 16 != 0 then trapNext s t .illegal (wordOf i)
    else if isJoined s a then .next (s.setWait t (.joint i))
    else if !mxptAligned W sel x y then trapNext s t .illegal (wordOf i)
    else if !mayOwn s w a then ownershipTrap s a
    else match matOperands s t.gang t.core w i with
    | .error (c, v) => trapNext s t c (v.getD (wordOf i))
    | .ok (oa, ob) =>
      let s := flushStores ((takeTile s w a).modCurCore fun C => { C with resident := a.toFin }) t
      let now := runFetch (s.modCur w fun W => { W with fetch := some { instr := i, a := oa, b := ob, joint := false } }) t w i a m f.toNat h.toNat oa ob
      .next (if s.late then (leaveFetch s t w a m f.toNat h.toNat oa ob).getD now else now)

/-- The wick of a core that waits in an MQUAD, with its form and tile. -/
def quadWaiter (s : State) (g c : Nat) : Option (Fin 8 × Bool × Fin 4) :=
  (List.finRange 8).findSome? fun w =>
    match (s.wick g c w).th.wait with
    | some (.mquad j a) => some (w, j, a)
    | _ => none

/-- The wick of a core that waits in a joint step, with its instruction. -/
def jointWaiter (s : State) (g c : Nat) : Option (Fin 8 × Instr) :=
  (List.finRange 8).findSome? fun w =>
    match (s.wick g c w).th.wait with
    | some (.joint i) => some (w, i)
    | _ => none

/-- Whether every core of a quad takes part in quad mode: started and not halted (10 R254, R256). -/
def quadWhole (s : State) (g c : Nat) : Bool :=
  (quadCores c).all fun k => k ≤ (s.gang g).desc.ncm1.toNat && (s.core g k).taper.run == .running

/-- MQUAD.J (10 R254, 11 R258): the checks of its own, then the wait for the other three cores. -/
def execMquadJ (a : BitVec 2) (s : State) : Host.Outcome State Fault Refusal :=
  let i := Instr.mquadJ a
  forArray i s fun _ =>
    let t := s.cur
    if (joinedTile s t.gang t.core).isSome || !quadWhole s t.gang t.core || (s.curOwner a).vigil then
      trapNext s t .illegal (wordOf i)
    else .next (s.setWait t (.mquad true a.toFin))

/-- MQUAD.L (10 R254): on the joined tile only. -/
def execMquadL (a : BitVec 2) (s : State) : Host.Outcome State Fault Refusal :=
  let i := Instr.mquadL a
  forArray i s fun _ =>
    let t := s.cur
    if !isJoined s a then trapNext s t .illegal (wordOf i)
    else .next (s.setWait t (.mquad false a.toFin))

/-- Each of some waiting members traps when it fails a check of its own that follows the agreement of the four; the state, and whether none
has (10 R243). `check` gives a member's trap. -/
def memberTraps (g : Nat) (check : Nat → Fin 8 → Option (Cause × Word)) : List (Nat × Fin 8) → State → State × Bool
  | [], s => (s, true)
  | (c, w) :: l, s =>
    match check c w with
    | some (e, v) =>
      if (s.wick g c w).quadInstr.isNone then ((memberTraps g check l s).1, false)
      else ((memberTraps g check l (trap s { gang := g, core := c, who := .wick w } e v)).1, false)
    | none => memberTraps g check l s

/-- MQUAD_RENDEZVOUS (10 R254): the four cores of a quad have issued it. Wicks that name different tiles trap, all four; one that may not
own the tile traps ownership (10 R243 check 4); otherwise the wicks own the tile (10 R237), which joins or dissolves. -/
def execMquadRendezvous (g q : Nat) (s : State) : Host.Outcome State Fault Refusal :=
  let cores := quadCores (4 * q)
  let ws := cores.filterMap fun c => (quadWaiter s g c).map fun x => (c, x)
  match ws with
  | (_, (_, join, a)) :: _ =>
    if ws.length != 4 then .next s
    else if ws.all fun x => x.2.2 == (join, a) then
      let tile := BitVec.ofNat 2 a.val
      match memberTraps g (fun c w => if mayOwnIn s g c w tile then none else some (.ownership, tile.zeroExtend 64))
          (ws.map fun x => (x.1, x.2.1)) s with
      | (s', false) => .next s'
      | (_, true) =>
        let s := s.modGang g fun G => { G with quadMode := tabPut G.quadMode q { joined := if join then some a else none } }
        .next (ws.foldl (fun s (c, w, _) =>
          ((takeTileIn s g c w tile).modWick g c w fun W => { W with vstart := 0 }).done
            { gang := g, core := c, who := .wick w }) s)
    else
      let s := ws.foldl (fun s (c, w, j, b) =>
        wickFault s g c w .illegal (wordOf (if j then .mquadJ (BitVec.ofNat 2 b.val) else .mquadL (BitVec.ofNat 2 b.val)))) s
      .next (dissolve s g (4 * q))
  | [] => .next s

/-- What the members of a joint step must agree in (10 R255). -/
def jointKey (W : Wick) (i : Instr) : Instr × BitVec 4 × BitVec 4 × BitVec 15 × BitVec 3 × BitVec 18 :=
  (i, W.vrows, W.vlcapLg, W.mkBase, W.mkReg, W.vstart)

/-- The trap of a member of a joint step whose four members agree: alignment, ownership, tensor (10 R243 checks 2, 4 and 5). -/
def jointTrap (s : State) (g c : Nat) (w : Fin 8) (i : Instr) : Option (Cause × Word) :=
  let W := s.wick g c w
  let a := (matFields i).2.2.1
  let aligned : Bool := match i with
    | .mxpt _ sel x y _ _ _ => mxptAligned W sel x y
    | .mxp _ x y _ | .mxpi _ x y _ _ | .mter _ x y _ _ => (regGroups W x y).isSome
    | _ => true
  if W.fetch.isSome then none
  else if !aligned then some (.illegal, wordOf i)
  else if !mayOwnIn s g c w a then some (.ownership, a.zeroExtend 64)
  else match matOperands s g c w i with
  | .error (e, v) => some (e, v.getD (wordOf i))
  | .ok _ => none

/-- The operands of a member of a joint step: as read when the step began, or as they stand (12 R288). -/
def jointOperands (s : State) (g c : Nat) (w : Fin 8) (i : Instr) : MatOperand × MatOperand :=
  match (s.wick g c w).fetch with
  | some F => (F.a, F.b)
  | none => match matOperands s g c w i with
    | .ok o => o
    | .error _ => (.reg [] 1, .reg [] 1)

/-- JOINT_STEP (10 R255): the four members have issued; those that disagree trap illegal, all four; one that fails a later check traps alone
(10 R243); core q takes A from qcore 2 × (q div 2) and B from qcore q mod 2. -/
def execJointStep (g q : Nat) (s : State) : Host.Outcome State Fault Refusal :=
  let cores := quadCores (4 * q)
  let ws := cores.filterMap fun c => (jointWaiter s g c).map fun x => (c, x.1, x.2)
  match ws with
  | (c0, w0, i) :: _ =>
    if ws.length != 4 then .next s
    else
      let (fa, fb, a, m) := matFields i
      let wick (k : Nat) : Fin 8 := (ws.getD k (c0, w0, i)).2.1
      let W0 := s.wick g c0 w0
      let members : List Member := (natsFrom 0 4).map fun k => { core := 4 * q + k, wick := wick k, a := k / 2, b := k % 2 }
      let job (sa sb : List Supply) : MatJob :=
        { instr := i, gang := g, tile := a, mask := m, fa := fa, fb := fb, depth := W0.depth fa fb, sa := sa, sb := sb
          members := members }
      if !ws.all fun x => jointKey (s.wick g x.1 x.2.1) x.2.2 == jointKey W0 i then
        .next ((job [] []).trapAll ((job [] []).unpin s) .illegal (wordOf i))
      else match memberTraps g (fun c w => jointTrap s g c w i) (ws.map fun x => (x.1, x.2.1)) s with
      | (s', false) => .next s'
      | (_, true) =>
        let op (k : Nat) : MatOperand × MatOperand := jointOperands s g (4 * q + k) (wick k) i
        let sup (k : Nat) (o : MatOperand) (code lanes : Nat) : Supply :=
          { core := 4 * q + k, wick := wick k, op := o, code := code, lanes := lanes }
        let j := job [sup 0 (op 0).1 fa 128, sup 2 (op 2).1 fa 128] [sup 0 (op 0).2 fb 256, sup 1 (op 1).2 fb 256]
        let s := members.foldl (fun s k => flushStores s { gang := g, core := k.core, who := .wick k.wick }) s
        let s := (members.zip (natsFrom 0 4)).foldl (fun s (k, n) =>
          ((takeTileIn s g k.core k.wick a).modCore g k.core fun C => { C with resident := a.toFin }).modWick g k.core k.wick fun W =>
            { W with fetch := some { instr := i, a := (op n).1, b := (op n).2, joint := true } }) s
        .next (j.run (s.gang g).vf (j.depth / 16 + 2) s W0.vstart.toNat)
  | [] => .next s

/-- Whether a tile operand's block holds a tile line (10 R234, 12 R281). -/
def TileRef.holds (r : TileRef) (lanes depth tid bidx m0 k0 : Nat) : Bool :=
  let (hM, hK) := lineShape (matWidth r.ten.fmt)
  r.tid == tid && r.bidx == bidx && m0 % hM == 0 && k0 % hK == 0 && m0 < r.morg + lanes && r.morg < m0 + hM && k0 < r.k0 + depth &&
  r.k0 < k0 + hK && inTensor r.ten bidx m0 k0

/-- The operand of a waiting MXPT that needs a tile line, if there is one. -/
def lineWanted (s : State) (g c : Nat) (w : Fin 8) (tid bidx m0 k0 : Nat) : Option TileRef :=
  let W := s.wick g c w
  match W.fetch with
  | some F =>
    let (fa, fb, _, _) := matFields F.instr
    let pick (o : MatOperand) (lanes : Nat) : Option TileRef :=
      match o with
      | .tile r => if r.holds lanes (W.depth fa fb) tid bidx m0 k0 then some r else none
      | .reg .. => none
    (pick F.a 128).orElse fun _ => pick F.b 256
  | none => none

/-- TILE_LINE_FILL (10 R249, 12 R281 to R283): a line that waiting tile fetches of a VF want arrives and is pinned for the first of them;
when it cannot be had, that MXPT is tried again, and ends if the line is the one that it waits for. -/
def execTileLineFill (vf tid bidx m0 k0 : Nat) (s : State) : Host.Outcome State Fault Refusal :=
  let all : List (Nat × Nat × Fin 8) := s.gangs.flatMap fun (g, G) =>
    if G.vf == vf && G.life == .running then G.cores.flatMap fun (c, _) => (List.finRange 8).map fun w => (g, c, w) else []
  match all.findSome? fun (g, c, w) => (lineWanted s g c w tid bidx m0 k0).map fun r => (g, c, w, r) with
  | none => .next s
  | some (g, c, w, r) =>
    match tileLine g c vf tid bidx r.ten m0 k0 (engineReader ((s.gang g).pcore c) vf) s with
    | .ok _ s => .next s
    | .miss .. | .full .. => .next s
    | .fail .. =>
      match (s.wick g c w).fetch with
      | some { instr := .mxpt a sel x y m f h, joint := false, .. } =>
        let t : Tid := { gang := g, core := c, who := .wick w }
        match execMxpt a sel x y m f h { s with cur := t } with
        | .next s' => .next { s' with cur := s.cur }
        | o => o
      | _ => .next s

end Sys2Proof.Machine
end

