-- ==== Sys2Proof/Machine/Vigil.lean ====
section
/-! DEFINITION. Vigil tiles (11 R257 to R270): pinning, the delta rule, and spill images. -/

namespace Sys2Proof.Machine

/-- A VIG form other than MPIN: its trap on a joined tile comes first (11 R261 check 1). -/
def forVigil (i : Instr) (a : BitVec 2) (s : State) (k : Fin 8 → Host.Outcome State Fault Refusal) :
    Host.Outcome State Fault Refusal :=
  forArray i s fun w => if isJoined s a then trapNext s s.cur .illegal (wordOf i) else k w

/-- MPIN (11 R262). -/
def execMpin (a : BitVec 2) (x : Reg) (s : State) : Host.Outcome State Fault Refusal :=
  let i := Instr.mpin a x
  forArray i s fun w =>
    let v := s.getX s.cur x
    if v.toNat / 2 ^ 15 != 0 then trapNext s s.cur .illegal v
    else if isJoined s a then trapNext s s.cur .illegal (wordOf i)
    else if !mayOwn s w a then ownershipTrap s a
    else if (s.curOwner a).vigil then trapNext s s.cur .illegal (wordOf i)
    else
      let s := s.modOwner s.cur.gang s.cur.core a fun _ =>
        { owner := some w, pinned := true, vigil := true, dk := v.extractLsb' 0 8 |>.setWidth 9 |> (· + 1)
          dv := v.extractLsb' 8 7 |>.setWidth 8 |> (· + 1), tokens := 0, hidx := 0, handle := 0 }
      wickDone s w ((s.curWick w).swept 0 false)

/-- Check 4 of MUNPIN, MDELTA and MREADQ, and check 5 (11 R261): the tile must be a vigil of this wick. -/
def vigilOwned (i : Instr) (a : BitVec 2) (s : State) (w : Fin 8) (k : Host.Outcome State Fault Refusal) :
    Host.Outcome State Fault Refusal :=
  if !mayOwn s w a then ownershipTrap s a
  else if (s.curOwner a).owner.isNone || !(s.curOwner a).vigil then trapNext s s.cur .illegal (wordOf i)
  else k

/-- MUNPIN (11 R263). -/
def execMunpin (a : BitVec 2) (s : State) : Host.Outcome State Fault Refusal :=
  let i := Instr.munpin a
  forVigil i a s fun w =>
    vigilOwned i a s w
      (let s := s.modOwner s.cur.gang s.cur.core a fun _ => { Owner.free with owner := some w }
       wickDone s w ((s.curWick w).swept 0 false))

/-- Element `p` of the bit string of a group, a row capacity of elements from each register (11 R264). -/
def linearElem (W : Wick) (regs : List Nat) : Nat → Nat :=
  let rows := (regs.map W.reg).toArray
  let c := W.cap
  let w := W.esize
  fun p => elemAt (rows.getD (p / c) 0) w (p % c)

/-- The exact sum of products of a row's cells with a vector, over the first `dk` columns; a zero sum has the sign of 03 R74. -/
def dotRow (row : BitVec 8192) (k : Nat → FVal) (dk : Nat) : FVal :=
  match (natsFrom 0 dk).map fun j => (mulExact (decodeFloat fmtF32 (cellAt row j)) (k j)).1 with
  | [] => .fin false 0 0
  | v :: vs => vs.foldl (fun x y => (addExact .rne x y).1) v

/-- An exact value rounded to F32 under RNE, as a value (11 R264). -/
def roundF32 (v : FVal) : FVal := decodeFloat fmtF32 (roundTo fmtF32 .rne v).1

/-- One row of the state after a token (11 R264): u, w, then every cell. -/
def deltaRow (al be : FVal) (k : Nat → FVal) (v : FVal) (dk : Nat) (row : BitVec 8192) : BitVec 8192 :=
  let u := roundF32 (dotRow row k dk)
  let w := roundF32 (addExact .rne (mulExact be v).1 (mulExact (mulExact al be).1 u).1.negate).1
  (natsFrom 0 dk).foldl (fun r j =>
    cellPut r j (roundTo fmtF32 .rne (addExact .rne (mulExact al (decodeFloat fmtF32 (cellAt row j))).1 (mulExact w (k j)).1).1).1) row

/-- The outputs of a token from the state's rows: position and value (11 R264, R265). -/
def readOut (W : Wick) (dk dv t : Nat) (q : Nat → Nat) (T : Tile) : List (Nat × Flagged) :=
  let F := floatOf W.et
  (natsFrom 0 (min dv 128)).map fun i =>
    (t * 128 + i, roundTo F (laneMode W.th (t * 128 + i)) (dotRow (T.row i) (fun j => decodeFloat F (q (t * 256 + j))) dk))

/-- Tokens from `t` on applied to a tile, with the outputs of each (11 R264). -/
def deltaTokens (W : Wick) (dk dv : Nat) (al be : FVal) (key val : Nat → Nat) (query : Option (Nat → Nat)) :
    Nat → Nat → Tile → List (Nat × Flagged) → Tile × List (Nat × Flagged)
  | 0, _, T, out => (T, out)
  | n + 1, t, T, out =>
    let F := floatOf W.et
    let k (j : Nat) : FVal := decodeFloat F (key (t * 256 + j))
    let T := (natsFrom 0 (min dv 128)).foldl (fun T i =>
      T.setRow i (deltaRow al be k (decodeFloat F (val (t * 128 + i))) dk (T.row i))) T
    let o := match query with
      | some q => readOut W dk dv t q T
      | none => []
    deltaTokens W dk dv al be key val query n (t + 1) T (out ++ o)

/-- Outputs written to their positions of a group (11 R265), with their flags. -/
def writeLinear (regs : List Nat) (c w : Nat) : List (Nat × Flagged) → Wick → FlagSet → Wick × FlagSet
  | [], W, fl => (W, fl)
  | (p, v, f) :: os, W, fl =>
    let reg := regs.getD (p / c) 0
    writeLinear regs c w os (W.setReg reg (elemSet (W.reg reg) w (p % c) v) (w * (p % c + 1))) (fl ||| f)

/-- rctr after outputs that draw: vl × 128 further (11 R264, R265). -/
def Wick.drewTokens (W : Wick) (fl : FlagSet) (draws : Bool) : Wick :=
  let W := W.swept fl false
  { W with th := { W.th with rctr := if draws && W.th.rm == 5 then W.th.rctr + BitVec.ofNat 64 (W.vln * 128) else W.th.rctr } }

/-- The delta rule with or without a query (11 R261, R264, R265). -/
def delta (i : Instr) (a : BitVec 2) (x y c : Reg) (z : Option Reg) (s : State) : Host.Outcome State Fault Refusal :=
  forVigil i a s fun w =>
    let t := s.cur
    let W := s.curWick w
    let gq : Option (List Nat) := match z with | some q => W.wide? q | none => some []
    match W.wide? x, W.group? y, gq with
    | some gk, some gv, some gq =>
      if !isFloatEt W.et || W.vln > W.nrows * W.cap / 128 then trapNext s t .illegal (wordOf i)
      else if shares gv gk || shares gv gq then trapNext s t .groupOverlap (wordOf i)
      else vigilOwned i a s w
        (let o := s.curOwner a
         let al := decodeFloat fmtF32 ((s.getX t c).toNat % 2 ^ 32)
         let be := decodeFloat fmtF32 ((s.getX t (c + 1)).toNat % 2 ^ 32)
         let (T, out) := deltaTokens W (min o.dk.toNat 256) o.dv.toNat al be (linearElem W gk) (linearElem W gv)
           (z.map fun _ => linearElem W gq) W.vln 0 s.curCore.tiles[a.toFin] []
         let (W', fl) := writeLinear gv W.cap W.esize out W 0
         let s := s.modCurCore fun C => { C with resident := a.toFin }
         let s :=
           if W.vln == 0 then s
           else (s.modTile t.gang t.core a fun _ => T).modOwner t.gang t.core a fun o =>
             { o with tokens := o.tokens + BitVec.ofNat 64 W.vln, hidx := o.hidx + 1 }
         wickDone s w (W'.drewTokens fl z.isSome))
    | _, _, _ => trapNext s t .illegal (wordOf i)

/-- MDELTA (11 R264). -/
def execMdelta (a : BitVec 2) (x y c : Reg) (s : State) : Host.Outcome State Fault Refusal := delta (.mdelta a x y c) a x y c none s

/-- MDELTA.Q (11 R264, R265). -/
def execMdeltaQ (a : BitVec 2) (x y c z : Reg) (s : State) : Host.Outcome State Fault Refusal :=
  delta (.mdeltaQ a x y c z) a x y c (some z) s

/-- MREADQ (11 R265). -/
def execMreadq (a : BitVec 2) (x y : Reg) (s : State) : Host.Outcome State Fault Refusal :=
  let i := Instr.mreadq a x y
  forVigil i a s fun w =>
    let t := s.cur
    let W := s.curWick w
    match W.wide? x, W.group? y with
    | some gq, some go =>
      if !isFloatEt W.et || W.vln > W.nrows * W.cap / 128 then trapNext s t .illegal (wordOf i)
      else if shares go gq then trapNext s t .groupOverlap (wordOf i)
      else vigilOwned i a s w
        (let o := s.curOwner a
         let T := s.curCore.tiles[a.toFin]
         let q := linearElem W gq
         let out := (natsFrom 0 W.vln).flatMap fun n => readOut W (min o.dk.toNat 256) o.dv.toNat n q T
         let (W', fl) := writeLinear go W.cap W.esize out W 0
         wickDone (s.modCurCore fun C => { C with resident := a.toFin }) w (W'.drewTokens fl true))
    | _, _ => trapNext s t .illegal (wordOf i)

/-- The bytes of a tile row (11 R267). -/
def tileRowBytes (T : Tile) (i : Nat) : List Byte := leBytes 1024 (T.row i).toNat

/-- The cells of a tile as a spill image holds them (11 R267). -/
def tileBytes (T : Tile) : List Byte := (natsFrom 0 128).flatMap (tileRowBytes T)

/-- Header bytes 0 to 223 of a spill image (11 R267). -/
def spillFront (s : State) (g c : Nat) (a : Fin 4) (w : Fin 8) (evict : Bool) (handle : Word) : List Byte :=
  let o := (s.core g c).owners[a]
  let n (b : Bool) (v : Nat) : Nat := if b then v else 0
  leBytes 4 0x56494731 ++ leBytes 2 1 ++ leBytes 2 ((if o.vigil then 1 else 0) + (if o.pinned then 2 else 0) + (if evict then 4 else 0)) ++
  leBytes 2 (s.gang g).desc.gtag.toNat ++ leBytes 1 c ++ leBytes 1 w.val ++ leBytes 1 ((s.gang g).pcore c) ++
  leBytes 1 (n o.vigil (o.dk.toNat - 1)) ++ leBytes 1 (n o.vigil (o.dv.toNat - 1)) ++ leBytes 1 a.val ++
  leBytes 8 (n o.vigil o.tokens.toNat) ++ leBytes 4 (n o.vigil o.hidx.toNat) ++ leBytes 4 0 ++ leBytes 8 handle.toNat ++
  List.replicate 184 0

/-- The header of a spill image: its front and the check over it and the cells (11 R267). -/
def spillHeader (s : State) (g c : Nat) (a : Fin 4) (w : Fin 8) (evict : Bool) (handle : Word) : List Byte :=
  let front := spillFront s g c a w evict handle
  front ++ shake256 (front ++ tileBytes (s.core g c).tiles[a])

/-- How a thread's access to a range ends, granule by granule (09 R228): its pieces; a trap, with where the translation failed if it did;
a wait. -/
inductive ThreadX where
  | ok (pcs : List (Word × Xlat × Nat)) (s : State)
  | fail (c : Cause) (va : Word) (p : Option FaultPlace) (s : State)
  | wait (w : Wait) (s : State)
  deriving DecidableEq, Repr

/-- The first byte of a piece whose sector's watch record stops the thread (14 R331). -/
def firstRace (s : State) (t : Tid) (va : Word) (x : Xlat) (n : Nat) : Option Word :=
  (natsFrom 0 n).find? (fun k => (k == 0 || (x.pa + k) % 64 == 0) && raceAt s t { x with pa := x.pa + k }) |>.map
    fun k => va + BitVec.ofNat 64 k

/-- A thread's access to `n` bytes (08 R195, 09 R228): each granule is translated and waits for room (12 R277), then it is checked for poison
when it is read, then for races. `fuel` bounds the granules. -/
def threadRange (t : Tid) (k : Kind) : Nat → State → Word → Nat → List (Word × Xlat × Nat) → ThreadX
  | 0, s, _, _, acc => .ok acc.reverse s
  | fuel + 1, s, va, n, acc =>
    if n == 0 then .ok acc.reverse s
    else match translate s (s.pcoreNum t) (s.vfOf t) va k false with
    | (.fail c pl, s) => .fail c va (some pl) s
    | (.miss m, s) => let (w, s) := raiseMiss s (s.vfOf t) va k m; .wait (.page w) s
    | (.logFull, s) => .wait .dirtyLog s
    | (.ok x, s) =>
      let n1 := inGranule va n
      if !rangeRoom s (s.vfOf t) x.pa n1 then .wait .tile (noRoom s (s.vfOf t) x.pa)
      else
      let bad := if k == .read then firstBad s [(va, x, n1)] else none
      match bad, firstRace s t va x n1 with
      | some (.protection, a, ipa), _ => .fail .protection a (some { ipa := ipa, place := 0 }) s
      | some (e, a, _), _ => .fail e a none s
      | none, some a => .fail .race a none s
      | none, none => threadRange t k fuel s (va + BitVec.ofNat 64 n1) (n - n1) ((va, x, n1) :: acc)

/-- A thread's trap in such an access, with its fault record when a translation failed (09 R221). -/
def trapAt (s : State) (t : Tid) (c : Cause) (va : Word) (k : Kind) (p : Option FaultPlace) : State :=
  match p with
  | some f => trapXlat s t c va k f
  | none => trap s t c va

/-- The vector stores of bytes over translated pieces, sector by sector (08 R202, 11 R270). -/
def rangeStores : List (Word × Xlat × Nat) → List Byte → List PendAccess
  | [], _ => []
  | (_, x, n) :: ps, bs =>
    let mine := (bs.take n).zip (natsFrom x.pa n)
    ((natsFrom (sectorOf x.pa) (sectorOf (x.pa + n - 1) + 1 - sectorOf x.pa)).map fun k =>
      { vector := true
        bytes := (mine.filter fun b => sectorOf b.2 == k).map fun b => { pa := b.2, mask := 0xFF, val := b.1 }
        watched := x.wch, cmp := x.cmp, clears := [] }) ++ rangeStores ps (bs.drop n)

/-- The marker of an array instruction that waits (10 R239), and its restart point. -/
def arrayWait (s : State) (w : Fin 8) (i : Instr) (k : Nat) (x : Wait) : State :=
  (s.modCur w fun W => { W with vstart := BitVec.ofNat 18 k, vmem := some { instr := i, slots := [] } }).setWait s.cur x

/-- The rows of a spill image from `row` on, each written as it is translated; or the state in which the form has stopped (11 R268). -/
def spillRows (i : Instr) (a : BitVec 2) (w : Fin 8) (b : Word) : Nat → Nat → State → Except State State
  | 0, _, s => .ok s
  | fuel + 1, row, s =>
    if row ≥ 128 then .ok s
    else match threadRange s.cur .write 3 s (b + 256 + BitVec.ofNat 64 (row * 1024)) 1024 [] with
    | .fail c va p s => .error (trapAt (s.modCur w fun W => { W with vstart := BitVec.ofNat 18 row }) s.cur c va .write p)
    | .wait x s => .error (arrayWait s w i row x)
    | .ok pcs s =>
      spillRows i a w b fuel (row + 1) (queueStores s s.cur (rangeStores pcs (tileRowBytes s.curCore.tiles[a.toFin] row)))

/-- MSPILL with or without release (11 R261, R268). -/
def spill (i : Instr) (a : BitVec 2) (x : Reg) (rel : Bool) (s : State) : Host.Outcome State Fault Refusal :=
  forVigil i a s fun w =>
    let t := s.cur
    let b := s.getX t x
    let v := (s.curWick w).vstart.toNat
    if v > 128 then trapNext s t .illegal (wordOf i)
    else if !mayOwn s w a then ownershipTrap s a
    else if b.toNat % 256 != 0 then trapNext s t .misaligned b
    else match spillRows i a w b 129 v (takeTile s w a) with
    | .error s => .next s
    | .ok s =>
      match threadRange t .write 2 s b 256 [] with
      | .fail c va p s => .next (trapAt (s.modCur w fun W => { W with vstart := 128 }) t c va .write p)
      | .wait y s => .next (arrayWait s w i 128 y)
      | .ok pcs s =>
        let s := queueStores s t (rangeStores pcs (spillHeader s t.gang t.core a.toFin w false b))
        let s := s.modOwner t.gang t.core a fun o => if rel then Owner.free else { o with handle := b }
        let s := if rel then s.modTile t.gang t.core a fun _ => Tile.cleared else s
        wickDone s w ((s.curWick w).swept 0 false)

/-- MSPILL (11 R268). -/
def execMspill (a : BitVec 2) (x : Reg) (s : State) : Host.Outcome State Fault Refusal := spill (.mspill a x) a x false s
/-- MSPILL.R (11 R268). -/
def execMspillR (a : BitVec 2) (x : Reg) (s : State) : Host.Outcome State Fault Refusal := spill (.mspillR a x) a x true s

/-- The bytes of a spill image. -/
def imageBytes : Nat := 131328

/-- What a verified spill image gives (11 R269): the tile and the entry, for an owner and an image address. -/
structure SpillImage where
  tile : Tile
  entry : Owner
  deriving DecidableEq, Repr

/-- Bytes `lo` to `hi` - 1 of an image as a number. -/
def imageField (bs : List Byte) (lo hi : Nat) : Nat := leNat ((bs.drop lo).take (hi - lo))

/-- The rows of cells that follow the header. -/
def imageRows : Nat → Nat → List Byte → Tile → Tile
  | 0, _, _, T => T
  | n + 1, i, bs, T => imageRows n (i + 1) (bs.drop 1024) (T.setRow i (BitVec.ofNat 8192 (leNat (bs.take 1024))))

/-- The verification of a spill image, and what it holds (11 R267, R269). -/
def readImage (bs : List Byte) (w : Fin 8) (handle : Word) : Option SpillImage :=
  let flags := imageField bs 6 8
  let vigil := flags % 2 == 1
  let reserved := imageField bs 28 32 == 0 && imageField bs 40 224 == 0
  if imageField bs 0 4 != 0x56494731 || imageField bs 4 6 != 1 || flags % 2 != flags / 2 % 2 || flags / 8 != 0 || !reserved ||
      shake256 (bs.take 224 ++ bs.drop 256) != (bs.drop 224).take 32 then none
  else
    some {
      tile := imageRows 128 0 (bs.drop 256) { rows := [], dirty := true, imaged := false }
      entry :=
        { owner := some w, pinned := vigil, vigil := vigil, dk := if vigil then BitVec.ofNat 9 (imageField bs 13 14 + 1) else 0
          dv := if vigil then BitVec.ofNat 8 (imageField bs 14 15 + 1) else 0, tokens := BitVec.ofNat 64 (imageField bs 16 24)
          hidx := BitVec.ofNat 32 (imageField bs 24 28), handle := handle } }

/-- The bytes of translated pieces as the wick's vector accesses read them, after its earlier ones that they must follow (08 R205,
11 R270). -/
def readThreadRange (s : State) (t : Tid) : List (Word × Xlat × Nat) → List Byte × State
  | [] => ([], s)
  | (_, x, n) :: ps =>
    let s := flushBefore s t (vectorAt x.pa n)
    let bs := memBytes s.mem x.pa n
    let s := (natsFrom (sectorOf x.pa) (sectorOf (x.pa + n - 1) + 1 - sectorOf x.pa)).foldl
      (fun s k => l2Touch s (s.vfOf t) (k * 64) .read x.cmp none) s
    let (cs, s) := readThreadRange s t ps
    (bs ++ cs, s)

/-- MFILL (11 R261, R269). -/
def execMfill (a : BitVec 2) (x : Reg) (s : State) : Host.Outcome State Fault Refusal :=
  let i := Instr.mfill a x
  forVigil i a s fun w =>
    let t := s.cur
    let b := s.getX t x
    if !mayOwn s w a then ownershipTrap s a
    else if b.toNat % 256 != 0 then trapNext s t .misaligned b
    else match threadRange t .read 34 s b imageBytes [] with
    | .fail c va p s => .next (trapAt s t c va .read p)
    | .wait y s => .next (arrayWait s w i (s.curWick w).vstart.toNat y)
    | .ok pcs s =>
      let (bs, s) := readThreadRange s t pcs
      match readImage bs w b with
      | none => trapNext s t .spillCheck b
      | some im =>
        let s := (s.modTile t.gang t.core a fun _ => im.tile).modOwner t.gang t.core a fun _ => im.entry
        wickDone s w ((s.curWick w).swept 0 false)

end Sys2Proof.Machine
end

