-- ==== Sys2Proof/Machine/TensorTable.lean ====
section
/-! DEFINITION. The tensor table: TDEF, TINV and TSYNC (12 R284 to R288). -/

namespace Sys2Proof.Machine

/-- The queued vector stores of a thread are performed (12 R287). -/
def flushVector (s : State) (t : Tid) : State := flushWhere s t fun p => p.vector && p.load.isNone

/-- Whether a value names an entry of the VF's blocks (12 R287). -/
def tensorIdOk (s : State) (vf : Nat) (v : Word) : Bool :=
  v.toNat < 2 ^ 13 && tabGet? s.tensorBlocks (v.toNat / 64) == some vf

/-- A descriptor's fields from its 64 bytes (12 R285). -/
def tensorOf (d : Nat) : Tensor :=
  let f (lo n : Nat) : Nat := d / 2 ^ (8 * lo) % 2 ^ (8 * n)
  { base := BitVec.ofNat 64 (f 0 8), scalebase := BitVec.ofNat 64 (f 8 8), fmt := f 16 1, rank := f 17 1, dim0 := f 24 4, dim1 := f 28 4
    dim2 := f 32 4, dim3 := f 36 4, stride1 := f 40 8, stride2 := f 48 8, stride3 := f 56 8 }

/-- Whether a descriptor keeps every limit; `d` is its 64 bytes, for its reserved ones (12 R285). -/
def tensorOk (d : Nat) (t : Tensor) : Bool :=
  let stride (v k : Nat) : Bool := v % 64 == 0 && (t.rank ≥ k || v == 0)
  t.base.toNat % 256 == 0 && (matMx t.fmt || t.scalebase == 0) && t.fmt ≤ 13 && 1 ≤ t.rank && t.rank ≤ 4 &&
  d / 2 ^ 144 % 2 ^ 48 == 0 && 1 ≤ t.dim0 && t.dim0 ≤ 65536 && 1 ≤ t.dim1 && t.dim1 ≤ 65536 && (t.rank ≥ 2 || t.dim1 == 1) &&
  1 ≤ t.dim2 && (t.rank ≥ 3 || t.dim2 == 1) && 1 ≤ t.dim3 && (t.rank ≥ 4 || t.dim3 == 1) && t.dim2 * t.dim3 ≤ 65536 &&
  stride t.stride1 2 && stride t.stride2 3 && stride t.stride3 4

/-- TDEF (12 R287): the descriptor is read after the wick's own earlier accesses to its bytes. -/
def execTdef (x y : Reg) (s : State) : Host.Outcome State Fault Refusal :=
  forWick (.tdef x y) s fun _ =>
    let t := s.cur
    let id := s.getX t y
    let a := s.getX t x
    if !tensorIdOk s (s.vfOf t) id then trapNext s t .tensorId id
    else if a.toNat % 64 != 0 then trapNext s t .misaligned a
    else match threadXlat s t a .read with
    | .stop s => .next s
    | .ok X s =>
      if hostRefuses s X.pa then .next (trapXlat s t .protection a .read { ipa := X.ipa, place := 0 })
      else if poisoned s X.pa then trapNext s t .poison a
      else
        let s := flushWhere s t (·.meets (vectorAt X.pa 64))
        let d := memRead s.mem X.pa 64
        let s := l2Touch s (s.vfOf t) X.pa .read X.cmp none
        let ten := tensorOf d
        if !tensorOk d ten then trapNext s t .illegal a
        else
          let vf := s.vfOf t
          let s := dropTiles (flushVector s t) fun v i => v == vf && i == id.toNat
          moveOn { s with tensors := tabPut s.tensors id.toNat ten }

/-- TINV (12 R287). -/
def execTinv (x : Reg) (s : State) : Host.Outcome State Fault Refusal :=
  forWick (.tinv x) s fun _ =>
    let t := s.cur
    let id := s.getX t x
    let vf := s.vfOf t
    if !tensorIdOk s vf id then trapNext s t .tensorId id
    else moveOn (dropTiles (flushVector s t) fun v i => v == vf && i == id.toNat)

/-- Whether `n` bytes from one address and `m` bytes from another meet, in exact arithmetic (12 R287). -/
def rangesMeet (a : Word) (n : Nat) (b : Word) (m : Nat) : Bool :=
  n != 0 && m != 0 && a.toNat < b.toNat + m && b.toNat < a.toNat + n

/-- Whether the backing bytes of an entry, its scale array included, meet a range (12 R287). -/
def backingMeets (t : Tensor) (lo : Word) (n : Nat) : Bool :=
  let len := (t.dim1 - 1) * t.stride1 + (t.dim2 - 1) * t.stride2 + (t.dim3 - 1) * t.stride3 + (t.dim0 * matWidth t.fmt + 7) / 8
  rangesMeet t.base len lo n ||
  (matMx t.fmt && rangesMeet t.scalebase (t.dim3 * t.dim2 * t.dim1 * ((t.dim0 + 31) / 32)) lo n)

/-- TSYNC (12 R287). -/
def execTsync (x y : Reg) (s : State) : Host.Outcome State Fault Refusal :=
  forWick (.tsync x y) s fun _ =>
    let t := s.cur
    let vf := s.vfOf t
    let lo := s.getX t x
    let n := (s.getX t y).toNat
    let hit := s.tensors.filter fun (id, e) => tabGet? s.tensorBlocks (id / 64) == some vf && backingMeets e lo n
    if hit.isEmpty then moveOn s
    else moveOn (dropTiles (flushVector s t) fun v i => v == vf && hit.any fun e => e.1 == i)

end Sys2Proof.Machine
end

