-- ==== Sys2Proof/Machine/CopyRun.lean ====
section
/-! DEFINITION. Copy channels at work: chunks, flags, CPDRAIN and CPCANCEL (13 R296 to R309). -/

namespace Sys2Proof.Machine

/-- Elements of dimension 0, fields, records (or dimension 1), and the two outer dimensions of a copy (13 R299, R300). -/
structure CopyShape where
  d0 : Nat
  nf : Nat
  d1 : Nat
  d2 : Nat
  d3 : Nat
  deriving DecidableEq, Repr

/-- The shape of a copy. -/
def CopySetup.shape (c : CopySetup) : CopyShape :=
  { d0 := c.count 0, nf := if c.seg then c.nfm1 + 1 else 1, d1 := c.count 1, d2 := c.count 2, d3 := c.count 3 }

/-- The elements of a copy (13 R299, R300). -/
def CopyShape.total (h : CopyShape) : Nat := h.d0 * h.nf * h.d1 * h.d2 * h.d3

/-- Where an element stands in copy order: i0, field, record or i1, i2, i3 (13 R299, R300). -/
structure CopyIndex where
  i0 : Nat
  f : Nat
  i1 : Nat
  i2 : Nat
  i3 : Nat
  deriving DecidableEq, Repr

/-- The indexes of the n-th element in copy order. -/
def CopyShape.index (h : CopyShape) (n : Nat) : CopyIndex :=
  let a := n / h.d0
  let b := a / h.nf
  let c := b / h.d1
  { i0 := n % h.d0, f := a % h.nf, i1 := b % h.d1, i2 := c % h.d2, i3 := c / h.d2 }

/-- The source stride of a dimension (13 R298). -/
def CopySetup.ss (c : CopySetup) (n : Fin 4) : Int := (c.str[n].extractLsb' 0 32).toInt
/-- The destination stride of a dimension (13 R298). -/
def CopySetup.ds (c : CopySetup) (n : Fin 4) : Int := (c.str[n].extractLsb' 32 32).toInt

/-- The virtual address of the first source byte of an element's row or field (13 R299, R300). -/
def CopySetup.srcRow (c : CopySetup) (x : CopyIndex) : Word :=
  c.src + BitVec.ofInt 64 (if c.seg then x.f * c.ss 0 + x.i1 * c.ss 1 + x.i2 * c.ss 2 + (if c.perm then 0 else x.i3 * c.ss 3)
    else x.i1 * c.ss 1 + x.i2 * c.ss 2 + x.i3 * c.ss 3)

/-- The virtual address of the first destination byte of an element's row or field, for record slot `q` (13 R299, R300). -/
def CopySetup.dstRow (c : CopySetup) (x : CopyIndex) (q : Nat) : Word :=
  c.dst + BitVec.ofInt 64 (if c.seg then x.f * c.ds 0 + q * c.ds 1 + x.i2 * c.ds 2 + (if c.perm then 0 else x.i3 * c.ds 3)
    else x.i1 * c.ds 1 + x.i2 * c.ds 2 + x.i3 * c.ds 3)

/-- How many of the `left` elements of `m` bits from bit `i0` × m of a row lie in one granule with the first (13 R304). -/
def inChunk (row : Word) (i0 m left : Nat) : Nat :=
  let bit := (row.toNat * 8 + i0 * m) % 32768
  max 1 (min left ((32768 - bit) / m))

/-- The bytes of `n` elements of `m` bits from element `i0` of a row: the first byte's address, the bit in it, and how many bytes. -/
def rowBytes (row : Word) (i0 m n : Nat) : Word × Nat × Nat :=
  let bit := i0 * m
  (row + BitVec.ofNat 64 (bit / 8), bit % 8, (bit % 8 + n * m + 7) / 8)

/-- The state with a copy channel changed. -/
def State.modChan (s : State) (g c : Nat) (ch : Fin 4) (f : Chan → Chan) : State :=
  s.modCore g c fun C => { C with chans := C.chans.set ch (f C.chans[ch]) }

/-- The state with the copy at the head of a channel changed. -/
def State.modHead (s : State) (g c : Nat) (ch : Fin 4) (f : Copy → Copy) : State :=
  s.modChan g c ch fun x => { x with queue := match x.queue with | y :: ys => f y :: ys | [] => [] }

/-- The copy at the head of a channel leaves it. -/
def State.popCopy (s : State) (g c : Nat) (ch : Fin 4) : State :=
  s.modChan g c ch fun x => { x with queue := x.queue.tail, movedAt := s.ac }

/-- The thread that launched a copy. -/
def Copy.thread (y : Copy) (g c : Nat) : Tid := { gang := g, core := c, who := y.who }

/-- A copy fails (13 R305): a fault record, the channel's error, and every copy behind it discarded. -/
def failCopy (s : State) (g c : Nat) (ch : Fin 4) (y : Copy) (cause : Cause) (va : Word) (k : Kind) (p : FaultPlace) : State :=
  let s := s.modChan g c ch fun x => { x with queue := [], error := some (cause.code, y.id) }
  pushFault s (s.gang g).vf (faultRec s g c y.who true cause va k p)

/-- A copy waits for a page request, or for room in the dirty log (13 R304, 17 R381). -/
def waitCopy (s : State) (g c : Nat) (ch : Fin 4) (va : Word) (k : Kind) (m : Option Miss) : State :=
  let vf := (s.gang g).vf
  match m with
  | some e => let (w, s) := raiseMiss s vf va k e; s.modHead g c ch fun y => { y with wait := some w }
  | none =>
    s.modHead g c ch fun y =>
      { y with wait := some (roomWait va k) }

/-- Whether a byte is one of the copy's own source bytes (13 R301), judged on virtual addresses. -/
def ownSource (c : CopySetup) (a : Word) : Bool :=
  let h := c.shape
  let size := h.d0 * mfmtBits c.sfmt / 8
  (natsFrom 0 h.d3).any fun i3 => (natsFrom 0 h.d2).any fun i2 => (natsFrom 0 h.d1).any fun i1 => (natsFrom 0 h.nf).any fun f =>
    (a - c.srcRow { i0 := 0, f := f, i1 := i1, i2 := i2, i3 := i3 }).toNat < size

/-- One element of a copy converted (13 R301). -/
def copyElem (c : CopySetup) (rm : BitVec 3) (v : Nat) : Flagged :=
  if c.sfmt == 0 || c.dfmtRaw == 0 then (v, 0) else convert (mfmtFmt c.sfmt) (mfmtFmt c.dfmt) (modeOf rm 0) v

/-- The destination bits of elements, the first lowest, with their flags. -/
def packElems (m : Nat) (vs : List Flagged) : Nat × FlagSet :=
  vs.foldr (fun v (n, fl) => (v.1 % 2 ^ m + 2 ^ m * n, v.2 ||| fl)) (0, 0)

/-- The old bytes of a destination range. -/
def oldBytes (s : State) : List (Word × Xlat × Nat) → List Byte
  | [] => []
  | (_, x, n) :: ps => memBytes s.mem x.pa n ++ oldBytes s ps

/-- The bytes that a chunk writes: its bits over the old bytes; a byte that is one of the copy's own source bytes is undefined
(13 R301, log 6). -/
def chunkBytes (c : CopySetup) (free : Nat) (va : Word) (bit size bits : Nat) (old : List Byte) : List Byte :=
  let n := leNat old
  let mask := (2 ^ size - 1) * 2 ^ bit
  let v := n - (n &&& mask) + bits * 2 ^ bit
  let bs := leBytes old.length v
  (bs.zip (natsFrom 0 bs.length)).map fun (b, k) => if ownSource c (va + BitVec.ofNat 64 k) then Config.freeByte (free + k) else b

/-- The index word of a record, where the copy permutes (13 R300). -/
def copySlot (s : State) (p vf : Nat) (c : CopySetup) (x : CopyIndex) : EngineRead :=
  if c.perm then engineRead s p vf (c.str[3] + BitVec.ofNat 64 (4 * x.i1)) 4 else .ok (leBytes 8 x.i1) s

/-- The next chunk of the copy at the head of a channel (13 R304, R305). -/
def copyChunk (s : State) (g c : Nat) (ch : Fin 4) (y : Copy) : State :=
  let st := y.setup
  let vf := (s.gang g).vf
  let p := (s.gang g).pcore c
  let ms := mfmtBits st.sfmt
  let md := mfmtBits st.dfmt
  let x := st.shape.index y.done
  let s := s.modHead g c ch fun y => { y with started := true }
  match copySlot s p vf st x with
  | .full s => s
  | .fail e va pl s => failCopy s g c ch y e va .read pl
  | .miss m va s => waitCopy s g c ch va .read (some m)
  | .logFull va s => waitCopy s g c ch va .read none
  | .ok qs s =>
    let q := leNat qs
    let left := st.shape.d0 - x.i0
    let n := min (inChunk (st.srcRow x) x.i0 ms left) (inChunk (st.dstRow x q) x.i0 md left)
    let (sva, sbit, sn) := rowBytes (st.srcRow x) x.i0 ms n
    let (dva, dbit, dn) := rowBytes (st.dstRow x q) x.i0 md n
    match engineRead s p vf sva sn with
    | .full s => s
    | .fail e va pl s => failCopy s g c ch y e va .read pl
    | .miss m va s => waitCopy s g c ch va .read (some m)
    | .logFull va s => waitCopy s g c ch va .read none
    | .ok bs s =>
      match xlatRange p vf .write 3 s dva dn [] with
      | .fail e va pl s => failCopy s g c ch y e va .write pl
      | .miss m va s => waitCopy s g c ch va .write (some m)
      | .logFull va s => waitCopy s g c ch va .write none
      | .ok pcs s =>
        match piecesRoom s vf pcs with
        | some s => s
        | none =>
        let raw := leNat bs / 2 ^ sbit
        let (bits, fl) := packElems md ((natsFrom 0 n).map fun k => copyElem st y.rm (raw / 2 ^ (ms * k) % 2 ^ ms))
        let s := engineWrite { s with free := s.free + dn } vf pcs (chunkBytes st s.free dva dbit (n * md) bits (oldBytes s pcs))
        let s := (raiseFlags s (y.thread g c) fl).progress g
        let s := s.modChan g c ch fun x => { x with movedAt := s.ac }
        let s := s.modHead g c ch fun y => { y with done := y.done + n }
        if y.done + n == st.shape.total && st.flag == 0 then s.popCopy g c ch else s

/-- COPY_CHUNK (13 R304, R305): the head copy's next chunk; a copy without elements and without a flag ends. -/
def execCopyChunk (g c : Nat) (ch : Fin 4) (s : State) : Host.Outcome State Fault Refusal :=
  match enginesRun s g, ((s.core g c).chans[ch]).queue with
  | true, y :: _ =>
    if y.wait.isSome then .next s
    else if y.done ≥ y.setup.shape.total then .next (if y.setup.flag == 0 then s.popCopy g c ch else s)
    else .next (copyChunk s g c ch y)
  | _, _ => .next s

/-- An arrival flag written in one read-modify-write at the L2 (12 R276, 13 R304): stored, or added modulo 2^32. -/
def writeFlag (s : State) (vf : Nat) (x : Xlat) (add : Bool) (v : Nat) : State :=
  let old := memRead s.mem x.pa 4
  l2WriteBytes s vf x.pa (leBytes 4 (if add then old + v else v)) x.cmp

/-- COPY_FLAG (13 R304, R305): after its last chunk, the head copy writes its flag and ends. -/
def execCopyFlag (g c : Nat) (ch : Fin 4) (s : State) : Host.Outcome State Fault Refusal :=
  match enginesRun s g, ((s.core g c).chans[ch]).queue with
  | true, y :: _ =>
    let st := y.setup
    if y.wait.isSome || y.done < st.shape.total || st.flag == 0 then .next s
    else
      let vf := (s.gang g).vf
      let k : Kind := if st.fop then .rmw else .write
      match translate (s.modHead g c ch fun y => { y with started := true }) ((s.gang g).pcore c) vf st.flag k false with
      | (.fail e p, s) => .next (failCopy s g c ch y e st.flag k p)
      | (.miss m, s) => .next (waitCopy s g c ch st.flag k (some m))
      | (.logFull, s) => .next (waitCopy s g c ch st.flag k none)
      | (.ok x, s) =>
        if st.fop && poisoned s x.pa then .next (failCopy s g c ch y .poison st.flag k { ipa := x.ipa, place := 0 })
        else if st.fop && hostRefuses s x.pa then .next (failCopy s g c ch y .protection st.flag k { ipa := x.ipa, place := 0 })
        else if !l2Room s vf x.pa then .next (noRoom s vf x.pa)
        else .next (((writeFlag s vf x st.fop st.fval).progress g).popCopy g c ch)
  | _, _ => .next s

/-- The channels that CPDRAIN's field names (13 R307). -/
def drainChans (c : Reg) : List Nat := if c.toNat == 4 then [0, 1, 2, 3] else [c.toNat]

/-- The copies in some channels, by identifier. -/
def copiesIn (C : Core) (chans : List Nat) : List Nat :=
  chans.flatMap fun k => (C.chans[fin4 k]).queue.map fun y => y.id.toNat

/-- CPDRAIN's return (13 R308): an acquire; the status of the lowest-numbered named channel in error, whose error is cleared. -/
def drainReturn (s : State) (t : Tid) (rd : Reg) (chans : List Nat) : State :=
  let C := s.core t.gang t.core
  let s := acquire s t 4
  match chans.findSome? fun k => ((C.chans[fin4 k]).error).map fun e => (k, e) with
  | none => (s.setX t rd 0).done t
  | some (k, cause, id) =>
    let s := s.modChan t.gang t.core (fin4 k) fun x => { x with error := none }
    (s.setX t rd (BitVec.ofNat 64 (cause.toNat * 2 ^ 32 + k * 2 ^ 16 + id.toNat))).done t

/-- CPDRAIN (13 R308): it returns at once when the named channels hold no copy. -/
def execCpdrain (d c : Reg) (s : State) : Host.Outcome State Fault Refusal :=
  let t := s.cur
  let chans := drainChans c
  let ids := copiesIn s.curCore chans
  if ids.isEmpty then .next (drainReturn s t d chans) else .next (s.setWait t (.cpdrain d chans ids))

/-- CPDRAIN_RETURN (13 R308): the copies that it waits for are gone. -/
def execCpdrainReturn (t : Tid) (s : State) : Host.Outcome State Fault Refusal :=
  match (s.thread t).wait with
  | some (.cpdrain d chans ids) =>
    let here := copiesIn (s.core t.gang t.core) chans
    if ids.any here.contains then .next s else .next (drainReturn s t d chans)
  | _ => .next s

/-- CPCANCEL (13 R309): the head of a queue is the running copy, whether it has moved an element yet or not (13 R296). -/
def execCpcancel (d x : Reg) (s : State) : Host.Outcome State Fault Refusal :=
  let id := (s.getX s.cur x).setWidth 16
  let ch := fin4 (id.toNat / 2 ^ 14)
  let q := s.curCore.chans[ch].queue
  match q.find? fun y => y.id == id with
  | none => writeRd s d 0
  | some y =>
    let s := s.modChan s.cur.gang s.cur.core ch fun v =>
      { v with
        queue := v.queue.filter fun z => z.id != id
        movedAt := if v.queue.head?.any (·.id == id) then s.ac else v.movedAt }
    writeRd s d (if q.head?.any (·.id == id) then BitVec.ofNat 64 (2 ^ 63 + y.done) else BitVec.ofNat 64 (2 ^ 62))

end Sys2Proof.Machine
end

