-- ==== Sys2Proof/Machine/Landing.lean ====
section
/-! DEFINITION. Landing windows and the device's landing buffer (16 R345, R349, R355). -/

namespace Sys2Proof.Machine

/-- The flits that the landing buffer of a device holds (01 R31). -/
def landingRoom : Nat := 256

/-- Every gang core's windows: gang, core, window number, window; gangs that are away have none that can be reached (16 R351). -/
def liveWindows (s : State) : List (Nat × Nat × Nat × Window) :=
  s.gangs.flatMap fun (g, G) =>
    if G.life == .running || G.life == .stopping then
      G.cores.flatMap fun (c, C) => (C.windows.toList.zip (natsFrom 0 8)).map fun (w, k) => (g, c, k, w)
    else []

/-- The valid landing window of a partition with a tag (16 R346, R355). -/
def landingWindow (s : State) (part : Nat) (tag : BitVec 16) : Option (Nat × Nat × Nat × Window) :=
  (liveWindows s).find? fun (g, _, _, w) => w.valid && w.landing && w.tag == tag && s.partOf g == part

/-- The bytes of an exported group (16 R345). -/
def Window.size (w : Window) : Nat := w.rows.toNat * w.rb.toNat

/-- The answer to a landing flit (16 R355): the sender's domain and its place in the accept list, the window and the buffer's room, and
the range. -/
def landingAnswer (s : State) (f : LandingFlit) : FlitAnswer :=
  let p := tabGet? s.parts f.part
  if !f.sameDomain || !p.any (fun p => p.peers.contains f.senderKey) then .notPermitted
  else match landingWindow s f.part f.tag with
  | none => .refused
  | some (_, _, _, w) =>
    if f.offset + f.total > w.size then .rangeExceeded
    else if s.landing.length ≥ landingRoom then .refused
    else .accepted

/-- The bytes of a row, from byte `lo` on, replaced. -/
def patchRow (row : BitVec 65536) (lo : Nat) (bs : List Byte) : BitVec 65536 :=
  let m : BitVec 65536 := BitVec.ofNat 65536 (2 ^ (8 * bs.length) - 1) <<< (8 * lo)
  (row &&& ~~~m) ||| (BitVec.ofNat 65536 (leNat bs) <<< (8 * lo))

/-- Landed bytes from offset `o` of a window's group written into its owner's registers (16 R345, R349). -/
def Wick.landed (W : Wick) (v : Window) (o : Nat) (bs : List Byte) : Wick :=
  let rb := v.rb.toNat
  let W' := (natsFrom 0 v.rows.toNat).foldl (fun W r =>
    let lo := max o (r * rb)
    let hi := min (o + bs.length) ((r + 1) * rb)
    if lo < hi then
      let reg := v.first + r
      W.setReg reg (patchRow (W.reg reg) (lo - r * rb) ((bs.drop (lo - o)).take (hi - lo))) (8 * (hi - r * rb))
    else W) { W with split := v.split }
  { W' with split := W.split }

/-- A flit that the buffer accepted lands in its window and sets its owner's event flag (18 R391); nothing is left of it where its
window is gone. -/
def landFlit (s : State) (f : LandingFlit) : State :=
  match landingWindow s f.part f.tag with
  | some (g, c, _, v) => s.modWick g c v.owner fun W => { W.landed v f.offset f.bytes with th := { W.th with event := true } }
  | none => s

/-- The landing buffer empties into the windows. -/
def drainLandings (s : State) : State := { s.landing.foldl landFlit s with landing := [] }

/-- What a passing ac carries on: the landing buffer empties into the windows, and the ports' receive buffers into the device or onwards. -/
def drainBuffers (s : State) : State := drainPorts (drainLandings s)

/-- A flit reaches the landing buffer: its answer, and the state with it held when it is accepted. -/
def acceptLanding (s : State) (f : LandingFlit) : FlitAnswer × State :=
  match landingAnswer s f with
  | .accepted => (.accepted, { s with landing := s.landing ++ [f] })
  | a => (a, s)

end Sys2Proof.Machine
end

