-- ==== Sys2Proof/Machine/Peer.lean ====
section
/-! DEFINITION. Lantern windows and SEND (16 R345 to R356). -/

namespace Sys2Proof.Machine

/-- The state with a window of the acting core changed. -/
def State.modWindow (s : State) (k : Fin 8) (f : Window → Window) : State :=
  s.modCurCore fun C => { C with windows := C.windows.set k (f C.windows[k]) }

/-- The first registers named by a window of the acting core: its owner's, in its mode. -/
def Window.regs (v : Window) : List Nat := natsFrom v.first v.rows.toNat

/-- The registers of two groups compared: by register in one mode, by row across modes (06 R128). -/
def meetRegs (sp1 sp2 : Bool) (a b : List Nat) : Bool :=
  if sp1 == sp2 then a.any b.contains
  else (a.map fun n => if sp1 then n / 2 else n).any (b.map fun n => if sp2 then n / 2 else n).contains

/-- Whether another window of the same owner, of the other kind, names one of these registers (16 R349). -/
def windowClash (C : Core) (k : Fin 8) (w : Fin 8) (landing split : Bool) (regs : List Nat) : Bool :=
  (List.finRange 8).any fun j =>
    let v := C.windows[j]
    j != k && v.valid && v.owner == w && v.landing != landing && meetRegs v.split split v.regs regs

/-- Whether another valid landing window of the partition holds a tag (16 R346). -/
def tagHeld (s : State) (k : Fin 8) (tag : BitVec 16) : Bool :=
  s.gangs.any fun (g, G) => s.partOf g == s.partOf s.cur.gang && G.cores.any fun (c, C) => (List.finRange 8).any fun j =>
    let v := C.windows[j]
    !(g == s.cur.gang && c == s.cur.core && j == k) && v.valid && v.landing && v.tag == tag

/-- WEXPORT (16 R346, R347, R349). -/
def execWexport (d f x : Reg) (s : State) : Host.Outcome State Fault Refusal :=
  let i := Instr.wexport d f x
  forWick i s fun w =>
    let t := s.cur
    let v := s.getX t x
    let k : Fin 8 := (v.extractLsb' 0 3).toFin
    let landing := bitOf v 8
    let tag : BitVec 16 := v.extractLsb' 16 16
    let W := s.curWick w
    if v &&& 0xFFFFFFFF0000FEF8 != 0 || landing != (tag != 0) then trapNext s t .illegal v
    else match W.group? f with
    | none => trapNext s t .illegal (wordOf i)
    | some regs =>
      let old := s.curCore.windows[k]
      if old.valid && old.owner != w then trapNext s t .ownership (BitVec.ofNat 64 k.val)
      else if (landing && tagHeld s k tag) || windowClash s.curCore k w landing W.split regs then
        trapNext s t .illegal (tag.setWidth 64)
      else
        let s := drainLandings s
        let gen := old.gen + 1
        let win : Window :=
          { valid := true, owner := w, landing := landing, tag := tag, rows := W.vrows, rb := BitVec.ofNat 14 (W.capBits / 8)
            gen := gen, first := regs.headD 0, split := W.split, snap := if landing then [] else regs.map (s.curWick w).reg }
        let s := s.modWindow k fun _ => win
        writeRd (s.modCur w fun W => W.swept 0 false) d (gen.setWidth 64)

/-- WREVOKE (16 R350). -/
def execWrevoke (d x : Reg) (s : State) : Host.Outcome State Fault Refusal :=
  let i := Instr.wrevoke d x
  forWick i s fun w =>
    let t := s.cur
    let v := s.getX t x
    let k : Fin 8 := (v.extractLsb' 0 3).toFin
    let win := s.curCore.windows[k]
    if v.toNat ≥ 8 then trapNext s t .illegal (wordOf i)
    else if win.valid && win.owner != w then trapNext s t .ownership (BitVec.ofNat 64 k.val)
    else
      let s := if win.valid then (drainLandings s).modWindow k fun v => { v with valid := false, snap := [] } else s
      writeRd (s.modCur w fun W => W.swept 0 false) d (win.gen.setWidth 64)

/-- The first bytes of a group in sweep order, as raw bits (16 R353). -/
def sweepBytes (W : Wick) (regs : List Nat) : List Byte :=
  let bits := W.vln * W.esize
  let n := (regs.foldr (fun r acc => (W.reg r).toNat % 2 ^ bits + 2 ^ bits * acc) 0)
  leBytes (W.nrows * bits / 8) n

/-- The memory address or landing offset that a SEND may not misalign (16 R353 check 3), and its flag's address. -/
def sendMisaligned (landing : Bool) (v psflag : Word) : Option Word :=
  if landing then if v.toNat % 2 ^ 16 % 64 != 0 then some (v &&& 0xFFFF) else if psflag.toNat % 4 != 0 then some psflag else none
  else if v.toNat % 64 != 0 then some v
  else if psflag.toNat % 4 != 0 then some psflag
  else none

/-- SEND (16 R353, R354): it does not issue while the core's queue is full; checks, then the queue; its fork performs the thread's earlier
stores (14 R315). -/
def execSend (f x : Reg) (s : State) : Host.Outcome State Fault Refusal :=
  let i := Instr.send f x
  forWick i s fun w =>
    let t := s.cur
    let W := s.curWick w
    let v := s.getX t x
    let landing := bitOf W.th.pscfg 16
    if s.curCore.sends.length ≥ 32 then .next s
    else if W.positions * W.esize % 8 != 0 then trapNext s t .illegal (wordOf i)
    else if landing && (v.extractLsb' 32 13 != 0 || v.extractLsb' 16 16 == 0) then trapNext s t .illegal (wordOf i)
    else match W.group? f with
    | none => trapNext s t .illegal (wordOf i)
    | some regs =>
      match sendMisaligned landing v W.th.psflag with
      | some a => trapNext s t .misaligned a
      | none =>
        let C := s.curCore
        let y : Send :=
          { who := t.who, hold := false, data := sweepBytes W regs, landing := landing, dest := v, psflag := W.th.psflag,
            pscfg := W.th.pscfg, count := C.psCount.toNat, limit := C.psLimit.toNat, sent := 0, refusals := 0, refusedAt := none
            wait := none, movedAt := s.ac }
        let s := flushStores s t
        let s := if y.data.isEmpty && y.psflag == 0 then s else s.modCurCore fun C => { C with sends := C.sends ++ [y] }
        wickDone s w ((s.curWick w).swept 0 false)

/-- The state with an entry of a core's SEND queue changed. -/
def State.modSend (s : State) (g c k : Nat) (f : Send → Send) : State :=
  s.modCore g c fun C => { C with sends := C.sends.modify k f }
/-- An entry leaves a core's SEND queue. -/
def State.dropSend (s : State) (g c k : Nat) : State := s.modCore g c fun C => { C with sends := C.sends.eraseIdx k }

/-- The device of a landing descriptor, in the order of a physical address (16 R353). -/
def landingDev (d : Word) : Nat := d.toNat / 2 ^ 50
/-- The partition of a landing descriptor (16 R353). -/
def landingPart (d : Word) : Nat := d.toNat / 2 ^ 45 % 32
/-- The tag of a landing descriptor (16 R353). -/
def landingTag (d : Word) : BitVec 16 := d.extractLsb' 16 16
/-- The offset of a landing descriptor (16 R353). -/
def landingOffset (d : Word) : Nat := d.toNat % 2 ^ 16

/-- The thread that issued a SEND. -/
def Send.thread (y : Send) (g c : Nat) : Tid := { gang := g, core := c, who := y.who }
/-- Whether a SEND adds to its flag (16 R352). -/
def Send.fop (y : Send) : Bool := bitOf y.pscfg 29
/-- The value of a SEND's flag (16 R352). -/
def Send.fval (y : Send) : Nat := y.pscfg.toNat / 2 ^ 32
/-- The kind of a SEND's flag access (16 R354). -/
def Send.flagKind (y : Send) : Kind := if y.fop then .rmw else .write

/-- The device where an access of a VF would go, when its walk succeeds. -/
def devOf (s : State) (vf : Nat) (va : Word) (k : Kind) : Option Nat :=
  match (walkAll s 0 vf va k (needOf k false)).1 with
  | .ok (e, _) => some (paCoord e.pa)
  | .error _ => none

/-- The devices where a SEND from byte `from` on still takes effect, its flag's included; none when one is not known (16 R356). -/
def sendDevs (s : State) (vf : Nat) (y : Send) (start : Nat) : Option (List Nat) :=
  let data : Option (List Nat) :=
    if y.landing then some (if start ≥ y.data.length && 0 < y.data.length then [] else [landingDev y.dest])
    else
      let n := y.data.length
      let pages := (natsFrom (start / 64) ((n + 63) / 64 - start / 64)).filter fun k =>
        k == start / 64 || (y.dest.toNat + 64 * k) % 4096 == 0
      pages.mapM fun k => devOf s vf (y.dest + BitVec.ofNat 64 (64 * k)) .peer
  let flag : Option (List Nat) := if y.psflag == 0 then some [] else (devOf s vf y.psflag y.flagKind).map fun d => [d]
  match data, flag with
  | some a, some b => some (a ++ b)
  | _, _ => none

/-- Whether an effect at one of these devices must wait for an earlier SEND of the core (16 R356; log 20). -/
def sendBehind (s : State) (g c k : Nat) (devs : List Nat) : Bool :=
  ((s.core g c).sends.take k).any fun y =>
    match sendDevs s (s.gang g).vf y y.sent with
    | none => true
    | some ds => ds.any devs.contains

/-- A SEND is abandoned (16 R355): no flag, psstat of its thread, and its entry is free. -/
def abandonSend (s : State) (g c k : Nat) (y : Send) (code : BitVec 4) : State :=
  (s.modThread (y.thread g c) fun th =>
    { th with psFails := th.psFails + 1, psCode := if th.psCode == 0 then code else th.psCode }).dropSend g c k

/-- A SEND's translation fails on the sending device (16 R354): code 1 and a fault record. -/
def failSend (s : State) (g c k : Nat) (y : Send) (cause : Cause) (va : Word) (kd : Kind) (p : FaultPlace) : State :=
  pushFault (abandonSend s g c k y 1) (s.gang g).vf (faultRec s g c y.who true cause va kd p)

/-- A SEND waits for a page request, or for room in the dirty log (16 R354, 17 R381). -/
def waitSend (s : State) (g c k : Nat) (va : Word) (kd : Kind) (m : Option Miss) : State :=
  match m with
  | some e => let (w, s) := raiseMiss s (s.gang g).vf va kd e; s.modSend g c k fun y => { y with wait := some w }
  | none =>
    s.modSend g c k fun y =>
      { y with wait := some (roomWait va kd) }

/-- The SEND has `n` more bytes sent; without a flag it ends with its last one. -/
def advanceSend (s : State) (g c k : Nat) (y : Send) (n : Nat) : State :=
  let s := s.progress g
  if y.sent + n ≥ y.data.length then
    let s := drainLandings s
    if y.psflag == 0 then s.dropSend g c k else s.modSend g c k fun y => { y with sent := y.sent + n, refusedAt := none, movedAt := s.ac }
  else s.modSend g c k fun y => { y with sent := y.sent + n, refusedAt := none, movedAt := s.ac }

/-- A refusal of a SEND's flit (16 R355): at the limit it is abandoned, else its back-off begins. -/
def refuseSend (s : State) (g c k : Nat) (y : Send) : State :=
  if y.limit != 0 && y.refusals + 1 ≥ y.limit then abandonSend s g c k y 2
  else s.modSend g c k fun y => { y with refusals := y.refusals + 1, refusedAt := some s.ac, movedAt := s.ac }

/-- The answer of a landing's destination taken (16 R355). -/
def landedSend (s : State) (g c k : Nat) (y : Send) (n : Nat) : FlitAnswer → State
  | .accepted => advanceSend s g c k y n
  | .refused => refuseSend s g c k y
  | .rangeExceeded => abandonSend s g c k y 3
  | .notPermitted => abandonSend s g c k y 4

/-- A partition's torus domain names a device; a device is in its own (09 R211). -/
def inDomain (s : State) (part dev : Nat) : Bool :=
  dev == s.coord.toNat || (tabGet (Part.new [] [] []) s.parts part).domain.contains dev

/-- A landing flit of a SEND: of this device by its own windows, of another by its answer (16 R355). -/
def sendLanding (s : State) (g c k : Nat) (y : Send) (ans : FlitAnswer) : State :=
  let dev := landingDev y.dest
  let bs := (y.data.drop y.sent).take 128
  let v := s.vf (s.gang g).vf
  if !inDomain s v.part dev then abandonSend s g c k y 4
  else if dev == s.coord.toNat then
    let (a, s) := acceptLanding s
      { senderKey := v.policy.key, sameDomain := true, part := landingPart y.dest, tag := landingTag y.dest
        offset := landingOffset y.dest + y.sent, total := y.data.length - y.sent, bytes := bs }
    landedSend s g c k y bs.length a
  else if !reachable s dev then noteRequest s v.part dev
  else if !linkRoom s dev then s
  else landedSend (sendFlitOut (dropRequest s v.part dev) v.part dev false bs) g c k y bs.length ans

/-- A memory flit of a SEND: within one 4 KiB granule (16 R354). -/
def sendMemory (s : State) (g c k : Nat) (y : Send) : State :=
  let vf := (s.gang g).vf
  let va := y.dest + BitVec.ofNat 64 y.sent
  let bs := (y.data.drop y.sent).take (inGranule va 128)
  match translate s ((s.gang g).pcore c) vf va .peer false with
  | (.fail e p, s) => failSend s g c k y e va .peer p
  | (.miss m, s) => waitSend s g c k va .peer (some m)
  | (.logFull, s) => waitSend s g c k va .peer none
  | (.ok x, s') =>
    let dev := paCoord x.pa
    if sendBehind s g c k [dev] then s
    else if !rangeRoom s' vf x.pa bs.length then noRoom s' vf x.pa
    else advanceSend (l2WriteBytes s' vf x.pa bs x.cmp) g c k y bs.length

/-- SEND_FLIT (16 R354, R355): the next flit of entry `k` of a core's SEND queue. -/
def execSendFlit (g c k : Nat) (ans : FlitAnswer) (s : State) : Host.Outcome State Fault Refusal :=
  match enginesRun s g, (s.core g c).sends[k]? with
  | true, some y =>
    if y.wait.isSome || y.refusedAt.isSome || y.sent ≥ y.data.length then .next s
    else if !y.landing then .next (sendMemory s g c k y)
    else if sendBehind s g c k [landingDev y.dest] then .next s
    else .next (sendLanding s g c k y ans)
  | _, _ => .next s

/-- SEND_FLAG (16 R354): every byte is visible; the flag is written and the SEND ends. -/
def execSendFlag (g c k : Nat) (s : State) : Host.Outcome State Fault Refusal :=
  match enginesRun s g, (s.core g c).sends[k]? with
  | true, some y =>
    if y.wait.isSome || y.sent < y.data.length || y.psflag == 0 then .next s
    else
      let vf := (s.gang g).vf
      match translate s ((s.gang g).pcore c) vf y.psflag y.flagKind false with
      | (.fail e p, s) => .next (failSend s g c k y e y.psflag y.flagKind p)
      | (.miss m, s) => .next (waitSend s g c k y.psflag y.flagKind (some m))
      | (.logFull, s) => .next (waitSend s g c k y.psflag y.flagKind none)
      | (.ok x, s') =>
        let devs := paCoord x.pa :: (sendDevs s vf { y with psflag := 0 } 0).getD []
        if sendBehind s g c k devs then .next s
        else if y.fop && poisoned s' x.pa then .next (failSend s' g c k y .poison y.psflag y.flagKind { ipa := x.ipa, place := 0 })
        else if y.fop && hostRefuses s' x.pa then .next (failSend s' g c k y .protection y.psflag y.flagKind { ipa := x.ipa, place := 0 })
        else if !l2Room s' vf x.pa then .next (noRoom s' vf x.pa)
        else .next (((writeFlag (drainLandings s') vf x y.fop y.fval).progress g).dropSend g c k)
  | _, _ => .next s

/-- SEND_REPLAY (16 R355): psback.count + 1 ac after a refusal the SEND may send its flits again. -/
def execSendReplay (g c k : Nat) (s : State) : Host.Outcome State Fault Refusal :=
  match enginesRun s g, (s.core g c).sends[k]? with
  | true, some y =>
    match y.refusedAt with
    | some at0 => .next (if s.ac - at0 ≥ y.count + 1 then s.modSend g c k fun y => { y with refusedAt := none } else s)
    | none => .next s
  | _, _ => .next s

/-- LANDING (16 R355): a flit from another device reaches the landing buffer. -/
def execLanding (f : LandingFlit) (s : State) : Host.Outcome State Fault Refusal := .next (acceptLanding s f).2

end Sys2Proof.Machine
end

