-- ==== Sys2Proof/Machine/Paging.lean ====
section
/-! DEFINITION. Answers to page requests, invalidations, the dirty log and run-ahead fetch (09 R222 to R229, 17 R381). -/

namespace Sys2Proof.Machine

/-- The gangs of a VF, by number. -/
def vfGangs (s : State) (vf : Nat) : List Nat := (s.gangs.filter fun (_, G) => G.vf == vf).map (·.1)

/-- The threads of a gang's running cores, in order of core, taper first. -/
def gangThreads (s : State) (g : Nat) : List Tid :=
  (gangCores (s.gang g)).flatMap fun c => ([Who.taper] ++ (List.finRange 8).map Who.wick).map fun w => { gang := g, core := c, who := w }

/-- The threads of a VF. -/
def vfThreads (s : State) (vf : Nat) : List Tid := (vfGangs s vf).flatMap (gangThreads s)

/-- The gang cores of a VF. -/
def vfCores (s : State) (vf : Nat) : List (Nat × Nat) := (vfGangs s vf).flatMap fun g => (gangCores (s.gang g)).map fun c => (g, c)

/-- A thread whose access waits goes on where `sel` picks its wait: its instruction executes again (09 R223). A wait for the dirty log alone
goes on when `sel` picks waits for room. -/
def retryThread (s : State) (sel : PageWait → Bool) (t : Tid) : State :=
  match (s.thread t).wait with
  | some (.page w) => if sel w then s.endWait t else s
  | some .dirtyLog => if sel (roomWait 0 .write) then s.endWait t else s
  | some .vmem => answerVmem s t sel false
  | _ => s

/-- Every copy, SEND, completion record and fault record of a VF whose wait `sel` picks goes on (09 R223). -/
def retryEngines (s : State) (vf : Nat) (sel : PageWait → Bool) : State :=
  let free (w : Option PageWait) : Option PageWait := match w with | some x => if sel x then none else w | none => none
  let s := (vfCores s vf).foldl (fun s (g, c) => s.modCore g c fun C =>
    { C with
      chans := vmap (fun x => { x with queue := x.queue.map fun y => { y with wait := free y.wait } }) C.chans
      sends := C.sends.map fun y => { y with wait := free y.wait } }) s
  s.modVf vf fun v =>
    { v with
      rings := vmap (fun r => { r with compl := r.compl.map fun c => { c with wait := free c.wait } }) v.rings
      faultWait := free v.faultWait }

/-- Every access of a VF whose wait `sel` picks walks again (09 R223). -/
def retryAll (s : State) (vf : Nat) (sel : PageWait → Bool) : State :=
  (vfThreads s vf).foldl (fun s t => retryThread s sel t) (retryEngines s vf sel)

/-- The members of a product whose tile fetch failed: the wick itself, and those of its quad that wait in the same joint step
(10 R249, R255). -/
def fetchMembers (s : State) (t : Tid) (w : Fin 8) (a : BitVec 2) : List (Nat × Fin 8) :=
  if joinedTile s t.gang t.core == some a.toFin then
    (quadCores t.core).flatMap fun c => (List.finRange 8).filterMap fun k =>
      if (c == t.core && k == w) || (match (s.wick t.gang c k).th.wait with | some (.joint i) => tileOf i == some a | _ => false) then
        some (c, k)
      else none
  else [(t.core, w)]

/-- A tile fetch ends on a refused request (10 R249): pins go, a fault record, and every member traps. -/
def refuseFetch (s : State) (t : Tid) (w : Fin 8) (a : BitVec 2) (p : PageWait) : State :=
  let ms := fetchMembers s t w a
  let s := ms.foldl (fun s (c, _) => unpin s t.gang c) s
  let r := faultRec s t.gang t.core t.who true .stage2 p.va p.kind p.miss.place
  let s := ms.foldl (fun s (c, k) => wickFault s t.gang c k .stage2 p.va) s
  let s := if ms.length > 1 || holdsJoined s t.gang t.core w then dissolve s t.gang t.core else s
  pushFault s (s.vfOf t) r

/-- A thread whose access waits for a refused request traps (09 R223). -/
def refuseThread (s : State) (id : Nat) (t : Tid) : State :=
  match (s.thread t).wait with
  | some (.page p) =>
    if p.id != some id then s
    else match t.who with
    | .taper => trapXlat s t .stage2 p.va p.kind p.miss.place
    | .wick w =>
      match (s.wick t.gang t.core w).fetch with
      | some F => refuseFetch s t w (matFields F.instr).2.2.1 p
      | none => trapXlat s t .stage2 p.va p.kind p.miss.place
  | some .vmem => answerVmem s t (fun w => w.id == some id) true
  | _ => s

/-- A page wait of a request. -/
def PageWait.is (id : Nat) : Option PageWait → Option PageWait
  | some w => if w.id == some id then some w else none
  | none => none

/-- The copies of a core that wait for a refused request fail (13 R305). -/
def refuseCopies (s : State) (g c id : Nat) : State :=
  (List.finRange 4).foldl (fun s ch =>
    match ((s.core g c).chans[ch]).queue with
    | y :: _ =>
      match PageWait.is id y.wait with
      | some w => failCopy s g c ch y .stage2 w.va w.kind w.miss.place
      | none => s
    | [] => s) s

/-- The SENDs of a core that wait for a refused request are abandoned (16 R354); the last in the queue first. -/
def refuseSends (s : State) (g c id : Nat) : State :=
  (natsFrom 0 (s.core g c).sends.length).reverse.foldl (fun s k =>
    match (s.core g c).sends[k]? with
    | some y =>
      match PageWait.is id y.wait with
      | some w => failSend s g c k y .stage2 w.va w.kind w.miss.place
      | none => s
    | none => s) s

/-- The completion records and the fault record of a VF that wait for a refused request are dropped (17 R367, 09 R221). -/
def refuseRecords (s : State) (vf id : Nat) : State :=
  let s := (List.finRange 4).foldl (fun s n =>
    match (s.vf vf).rings[n].compl with
    | c :: _ =>
      match PageWait.is id c.wait with
      | some w => dropCompl s vf n c .stage2 w.miss.place
      | none => s
    | [] => s) s
  if (PageWait.is id (s.vf vf).faultWait).isSome then dropFault s vf else s

/-- Every access of a VF that waits for a request fails with a stage-2 fault (09 R223). -/
def refuseAll (s : State) (vf id : Nat) : State :=
  let s := (vfThreads s vf).foldl (fun s t => refuseThread s id t) s
  let s := (vfCores s vf).foldl (fun s (g, c) => refuseSends (refuseCopies s g c id) g c id) s
  refuseRecords s vf id

/-- PAGE_REQUEST_ANSWER (09 R223, 19 R404). -/
def execPageRequestAnswer (vf id code : Nat) (s : State) : Host.Outcome State Fault Refusal :=
  if !vfExists s vf then .next s
  else if code > 1 || !(s.vf vf).reqs.any (·.id == id) then
    .next (s.modVf vf fun v => { v with errAnswers := satInc v.errAnswers })
  else
    let s := s.modVf vf fun v => { v with reqs := v.reqs.filter (·.id != id) }
    .next (if code == 0 then retryAll s vf (fun w => w.id == some id) else refuseAll s vf id)

/-- PAGE_REQUEST_RESEND (09 R222): accesses that a full queue refused are tried again, 256 ac after their refusal. -/
def execPageRequestResend (vf : Nat) (s : State) : Host.Outcome State Fault Refusal :=
  .next (if vfExists s vf then retryAll s vf (fun w => w.id.isNone && !w.room && w.refusedAt + 256 ≤ s.ac) else s)

/-- The physical address of a dirty-log entry (17 R381): a ring in host memory. -/
def dlogAddr (s : State) (v : Vf) (lg : Nat) : Nat := s.coord.toNat * 2 ^ 46 + 2 ^ 45 + (v.dlogBase + 8 * (v.dlogHead % 2 ^ lg)) % 2 ^ 44

/-- An entry appended to a VF's dirty log, when it has room (17 R381). -/
def appendLog (s : State) (vf : Nat) (e : Word) : Option State :=
  let v := s.vf vf
  match v.dlogLg with
  | none => some s
  | some lg =>
    if v.dlogHead - v.dlogTail ≥ 2 ^ lg then none
    else some ((l2WriteBytes s vf (dlogAddr s v lg) (leBytes 8 e.toNat) false).modVf vf fun v => { v with dlogHead := v.dlogHead + 1 })

/-- DIRTY_LOG_APPEND (17 R381). -/
def execDirtyLogAppend (vf : Nat) (s : State) : Host.Outcome State Fault Refusal :=
  match vfExists s vf, (s.vf vf).dlogWait with
  | true, e :: es =>
    match appendLog s vf e with
    | some s => .next (s.modVf vf fun v => { v with dlogWait := es })
    | none => .next s
  | _, _ => .next s

/-- DIRTY_LOG_CONSUMED (17 R381): the hypervisor has taken `n` entries; writes that waited for room go on. -/
def execDirtyLogConsumed (vf n : Nat) (s : State) : Host.Outcome State Fault Refusal :=
  if !vfExists s vf then .next s
  else
    let s := s.modVf vf fun v => { v with dlogTail := min v.dlogHead (v.dlogTail + n) }
    .next (retryAll s vf (·.room))

/-- Whether an invalidation names some bytes from `lo` on, at its stage. -/
def Inval.meets (i : Inval) (lo n : Nat) : Bool := i.all || (i.lo % 2 ^ 36 * 4096 < lo + n && lo < (i.lo % 2 ^ 36 + i.pages) * 4096)

/-- Whether a cached translation derives from an entry in an invalidated range of its stage (09 R227): of stage 2, its output, or a page of
the stage-1 tables that gave it, lies in the range. -/
def Inval.hits (i : Inval) (stage2 : Bool) (vf : Nat) (e : TlbEntry) : Bool :=
  e.vf == vf && (if stage2 then i.meets e.ipa (2 ^ e.lg) || e.tables.any (fun p => i.meets (p * 4096) 4096) else i.meets (e.va % 2 ^ 48) (2 ^ e.lg))

/-- A thread of a VF whose translation may be old starts its access again: a wait on a word, and stores of a waiting vector form
(09 R227). -/
def dropXlats (s : State) (t : Tid) : State :=
  match (s.thread t).wait with
  | some (.word ..) => s.endWait t
  | some .vmem =>
    match t.who with
    | .wick w => s.modWick t.gang t.core w fun W =>
        { W with vmem := W.vmem.map fun v => { v with slots := v.slots.filter fun (_, sl) => match sl with | .done _ _ (some _) => false | _ => true } }
    | .taper => s
  | _ => s

/-- Whether a line is a tile line of a VF whose backing bytes lie in an invalidated range of stage 2 (09 R227, 12 R283). -/
def Inval.covers (i : Inval) (vf : Nat) (l : L2Line) : Bool := l.isTile (fun v _ => v == vf) && l.backing.any fun p => i.meets (p * 4096) 4096

/-- Whether every access that a VF's threads and engines have translated is performed: no queued access, no tile fetch that a wick has left
behind, and for stage 2 no pinned tile line in the range (09 R227). -/
def accessesDone (s : State) (vf : Nat) (stage2 : Bool) (i : Inval) : Bool :=
  (vfThreads s vf).all (fun t => (s.thread t).pend.isEmpty) && (vfCores s vf).all (fun (g, c) => (s.core g c).job.isNone) &&
  (!stage2 || !s.l2.any fun l => i.covers vf l && !l.pins.isEmpty)

/-- The scalar data caches of a partition are emptied (04 R101, 09 R228). -/
def emptyDcaches (s : State) (part : Nat) : State :=
  ((tabGet (Part.new [] [] []) s.parts part).quads.flatMap fun q => natsFrom (4 * q) 4).foldl
    (fun s p => s.modPcore p fun c => { c with dcache := [] }) s

/-- The completion of an invalidation (09 R227, R228): cached translations in the range are gone, with the table entries that walkers keep
for the VF, and accesses under way start again. -/
def finishInval (s : State) (vf : Nat) (stage2 : Bool) (i : Inval) : State :=
  let keep (l : List TlbEntry) : List TlbEntry := l.filter fun e => !i.hits stage2 vf e
  let s := { s with
    pcores := s.pcores.map fun (k, p) => (k, { p with tlb := keep p.tlb }), dieTlb := vmap keep s.dieTlb
    walkers := vmap (fun l => l.filter fun e => e.vf != vf) s.walkers }
  let s := (vfThreads s vf).foldl dropXlats s
  if stage2 then
    let s := dropLines (emptyDcaches s (s.vf vf).part) (i.covers vf)
    let s := s.modVf vf fun v => { v with inval2 := v.inval2.tail }
    { s with
      root := { s.root with
        granules := i.zero.foldl (fun t g => tabPut t g .zeroing) s.root.granules
        completions := s.root.completions ++ (match i.seq with | some q => [{ seq := q, status := 0 }] | none => []) } }
  else s.modVf vf fun v => { v with inval1 := v.inval1.tail, s1done := v.s1done + 1 }

/-- INVALIDATION_COMPLETE (09 R227). -/
def execInvalidationComplete (vf : Nat) (stage2 : Bool) (s : State) : Host.Outcome State Fault Refusal :=
  let v := s.vf vf
  match if stage2 then v.inval2 else v.inval1 with
  | i :: _ => .next (if vfExists s vf && accessesDone s vf stage2 i then finishInval s vf stage2 i else s)
  | [] => .next s

/-- RUN_AHEAD_FETCH (09 R229, 12 R295): the line after the one that a thread executes in is fetched ahead, or dropped. -/
def execRunAheadFetch (t : Tid) (s : State) : Host.Outcome State Fault Refusal :=
  if !runnable s t || s.blockDriven t then .next s
  else .next (prefetchOne s t (BitVec.ofNat 64 ((s.pcOf t).toNat / 64 * 64 + 64)) true)

end Sys2Proof.Machine
end

