-- ==== Sys2Proof/Machine/Context.lean ====
section
/-! DEFINITION. The end of a gang, its pre-emption, its context image and its return (01 R22 to R27, 11 R271, R272, 17 R377, R378,
19 R406; log 11). -/

namespace Sys2Proof.Machine

/-- The bytes of a quad slot, and of a core within it (17 R377). -/
def slotBytes : Nat := 2 ^ 24
/-- The bytes of a core within a quad slot (17 R377). -/
def coreBytes : Nat := 2 ^ 22

/-- Where a gang core's context lies (17 R377). -/
def ctxCore (s : State) (g c : Nat) : Nat :=
  let G := s.gang g
  (s.vf G.vf).ctxBase + slotBytes * (G.slots[c / 4]?).getD 0 + coreBytes * (c % 4)

/-- Whether a gang's context images are ciphertext: a confidential VF's slots in host memory (19 R406). -/
def isSealed (s : State) (g : Nat) : Bool :=
  let v := s.vf (s.gang g).vf
  v.policy.conf && isHost v.ctxBase

/-- The context slots of a VF's area that images may fill: in host memory the end of a confidential VF's area holds a tag of 16 bytes for
every 4 KiB of the slots (19 R406). -/
def usableSlots (v : Vf) : Nat := if v.policy.conf && isHost v.ctxBase then v.ctxSlots * 256 / 257 else v.ctxSlots

/-- Where the tag of the 4 KiB that hold a byte of a context area lies (19 R406). -/
def tagAddr (v : Vf) (pa : Nat) : Nat := v.ctxBase + slotBytes * usableSlots v + 16 * ((pa - v.ctxBase) / 4096)

/-- The nonce of a byte of a context area: the slot number followed by the save count (19 R406). -/
def ctxNonce (v : Vf) (pa : Nat) : Nat := (pa - v.ctxBase) / slotBytes * 2 ^ 64 + v.saveCount

/-- Bytes that the root writes to a confidential VF's context area, kept in the gang's record for the check of a restore. -/
def rootWrite (s : State) (g pa : Nat) (bs : List Byte) : State :=
  (l2WriteBytes s (s.gang g).vf pa bs false).modGang g fun G =>
    { G with sealed := (bs.zip (natsFrom pa bs.length)).foldl (fun t (b, a) => tabPut t a b) G.sealed }

/-- Bytes written to the context area: as they are, or as ciphertext with the tags of their 4 KiB (19 R406, log 6). -/
def ctxWrite (s : State) (g pa : Nat) (bs : List Byte) : State :=
  if isSealed s g then
    let v := s.vf (s.gang g).vf
    let cs := (bs.zip (natsFrom pa bs.length)).map fun (b, a) => Config.cipherByte v.ctxKey (ctxNonce v a) a b
    (natsFrom (pa / 4096) ((pa + bs.length - 1) / 4096 + 1 - pa / 4096)).foldl (fun s p =>
      rootWrite s g (tagAddr v (4096 * p)) ((natsFrom 0 16).map fun k => Config.tagByte v.ctxKey (ctxNonce v (4096 * p)) p k)) (rootWrite s g pa cs)
  else l2WriteBytes s (s.gang g).vf pa bs false

/-- The slot number of a tile's image (17 R377). -/
def slotNumber (G : Gang) (c : Nat) (a : Fin 4) : Nat := (G.slots[c / 4]?).getD 0 * 16 + c % 4 * 4 + a.val

/-- Where a tile's image lies (17 R377). -/
def tileAddr (s : State) (g c : Nat) (a : Fin 4) : Nat := ctxCore s g c + 0x2B8000 + 0x20100 * a.val

/-- The image of a tile, written by the dispatcher (11 R267, R271). -/
def saveTile (s : State) (g c : Nat) (a : Fin 4) (evict : Bool) : State :=
  let C := s.core g c
  let w := (C.owners[a].owner).getD 0
  let h := BitVec.ofNat 64 (slotNumber (s.gang g) c a)
  let s := ctxWrite s g (tileAddr s g c a) (spillHeader s g c a w evict h ++ tileBytes C.tiles[a])
  s.modCore g c fun C =>
    { C with
      tiles := C.tiles.set a { C.tiles[a] with dirty := false, imaged := true }
      owners := if evict then C.owners.set a { C.owners[a] with handle := h } else C.owners }

/-- Every vigil of a core is saved; one whose refill has not ended keeps its image (11 R271, R272). -/
def saveVigils (s : State) (g c : Nat) : State :=
  (List.finRange 4).foldl (fun s a =>
    let C := s.core g c
    if C.owners[a].vigil && (C.refill[a]).isNone then saveTile s g c a true else s) s

/-- Every dirty tile that is no vigil is saved (10 R238). -/
def saveTiles (s : State) (g c : Nat) : State :=
  (List.finRange 4).foldl (fun s a =>
    let C := s.core g c
    if !C.owners[a].vigil && C.tiles[a].dirty then saveTile s g c a false else s) s

/-- The dirty rows of a wick are saved up to their extents (06 R146), and its masks, one in stage mode as it reads (06 R138). -/
def saveWick (s : State) (g c : Nat) (w : Fin 8) : State :=
  let base := ctxCore s g c
  let W := s.wick g c w
  let s := (natsFrom 0 32).foldl (fun s j =>
    if bitOf W.dirty j then
      let n := 64 * tabGet 0 W.extent j
      ctxWrite s g (base + 0x40000 * w.val + 0x2000 * j) (leBytes n (tabGet 0 W.rows j).toNat)
    else s) s
  let s := (natsFrom 1 7).foldl (fun s k =>
    ctxWrite s g (base + 0x280000 + 0x7000 * w.val + 0x1000 * (k - 1)) (leBytes 4096 (W.mask k).toNat)) s
  s.modWick g c w fun W => { W with dirty := 0 }

/-- The snapshot rows of a core's windows are saved (16 R351). -/
def saveWindows (s : State) (g c : Nat) : State :=
  let base := ctxCore s g c + 0x200000
  (List.finRange 8).foldl (fun s k =>
    let v := (s.core g c).windows[k]
    (natsFrom 0 v.snap.length).foldl (fun s r =>
      ctxWrite s g (base + 0x10000 * k.val + 0x2000 * r) (leBytes 8192 (v.snap.getD r 0).toNat)) s) s

/-- The threads of a core in the order of their scalar sets: the taper, then the wicks. -/
def scalarOrder : List Who := [.taper] ++ (List.finRange 8).map .wick

/-- The nine scalar sets of a core are saved (04 R82). -/
def saveScalars (s : State) (g c : Nat) : State :=
  let bs := scalarOrder.flatMap fun w =>
    (s.thread { gang := g, core := c, who := w }).x.toList.flatMap fun v => leBytes 8 v.toNat
  ctxWrite s g (ctxCore s g c + 0x338400) bs

/-- The remaining state of a core, with its quad's barrier objects and joined tile, in the device's own layout, of which the manual says only
that a restore reads it (17 R377, R378 steps 4 to 6; log 11). -/
opaque restLayout : Core → Tab Bar → Tab Quad → List Byte

/-- The bytes of a core's remaining state: the ownership table, address pointers, windows, CSRs, queues, barrier objects, copies, SENDs and
release counts (17 R377, R378). -/
def restBytes (s : State) (g c : Nat) : List Byte :=
  (restLayout (s.core g c) (s.gang g).qbars (s.gang g).quadMode).take (0x3FFF00 - 0x338D00)

/-- The remaining state of a core is saved (17 R378). -/
def saveRest (s : State) (g c : Nat) : State := ctxWrite s g (ctxCore s g c + 0x338D00) (restBytes s g c)

/-- The ranges of the image of a core that a header's check covers: rows, snapshot rows, masks, tile images, scalar sets, the remaining
state; vigil images carry checks of their own. -/
def ctxRanges (s : State) (g c : Nat) : List (Nat × Nat) :=
  let base := ctxCore s g c
  let C := s.core g c
  let rows := (List.finRange 8).flatMap fun w => (natsFrom 0 32).map fun j =>
    (base + 0x40000 * w.val + 0x2000 * j, 64 * tabGet 0 C.wicks[w].extent j)
  let snaps := (List.finRange 8).flatMap fun k => (natsFrom 0 C.windows[k].snap.length).map fun r =>
    (base + 0x200000 + 0x10000 * k.val + 0x2000 * r, 8192)
  let tiles := (List.finRange 4).filterMap fun a =>
    if !C.owners[a].vigil && C.tiles[a].imaged then some (tileAddr s g c a, imageBytes) else none
  rows ++ snaps ++ [(base + 0x280000, 0x38000)] ++ tiles ++ [(base + 0x338400, 2304), (base + 0x338D00, (restBytes s g c).length)]

/-- The header of a gang's context image (17 R378 step 7): gang tag, coordinates, slots, and a check over the image. -/
def ctxHeader (s : State) (g : Nat) : List Byte :=
  let G := s.gang g
  let front := leBytes 2 G.desc.gtag.toNat ++ leBytes 1 G.desc.ncm1.toNat ++ leBytes 1 G.desc.nsm1.toNat ++
    leBytes 12 G.desc.stages.toNat ++ (natsFrom 0 24).flatMap (fun j => leBytes 4 ((G.slots[j]?).getD 0)) ++ List.replicate 112 0
  front ++ shake256 (front ++ (gangCores G).flatMap fun c => (ctxRanges s g c).flatMap fun (a, n) => memBytes s.mem a n)

/-- Where a gang's header lies: at the end of gang core 0's part (17 R377). -/
def headerAddr (s : State) (g : Nat) : Nat := ctxCore s g 0 + 0x3FFF00

/-- Each running core of a gang in turn. -/
def eachCore (s : State) (g : Nat) (f : State → Nat → State) : State := (gangCores (s.gang g)).foldl f s

/-- The context of a gang is saved, in the order of 17 R378. -/
def saveContext (s : State) (g : Nat) : State :=
  let s := eachCore (drainLandings s) g fun s c => saveVigils s g c
  let s := eachCore s g fun s c => saveTiles s g c
  let s := eachCore s g fun s c => saveWindows ((List.finRange 8).foldl (fun s w => saveWick s g c w) s) g c
  let s := eachCore s g fun s c => saveRest (saveScalars s g c) g c
  ctxWrite s g (headerAddr s g) (ctxHeader s g)

/-- A thread is stopped at an instruction boundary: its queued accesses are performed, and an access or a STRIP.W that waits is given up, to
be made again from the start (01 R22, 06 R148, 08 R197, 09 R226, 10 R249, 15 R336, R341). -/
def stopThread (s : State) (t : Tid) : State :=
  let s := flushStores s t
  let s := match t.who with
    | .wick w => s.modWick t.gang t.core w fun W => { W with fetch := none }
    | .taper => s
  match (s.thread t).wait with
  | some (.page _) | some .dirtyLog | some (.word ..) | some (.stripW ..) | some .tile =>
    let s := match t.who with
      | .wick w => s.modWick t.gang t.core w fun W => { W with vmem := none }
      | .taper => s
    s.endWait t
  | some .vmem =>
    match t.who with
    | .wick w => (vecAbandon s t w).endWait t
    | .taper => s.endWait t
  | _ => s

/-- The engines of a core stop, a tile fetch that its wick has left behind at its end, the others at the chunk or flit in hand: what waits for a page is translated again on resumption (13 R306, 16 R354,
17 R378). -/
def stopEngines (s : State) (g c : Nat) : State :=
  (unpin (jobAll s g c) g c).modCore g c fun C =>
    { C with
      issue := C.issue.settle
      chans := vmap (fun x => { x with queue := x.queue.map fun y => { y with wait := none } }) C.chans
      sends := C.sends.map fun y => { y with wait := none } }

/-- PRE_EMPTION (01 R22, 17 R378 steps 1 and 2): a gang that the dispatcher has chosen stops. -/
def execPreEmption (g : Nat) (s : State) : Host.Outcome State Fault Refusal :=
  match tabGet? s.gangs g with
  | some G =>
    if G.life == .running && G.preempt then
      let s := (gangThreads s g).foldl stopThread s
      let s := (gangThreads s g).foldl flushStores s
      let s := (gangCores G).foldl (fun s c => stopEngines s g c) s
      .next (s.modGang g fun G => { G with life := .stopping, progressAt := s.ac })
    else .next s
  | none => .next s

/-- The context slots that a VF's gangs hold (17 R377). -/
def heldSlots (s : State) (vf : Nat) : List Nat := s.gangs.flatMap fun (_, G) => if G.vf == vf then G.slots else []

/-- The free context slots of a VF, the lowest first (17 R377). -/
def freeSlots (s : State) (vf : Nat) : List Nat := (natsFrom 0 (usableSlots (s.vf vf))).filter fun k => !(heldSlots s vf).contains k

/-- The slots that the first saves of a VF's gangs chosen for pre-emption are still to take (17 R377). -/
def promisedSlots (s : State) (vf : Nat) : Nat :=
  (s.gangs.map fun (_, G) =>
    if G.vf == vf && G.slots.isEmpty && (G.preempt || G.life == .stopping) then G.desc.quadCount else 0).foldl (· + ·) 0

/-- Whether a gang holds the slots that a save of it needs, or as many are free and promised to no other (17 R377). -/
def canSave (s : State) (G : Gang) : Bool :=
  !G.slots.isEmpty || G.desc.quadCount + promisedSlots s G.vf ≤ (freeSlots s G.vf).length

/-- A running gang is chosen for pre-emption, by a layout commit alone or not (17 R369, R376). -/
def choosePreempt (s : State) (g : Nat) (forLayout : Bool) : State :=
  s.modGang g fun G => { G with preempt := true, forLayout := forLayout }

/-- A gang takes its slots at its first save and keeps them until it ends (17 R377). -/
def takeSlots (s : State) (g : Nat) : State :=
  let free := freeSlots s (s.gang g).vf
  s.modGang g fun G => { G with slots := if G.slots.isEmpty then free.take G.desc.quadCount else G.slots }

/-- The running gang is not to be pre-empted after all. -/
def unchoose (s : State) (g : Nat) : State := s.modGang g fun G => { G with preempt := false, forLayout := false }

/-- A host command's completion (19 R400). -/
def complete (s : State) (seq : BitVec 32) (status : Nat) : State :=
  { s with root := { s.root with completions := s.root.completions ++ [{ seq := seq, status := status }] } }

/-- Every trace of a gang that ends leaves the module: its pins, its windows, its tiles, its slots and its record (01 R27, 11 R273). -/
def removeGang (s : State) (g : Nat) : State :=
  let s := (gangCores (s.gang g)).foldl (fun s c => unpin s g c) s
  { s with gangs := tabDel s.gangs g }

/-- A gang ends with a status and a code in its completion record (17 R367). -/
def endGang (s : State) (g status code : Nat) : State :=
  let G := s.gang g
  let part := s.partOf g
  let s := pushCompl (drainLandings s) G.vf G.ring G.desc status code G.seq G
  settleIdle (noteCandidates (removeGang s g)) part

/-- GANG_END (01 R27): every taper has halted, and no copy, SEND or flag write of the gang is left. -/
def execGangEnd (g : Nat) (s : State) : Host.Outcome State Fault Refusal :=
  match tabGet? s.gangs g with
  | some G =>
    let done := (gangCores G).all fun c =>
      let C := s.core g c
      C.taper.run == .halted && C.chans.toList.all (·.queue.isEmpty) && C.sends.isEmpty
    if G.life == .running && done then .next (endGang ((gangThreads s g).foldl flushStores s) g 0 0) else .next s
  | none => .next s

/-- The partition that new tables give a quad; 31 when none (17 R375). -/
def tableQuad (l : LayoutTables) (q : Nat) : Nat := ((l.quadMap.find? (·.1 == q)).map (·.2)).getD 31
/-- The partition of a quad; 31 when none. -/
def quadPart (s : State) (q : Nat) : Nat := tabGet 31 s.quadMap q

/-- Whether a commit in progress moves a quad: the dispatcher places nothing on it (17 R376 step 3). -/
def quadMoves (s : State) (q : Nat) : Bool :=
  match s.shadow with
  | some (_, l) => tableQuad l q != quadPart s q
  | none => false

/-- A layout commit is abandoned (17 R376): its shadows are discarded, and the gangs that it alone had chosen run on. -/
def abandonLayout (s : State) (status : Nat) : State :=
  match s.shadow with
  | some (seq, _) =>
    let s := (s.gangs.filter fun (_, G) => G.life == .running && G.forLayout).foldl (fun s (g, _) => unchoose s g) s
    complete { s with shadow := none } seq status
  | none => s

/-- Which stores in flight are performed as their gang ends: those of an element group that has begun, and of the others those that the manual
leaves open, whole element groups together (18 R394, log 6). -/
def strandMarks (free : Nat) (q : List PendAccess) : List Bool :=
  (q.zip (natsFrom 0 q.length)).map fun (p, k) =>
    let first := if p.group.isSome then q.findIdx (·.group == p.group) else k
    p.load.isNone && (p.begun || (Config.freeNat free).testBit first)

/-- The stores in flight of a gang that a device fault ends: performed in whole 64 B element groups or not at all (18 R394). -/
def strandStores (s : State) (g : Nat) : State :=
  (gangThreads s g).foldl (fun s t =>
    let s := flushMarked s t (strandMarks s.free (s.thread t).pend)
    { (s.modThread t fun th => { th with pend := [] }) with free := s.free + 1 }) s

/-- The page requests for which a gang's threads, copies and SENDs wait. -/
def gangWaits (s : State) (g : Nat) : List Nat :=
  ((gangThreads s g).flatMap fun t =>
    match (s.thread t).wait, t.who with
    | some (.page w), _ => w.id.toList
    | some .vmem, .wick k =>
      ((s.wick g t.core k).vmem.map fun v => v.slots.filterMap fun (_, x) => match x with | .pending w => w.id | _ => none).getD []
    | _, _ => []) ++
  (gangCores (s.gang g)).flatMap fun c =>
    let C := s.core g c
    (C.chans.toList.flatMap fun x => x.queue.filterMap fun y => y.wait.bind (·.id)) ++ C.sends.filterMap fun y => y.wait.bind (·.id)

/-- The page requests for which anything of a VF waits: its gangs, its completion records, its fault record. -/
def vfWaits (s : State) (vf : Nat) : List Nat :=
  (vfGangs s vf).flatMap (gangWaits s) ++ ((s.vf vf).rings.toList.flatMap fun r => r.compl.filterMap fun c => c.wait.bind (·.id)) ++
    ((s.vf vf).faultWait.bind (·.id)).toList

/-- Page requests of a VF for which only a gang that is gone waited are discarded (18 R394). -/
def discardReqs (s : State) (vf : Nat) (ids : List Nat) : State :=
  let live := vfWaits s vf
  s.modVf vf fun v => { v with reqs := v.reqs.filter fun q => !ids.contains q.id || live.contains q.id }

/-- A device fault ends one gang (18 R394). -/
def faultGang (s : State) (g : Nat) (cause : Cause) : State :=
  discardReqs (endGang (strandStores s g) g 2 cause.code.toNat) (s.gang g).vf (gangWaits s g)

/-- The gang's saved context cannot be had back: it ends with cause spill-check (11 R272, 17 R378, 18 R394), a device fault that abandons a
layout commit in progress (17 R376). -/
def spillFail (s : State) (g : Nat) : State := abandonLayout (faultGang s g .spillCheck) 5

/-- Whether any byte of a range of physical addresses is poisoned. -/
def rangePoison (s : State) (a n : Nat) : Bool :=
  0 < n && s.poison.any fun k => sectorOf a ≤ k && k ≤ sectorOf (a + n - 1)

/-- Whether any byte of a range of physical addresses cannot be read: it is poisoned, or the host refuses it (08 R209, 18 R394). -/
def rangeLost (s : State) (a n : Nat) : Bool :=
  rangePoison s a n || (0 < n && s.denied.any fun k => isHost (64 * k) && sectorOf a ≤ k && k ≤ sectorOf (a + n - 1))

/-- The ciphertext of a range and its tags are as the root wrote them (19 R406). -/
def sealedRight (s : State) (g a n : Nat) : Bool :=
  let G := s.gang g
  let v := s.vf G.vf
  G.sealed.all fun (x, b) =>
    !((a ≤ x && x < a + n) || (tagAddr v a ≤ x && x < tagAddr v (a + n - 1) + 16)) || memByte s.mem x == b

/-- The image of a gang passes its check (17 R378, 19 R406): its ciphertext is what the root wrote, or its header is right; every byte of it
can be read. -/
def imageGood (s : State) (g : Nat) : Bool :=
  let G := s.gang g
  let ranges := (headerAddr s g, 256) :: (gangCores G).flatMap (ctxRanges s g)
  ranges.all (fun (a, n) => !rangeLost s a n) &&
    (if isSealed s g then ranges.all fun (a, n) => sealedRight s g a n
     else memBytes s.mem (headerAddr s g) 256 == ctxHeader s g)

/-- A wick's rows and masks as its image holds them (06 R146); the bits under a mask in stage mode stand in the gang's record
(06 R138, log 11). -/
def loadWick (s : State) (g c : Nat) (w : Fin 8) : Wick :=
  let base := ctxCore s g c
  let W := s.wick g c w
  let row (j : Nat) : BitVec 65536 :=
    BitVec.ofNat 65536 (memRead s.mem (base + 0x40000 * w.val + 0x2000 * j) (64 * tabGet 0 W.extent j))
  let mask (k : Nat) : BitVec 32768 :=
    BitVec.ofNat 32768 (memRead s.mem (base + 0x280000 + 0x7000 * w.val + 0x1000 * (k - 1)) 4096)
  let W := (natsFrom 0 32).foldl (fun W j => { W with rows := putRow W.rows j (row j) }) W
  (natsFrom 1 7).foldl (fun W k => if bitOf W.smode (k - 1) then W else W.setMask k (mask k)) W

/-- The snapshot rows of a window as the image holds them. -/
def loadWindow (s : State) (g c : Nat) (k : Fin 8) (v : Window) : Window :=
  { v with
    snap := (natsFrom 0 v.snap.length).map fun r =>
      BitVec.ofNat 65536 (memRead s.mem (ctxCore s g c + 0x200000 + 0x10000 * k.val + 0x2000 * r) 8192) }

/-- A tile that is no vigil as its image holds it; one never saved is zero (10 R238). -/
def loadTile (s : State) (g c : Nat) (a : Fin 4) (T : Tile) : Tile :=
  if T.imaged then
    { imageRows 128 0 (memBytes s.mem (tileAddr s g c a + 256) (imageBytes - 256)) Tile.zero with dirty := false, imaged := true }
  else T

/-- The scalar set of a thread as the image holds it. -/
def loadScalars (s : State) (g c n : Nat) (th : Thread) : Thread :=
  let v := vof fun i : Fin 32 => BitVec.ofNat 64 (memRead s.mem (ctxCore s g c + 0x338400 + 256 * n + 8 * i.val) 8)
  { th with x := v }

/-- A core as its image holds it; its vigils wait for their refill (11 R272, 17 R378). -/
def loadCore (s : State) (g c : Nat) : State :=
  let plain := !isSealed s g
  let C := s.core g c
  let wicks := vof fun w : Fin 8 =>
    if plain then let W := loadWick s g c w; { W with th := loadScalars s g c (w.val + 1) W.th } else C.wicks[w]
  let tiles := vof fun a : Fin 4 => if plain && !C.owners[a].vigil then loadTile s g c a C.tiles[a] else C.tiles[a]
  let taper := if plain then { C.taper with th := loadScalars s g c 0 C.taper.th } else C.taper
  let windows := if plain then vof fun k : Fin 8 => loadWindow s g c k C.windows[k] else C.windows
  let refill := vof fun a : Fin 4 => if C.owners[a].vigil then some (tileAddr s g c a) else none
  s.modCore g c fun C =>
    { C with
      taper := taper, wicks := wicks, tiles := tiles, windows := windows, refill := refill
      chans := vmap (fun x => { x with movedAt := s.ac }) C.chans
      sends := C.sends.map fun y => { y with movedAt := s.ac }
      window := C.window.map fun b => { b with refused := [] } }

/-- RESTORE (11 R272, 17 R378): the image is checked and loaded, and the gang's threads run again. -/
def execRestore (g : Nat) (s : State) : Host.Outcome State Fault Refusal :=
  match tabGet? s.gangs g with
  | some G =>
    if G.life != .restoring then .next s
    else if !imageGood s g then .next (spillFail s g)
    else
      let s := eachCore s g fun s c => loadCore s g c
      .next (s.modGang g fun G => { G with life := .running, preempt := false, forLayout := false, progressAt := s.ac })
  | none => .next s

/-- VIGIL_REFILL (11 R272): a vigil comes back from its image, or its gang ends. -/
def execVigilRefill (g c : Nat) (tile : Fin 4) (s : State) : Host.Outcome State Fault Refusal :=
  match tabGet? s.gangs g, ((s.core g c).refill[tile]) with
  | some G, some pa =>
    if G.life != .running then .next s
    else
      let C := s.core g c
      let bs := memBytes s.mem pa imageBytes
      let image : Option Tile :=
        if isSealed s g then (if sealedRight s g pa imageBytes then some C.tiles[tile] else none)
        else (readImage bs ((C.owners[tile].owner).getD 0) C.owners[tile].handle).map (·.tile)
      match rangeLost s pa imageBytes, image with
      | false, some T =>
        .next (s.modCore g c fun C =>
          { C with tiles := C.tiles.set tile { T with dirty := false, imaged := true }, refill := C.refill.set tile none })
      | _, _ => .next (spillFail s g)
  | _, _ => .next s

end Sys2Proof.Machine
end

