-- ==== Sys2Proof/Machine/Dispatcher.lean ====
section
/-! DEFINITION. The dispatcher: placement and pre-emption, token periods and lending, layout commits, context saves (17 R368 to R378). -/

namespace Sys2Proof.Machine

/-- A partition's record. -/
def State.part (s : State) (p : Nat) : Part := tabGet (Part.new [] [] []) s.parts p
/-- The state with a partition's record changed. -/
def State.modPart (s : State) (p : Nat) (f : Part → Part) : State := { s with parts := tabPut s.parts p (f (s.part p)) }

/-- The partition that new tables give a VF; 31 when none (17 R375). -/
def tableVf (l : LayoutTables) (v : Nat) : Nat := ((l.vfMap.find? (·.1 == v)).map (·.2)).getD 31

/-- The quads that gangs hold. -/
def heldQuads (s : State) : List Nat := s.gangs.flatMap fun (_, G) => G.quads

/-- The quads that a candidate could be placed on now, the lowest first (17 R369). -/
def freeQuads (s : State) (part : Nat) (id : CandId) : List Nat :=
  let p := s.part part
  let held := heldQuads s
  p.quads.filter fun q => !held.contains q && !quadMoves s q && !p.reserved.any fun (r, c) => r == q && c != id

/-- The quads that a pre-emption under way will free for a candidate. -/
def comingQuads (s : State) (part : Nat) (id : CandId) : List Nat :=
  let held := heldQuads s
  (s.part part).reserved.filterMap fun (q, c) => if c == id && held.contains q then some q else none

/-- A gang core at the start of a gang (01 R12, 06 R133). -/
def startCore (d : Desc) : Core :=
  let C := Core.start
  let th := { Thread.start with pc := d.entry }.setX 10 d.args
  { C with
    taper := { C.taper with run := .running, th := th }
    wicks := vmap (fun w => { w with vlcapLg := d.lg }) C.wicks }

/-- A gang as it is placed (01 R9 to R13). -/
def startGang (s : State) (vf : Nat) (n : Fin 4) (d : Desc) (age : Nat) (quads : List Nat) : Gang :=
  { Gang.start with
    vf := vf, ring := n, seq := (s.vf vf).rings[n].rp, desc := d, quads := quads, candAt := age, placedAt := s.ac, progressAt := s.ac
    cores := (natsFrom 0 (d.ncm1.toNat + 1)).map fun c => (c, startCore d) }

/-- The cores of quads begin a gang with empty caches: nothing of an earlier gang is visible (01 R12, 04 R101). -/
def freshCores (s : State) (quads : List Nat) : State :=
  (quads.flatMap fun q => natsFrom (4 * q) 4).foldl (fun s p => s.modPcore p fun c => { c with dcache := [], icache := [] }) s

/-- What reserved quads and a block were for a candidate ends. -/
def Part.served (p : Part) (id : CandId) : Part :=
  { p with reserved := p.reserved.filter fun (_, c) => c != id, hold := if p.hold == some id then none else p.hold }

/-- A candidate is placed on quads (17 R363, R369): a new gang, or a saved one that is then restored. -/
def placeCand (s : State) (part : Nat) (c : Cand) (quads : List Nat) : State :=
  let s := (freshCores s quads).modPart part fun p => p.served c.id
  match c.id with
  | .head vf n =>
    match (s.vf vf).rings[n].head with
    | some h =>
      let g := s.nextGang
      let G := startGang s vf n h.desc c.age quads
      let s := { s with nextGang := g + 1, gangs := tabPut s.gangs g G }
      let s := s.modRing vf n fun r => { r with rp := r.rp + 1, head := none, last := some g }
      s.modVf vf fun v => { v with everRan := true }
    | none => s
  | .gang g => s.modGang g fun G => { G with life := .restoring, quads := quads, placedAt := s.ac, progressAt := s.ac }

/-- The running gangs of a partition that a rank may pre-empt: strictly lower, not chosen yet, on quads that no commit moves
(17 R369). -/
def victims (s : State) (part rank : Nat) : List (Nat × Gang) :=
  s.gangs.filter fun (_, G) =>
    G.life == .running && !G.preempt && (s.vf G.vf).part == part && rankOf s G.vf G.desc.prio.toNat < rank &&
      !G.quads.any (quadMoves s)

/-- Whether a gang is pre-empted before another: the lowest class and priority, then the most recently placed (17 R369). -/
def victimBefore (s : State) (a b : Nat × Gang) : Bool :=
  let ra := rankOf s a.2.vf a.2.desc.prio.toNat
  let rb := rankOf s b.2.vf b.2.desc.prio.toNat
  if ra != rb then ra < rb else b.2.placedAt ≤ a.2.placedAt

/-- A gang put in its place among victims. -/
def insertVictim (s : State) (a : Nat × Gang) : List (Nat × Gang) → List (Nat × Gang)
  | [] => [a]
  | b :: bs => if victimBefore s a b then a :: b :: bs else b :: insertVictim s a bs

/-- Victims chosen in order until a gap of quads closes; none when they do not close it (17 R369, R377). -/
def takeVictims (part : Nat) (id : CandId) : List (Nat × Gang) → Nat → State → Option State
  | vs, gap, s =>
    match gap, vs with
    | 0, _ => some s
    | _, [] => none
    | _, (g, G) :: rest =>
      if canSave s G then
        let s := (choosePreempt s g false).modPart part fun p => { p with reserved := p.reserved ++ G.quads.map fun q => (q, id) }
        takeVictims part id rest (gap - G.quads.length) s
      else takeVictims part id rest gap s

/-- The dispatcher's ac of waiting after which the first-ranked candidate blocks all others (17 R369). -/
def holdAc : Nat := 262144

/-- One decision about the first-ranked candidate and the rest (17 R369). -/
def placeFirst (s : State) (part : Nat) (c : Cand) (rest : List Cand) : State :=
  let free := freeQuads s part c.id
  if c.need ≤ free.length then placeCand s part c (free.take c.need)
  else if c.need ≤ free.length + (comingQuads s part c.id).length then s
  else
    let gap := c.need - (free.length + (comingQuads s part c.id).length)
    let vs := (victims s part (rankOf s c.vf c.prio)).foldr (fun v l => insertVictim s v l) []
    match takeVictims part c.id vs gap s with
    | some s => s
    | none =>
      if s.ac - c.since ≥ holdAc || (s.part part).hold.isSome then s
      else match rest.find? fun d => d.need ≤ (freeQuads s part d.id).length with
      | some d => placeCand s part d ((freeQuads s part d.id).take d.need)
      | none => s

/-- Reservations and a block for what is no longer a candidate end. -/
def pruneServed (s : State) (part : Nat) (cs : List Cand) : State :=
  let live (id : CandId) : Bool := cs.any (·.id == id)
  s.modPart part fun p =>
    { p with reserved := p.reserved.filter fun (_, c) => live c, hold := match p.hold with | some h => if live h then some h else none | none => none }

/-- Lenders' contributions consumed in ascending VF number (17 R371). -/
def consume (part : Nat) : Nat → List (Nat × Vf) → List (Nat × Vf)
  | _, [] => []
  | n, (k, v) :: vs =>
    if v.part == part then
      let d := min n v.contrib
      (k, { v with contrib := v.contrib - d, cred := v.cred + d }) :: consume part (n - d) vs
    else (k, v) :: consume part n vs

/-- BALANCE_EXHAUSTED (17 R371, R373): what a VF's balance did not cover is drawn from the pool; the rest is taken from nothing. -/
def execBalanceExhausted (vf : Nat) (s : State) : Host.Outcome State Fault Refusal :=
  if !vfExists s vf then .next s
  else
    let v := s.vf vf
    let d := min v.owing (drawable s v)
    let s := { s with vfs := consume v.part d s.vfs }
    .next (s.modVf vf fun v => { v with debt := v.debt + d, owing := 0 })

/-- What a debtor repays at a period's start (17 R372 step 2). -/
def Vf.repays (v : Vf) : Nat := min v.debt (v.nextQuota / 4)

/-- The new balances of a partition (17 R372 steps 1 to 4): `n` is what is left of the total repaid. -/
def newBalances (part : Nat) : Nat → List (Nat × Vf) → List (Nat × Vf)
  | _, [] => []
  | n, (k, v) :: vs =>
    if v.part == part then
      let r := v.repays
      let got := min n v.cred
      (k, { v with
        bal := v.nextQuota - r + got, debt := v.debt - r, cred := v.cred - got, contrib := 0, owing := 0
        quota := v.nextQuota, borrow := v.nextBorrow }) :: newBalances part (n - got) vs
    else (k, v) :: newBalances part n vs

/-- The partition numbers that VFs have. -/
def vfParts (s : State) : List Nat := (s.vfs.map fun (_, v) => v.part).eraseDups

/-- A period starts in a partition (17 R372). -/
def partPeriod (s : State) (part : Nat) : State :=
  let total := ((partVfs s part).map fun (_, v) => v.repays).foldl (· + ·) 0
  settleIdle { s with vfs := newBalances part total s.vfs } part

/-- PERIOD_START (17 R370, R372). -/
def execPeriodStart (s : State) : Host.Outcome State Fault Refusal :=
  if s.ac - s.periodAt < periodAc then .next s
  else .next ((vfParts s).foldl partPeriod { s with periodAt := s.periodAt + periodAc })

/-- A partition after a commit: an existing one keeps its step generation, a new one starts with 0 (17 R376). -/
def committedPart (s : State) (l : LayoutTables) (p : Nat) : Part :=
  let quads := (natsFrom 0 24).filter fun q => tableQuad l q == p
  let peers := ((l.peerAccept.find? (·.1 == p)).map (·.2)).getD []
  let domain := ((l.domain.find? (·.1 == p)).map (·.2)).getD []
  match tabGet? s.parts p with
  | some old => { old with quads := quads, peers := peers, domain := domain, hold := none, reserved := [] }
  | none => Part.new quads peers domain

/-- Credits of the other VFs of a partition fall by `n` in all, in ascending VF number. -/
def cutCredits (part self : Nat) : Nat → List (Nat × Vf) → List (Nat × Vf)
  | _, [] => []
  | n, (k, v) :: vs =>
    if v.part == part && k != self then
      let d := min n v.cred
      (k, { v with cred := v.cred - d }) :: cutCredits part self (n - d) vs
    else (k, v) :: cutCredits part self n vs

/-- Debts of the other VFs of a partition fall by `n` in all, in ascending VF number. -/
def cutDebts (part self : Nat) : Nat → List (Nat × Vf) → List (Nat × Vf)
  | _, [] => []
  | n, (k, v) :: vs =>
    if v.part == part && k != self then
      let d := min n v.debt
      (k, { v with debt := v.debt - d }) :: cutDebts part self (n - d) vs
    else (k, v) :: cutDebts part self n vs

/-- A VF leaves its partition: its contribution returns to it, and what it owes, or is owed, goes with it from its creditors or debtors, so
that debts still equal credits (17 R371; DESIGN CHOICE, log 42: the manual says no more than that they do). -/
def leavePart (s : State) (vf : Nat) : State :=
  let v := s.vf vf
  let s := { s with vfs := cutDebts v.part vf (v.cred - v.debt) (cutCredits v.part vf (v.debt - v.cred) s.vfs) }
  s.modVf vf fun v => { v with debt := 0, cred := 0, bal := v.bal + v.contrib, contrib := 0 }

/-- The commit of a layout takes effect at one ac (17 R376 step 4). -/
def commitLayout (s : State) (seq : BitVec 32) (l : LayoutTables) : State :=
  let live := (natsFrom 0 24).filter fun p => (natsFrom 0 24).any fun q => tableQuad l q == p
  let s := (s.vfs.filter fun (k, v) => v.part < 24 && tableVf l k != v.part).foldl (fun s (k, _) => leavePart s k) s
  let s := { s with
    shadow := none, layoutVer := s.layoutVer + 1
    parts := live.map fun p => (p, committedPart s l p)
    quadMap := (natsFrom 0 24).filterMap fun q => if tableQuad l q < 24 then some (q, tableQuad l q) else none
    vfs := s.vfs.map fun (k, v) => (k, { v with part := tableVf l k }) }
  live.foldl settleIdle (complete s seq 0)

/-- A layout commit in progress takes effect once no gang holds a quad that it moves, while the management processor runs (17 R376,
19 R399). -/
def finishLayout (s : State) : State :=
  match s.shadow with
  | some (seq, l) => if !s.root.mcpUp || (heldQuads s).any (quadMoves s) then s else commitLayout s seq l
  | none => s

/-- One act of a partition's dispatcher (17 R366 to R369, R372): a block's own candidate goes before all others. -/
def dispatch (s : State) (part : Nat) : State :=
  if (tabGet? s.parts part).isNone then s
  else
    let s := settleIdle (noteCandidates (finishLayout s)) part
    let cs := rankedCands s part
    let s := pruneServed s part cs
    let first := match (s.part part).hold with
      | some h => cs.find? (·.id == h)
      | none => cs.head?
    match first with
    | some c => settleIdle (placeFirst s part c (cs.filter fun d => d.id != c.id)) part
    | none => s

/-- PLACEMENT (17 R369). -/
def execPlacement (part : Nat) (s : State) : Host.Outcome State Fault Refusal := .next (dispatch s part)

/-- PLACEMENT_HOLD (17 R369): the first-ranked candidate has waited long enough to block all others until it fits. -/
def execPlacementHold (part : Nat) (s : State) : Host.Outcome State Fault Refusal :=
  if (tabGet? s.parts part).isNone then .next s
  else match rankedCands s part with
  | c :: _ =>
    if s.ac - c.since ≥ holdAc && (freeQuads s part c.id).length < c.need && (s.part part).hold.isNone then
      .next (s.modPart part fun p => { p with hold := some c.id })
    else .next s
  | [] => .next s

/-- DEBT_AT_CAP (17 R368, R371, R373): a VF that can draw no more stops drawing, and its dispatcher ranks anew. -/
def execDebtAtCap (vf : Nat) (s : State) : Host.Outcome State Fault Refusal :=
  let v := s.vf vf
  if !vfExists s vf || 0 < drawable s v then .next s
  else .next (dispatch (s.modVf vf fun v => { v with owing := 0 }) v.part)

/-- A gang whose restore has not begun gives its quads back: its image stands. -/
def Gang.sentBack (G : Gang) : Gang := { G with life := .saved, quads := [] }

/-- The gangs that a commit or a pause must save are chosen, unless they are already; none when one of them cannot be saved (17 R376 step 3,
R377). -/
def chooseAll (forLayout : Bool) : List (Nat × Gang) → State → Option State
  | [], s => some s
  | (g, G) :: gs, s =>
    if G.preempt then chooseAll forLayout gs (choosePreempt s g (forLayout && G.forLayout))
    else if canSave s G then chooseAll forLayout gs (choosePreempt s g forLayout)
    else none

/-- The tables of a layout are well formed: quads, partitions and VFs in range, each partition that a VF or a list names with a quad
(17 R375). -/
def tablesWf (l : LayoutTables) : Bool :=
  let hasQuad (p : Nat) : Bool := l.quadMap.any fun (_, x) => x == p
  l.quadMap.all (fun (q, p) => q < 24 && p < 24) && l.vfMap.all (fun (v, p) => 1 ≤ v && v ≤ 512 && p < 24 && hasQuad p) &&
    l.peerAccept.all (fun (p, _) => hasQuad p) && l.domain.all (fun (p, _) => hasQuad p)

/-- A new layout gives no tenant a partition that its policy forbids it to share (19 R401). -/
def tenantsApart (s : State) (l : LayoutTables) : Bool :=
  s.vfs.all fun (a, v) => v.policy.cotenant || s.vfs.all fun (b, w) =>
    a == b || v.policy.key == w.policy.key || tableVf l a ≥ 24 || tableVf l a != tableVf l b

/-- A new layout lets no sender into a partition that the policies of its tenants keep out (19 R401). -/
def peersAllowed (s : State) (l : LayoutTables) : Bool :=
  l.peerAccept.all fun (p, keys) => s.vfs.all fun (k, v) => tableVf l k != p || keys.all v.policy.peers.contains

/-- LAYOUT (17 R376, 19 R401): validation against the tenants' policies, to which the root's own judgement of the tables is added
(`approved`, log 10); then the gangs on moved quads are saved, then the commit. -/
def execLayout (cmd : Cmd) (tables : LayoutTables) (approved : Bool) (s : State) : Host.Outcome State Fault Refusal :=
  if !s.root.mcpUp || s.shadow.isSome then .next s
  else if !cmd.formed || !tablesWf tables then .next (complete s cmd.seq 2)
  else if !approved || !tenantsApart s tables || !peersAllowed s tables then .next (complete s cmd.seq 1)
  else
    let s1 := { s with shadow := some (cmd.seq, tables) }
    let s1 := { s1 with gangs := s1.gangs.map fun (g, G) => (g, if G.life == .restoring && G.quads.any (quadMoves s1) then G.sentBack else G) }
    let moved := s1.gangs.filter fun (_, G) => G.life == .running && G.quads.any (quadMoves s1)
    match chooseAll true moved s1 with
    | some s => .next (finishLayout s)
    | none => .next (complete s cmd.seq 4)

/-- CONTEXT_SAVE (17 R378 steps 3 to 8): the gang's context is saved, its quads are released and charging stops. -/
def execContextSave (g : Nat) (s : State) : Host.Outcome State Fault Refusal :=
  match tabGet? s.gangs g with
  | some G =>
    if G.life != .stopping then .next s
    else
      let part := s.partOf g
      let s := saveContext (takeSlots s g) g
      let s := s.modGang g fun G =>
        { G with life := .saved, quads := [], placedAt := s.ac, preempt := false, forLayout := false, saves := G.saves + 1 }
      let s := s.modVf G.vf fun v => { v with saveCount := v.saveCount + 1 }
      .next (settleIdle (finishLayout (noteCandidates s)) part)
  | none => .next s

end Sys2Proof.Machine
end

