-- ==== Sys2Proof/Machine/Module.lean ====
section
/-! DEFINITION. Device faults (18 R394 to R398), the shared cache's own events (12 R275 to R294), and the Wapin ports (16 R357 to R359). -/

namespace Sys2Proof.Machine

/-- The placed gangs of some partitions. -/
def placedIn (s : State) (parts : List Nat) : List Nat :=
  (s.gangs.filter fun (_, G) => G.life != .saved && parts.contains (s.vf G.vf).part).map (·.1)

/-- A device fault in some partitions (18 R394): their placed gangs end with status 2, saved gangs stay; a layout commit in progress is
abandoned (17 R376). -/
def deviceFault (s : State) (parts : List Nat) (cause : Cause) : State :=
  let s := (placedIn s parts).foldl (fun s g => faultGang s g cause) s
  abandonLayout s 5

/-- WATCHDOG (18 R395). -/
def execWatchdog (g : Nat) (s : State) : Host.Outcome State Fault Refusal :=
  match tabGet? s.gangs g with
  | some G =>
    if watchdogDue s G then .next (deviceFault s [s.partOf g] .watchdog) else .next s
  | none => .next s

/-- The partitions whose torus domain uses a port (18 R397). -/
def portParts (s : State) (port : Fin 6) : List Nat :=
  (s.parts.filter fun (_, p) => p.domain.any fun d => portTo s.coord.toNat d == some port).map (·.1)

/-- A port is lost (18 R397): what is in flight through it is lost, and the partitions that use it take a device fault. -/
def losePort (s : State) (port : Fin 6) : State :=
  if !s.ports[port].up then s
  else
    let s := s.modPort port fun p => { p with up := false, replay := [], buffer := [] }
    deviceFault s (portParts s port) .linkLoss

/-- Whether the L2 holds a sector, whole or in part. -/
def sectorHeld (s : State) (pa : Nat) : Bool :=
  s.l2.any fun l => l.tag == .linear (pa / 256) && (l.sectors[fin4 (pa / 64)].valid || l.sectors[fin4 (pa / 64)].mask != 0)

/-- Whether a read of a sector is served by the L2 without HBM (12 R275). -/
def sectorWhole (s : State) (pa : Nat) : Bool :=
  s.l2.any fun l => l.tag == .linear (pa / 256) && (l.sectors[fin4 (pa / 64)].valid || l.sectors[fin4 (pa / 64)].mask == 0xFFFF)

/-- A sector is held as poisoned (12 R275). -/
def poisonSector (s : State) (pa : Nat) : State := if poisoned s pa then s else { s with poison := sectorOf pa :: s.poison }

/-- The partitions that use a structure, or own the physical core `place` whose registers it is (18 R396): of the L2 tags those whose VFs have
lines in it, of the tensor table and the watermark slots those whose VFs hold blocks. -/
def storageParts (s : State) (st : Storage) (place : Nat) : List Nat :=
  let ofVfs (l : List Nat) : List Nat := ((l.filter (vfExists s)).map fun k => (s.vf k).part).eraseDups
  match st with
  | .l2Tags => ofVfs (s.l2.map (·.vf))
  | .tensorTable => ofVfs (s.tensorBlocks.map (·.2))
  | .watermarks => ofVfs (s.markBlocks.map (·.2))
  | .ownershipTables | .vectorRegs | .accumulators | .scalarSets => [quadPart s (place / 4)]
  | .hbm | .l2Data | .tlbs | .caches | .links => []

/-- UNCORRECTABLE_ERROR (18 R396): a device fault of the partitions that own or use the structure. Of HBM and of L2 data, the sector of the
physical address `place` is poisoned: of HBM where the L2 does not serve it, of the L2 where it holds it. A link, the port `place`, is lost.
Translation, instruction and scalar data caches have no such error. -/
def execUncorrectableError (st : Storage) (place : Nat) (s : State) : Host.Outcome State Fault Refusal :=
  match st with
  | .hbm => .next (if localHbm s place && !sectorWhole s place then poisonSector s place else s)
  | .l2Data => .next (if localHbm s place && sectorHeld s place then poisonSector s place else s)
  | .links => .next (match (List.finRange 6).find? fun k => k.val == place with | some port => losePort s port | none => s)
  | .tlbs | .caches => .next s
  | .l2Tags | .tensorTable | .ownershipTables | .watermarks | .vectorRegs | .accumulators | .scalarSets =>
    .next (deviceFault s (storageParts s st place) .uncorrectable)

/-- The place of a structure in the table of 18 R396. -/
def storageIndex : Storage → Nat
  | .hbm => 0 | .l2Data => 1 | .l2Tags => 2 | .tensorTable => 3 | .ownershipTables => 4 | .watermarks => 5 | .vectorRegs => 6
  | .accumulators => 7 | .scalarSets => 8 | .tlbs => 9 | .caches => 10 | .links => 11

/-- The entry `k` of a translation cache is dropped (18 R396): of the TLB of the physical core `unit`, or, from 96 on, of a die's TLB, from 100
on of its walkers. -/
def dropXlatEntry (s : State) (unit k : Nat) : State :=
  if unit < 96 then
    match tabGet? s.pcores unit with
    | some _ => s.modPcore unit fun p => { p with tlb := p.tlb.eraseIdx k }
    | none => s
  else
    let d := fin4 unit
    if unit < 100 then { s with dieTlb := s.dieTlb.set d (s.dieTlb[d].eraseIdx k) } else { s with walkers := s.walkers.set d (s.walkers[d].eraseIdx k) }

/-- The line `k` of the instruction cache of a physical core, or, counted on behind these, of its scalar data cache is dropped (18 R396). -/
def dropCacheLine (s : State) (unit k : Nat) : State :=
  match tabGet? s.pcores unit with
  | some _ => s.modPcore unit fun p =>
      { p with icache := p.icache.eraseIdx k, dcache := if k < p.icache.length then p.dcache else p.dcache.eraseIdx (k - p.icache.length) }
  | none => s

/-- CORRECTED_ERROR (18 R396): counted per structure; a parity error of a cache drops the entry or line, which is fetched again. -/
def execCorrectedError (e : ErrorPlace) (s : State) : Host.Outcome State Fault Refusal :=
  let n := storageIndex e.st
  let s := match e.st with | .tlbs => dropXlatEntry s e.unit e.k | .caches => dropCacheLine s e.unit e.k | _ => s
  .next { s with root := { s.root with corrected := tabPut s.root.corrected n (tabGet 0 s.root.corrected n + 1) } }

/-- The partitions of the module. -/
def allParts (s : State) : List Nat := s.parts.map (·.1)

/-- CHANNEL_FAILURE (12 R290): a device fault; the channel is remapped at the next reset. -/
def execChannelFailure (channel : Nat) (s : State) : Host.Outcome State Fault Refusal :=
  if channel ≥ 384 then .next s
  else
    let s := { s with chanFailed := if s.chanFailed.contains channel then s.chanFailed else s.chanFailed ++ [channel] }
    .next (deviceFault s (allParts s) .uncorrectable)

/-- OVER_TEMPERATURE (19 R414): a device fault in every partition, and the module stops. -/
def execOverTemperature (s : State) : Host.Outcome State Fault Refusal :=
  let s := deviceFault s (allParts s) .overTemperature
  .next { s with power := { s.power with stopped := true } }

/-- SECTOR_FILL (12 R275): a sector read from HBM arrives; one that cannot be corrected is held as poisoned, so that the read which fetches it
traps. A sector that the L2 serves whole is not read from HBM. -/
def execSectorFill (pa : Nat) (uncorrectable : Bool) (s : State) : Host.Outcome State Fault Refusal :=
  let s := { s with l2 := s.l2.map fun l => if l.tag == .linear (pa / 256) then { l with inflight := false } else l }
  .next (if uncorrectable && localHbm s pa && !sectorWhole s pa then poisonSector s pa else s)

/-- CACHE_LINE_EXPIRY (04 R101): a line of a scalar data cache goes no later than 4,096 ac after its fill. -/
def execCacheLineExpiry (pcore line : Nat) (s : State) : Host.Outcome State Fault Refusal :=
  match tabGet? s.pcores pcore with
  | some _ => .next (s.modPcore pcore fun p => { p with dcache := p.dcache.filter fun l => l.line != line || l.live s.ac })
  | none => .next s

/-- A held request is served: its activation is counted (12 R294). -/
def serveHeld (s : State) (line : Nat) : State :=
  let row := rowOfLine s line
  { s with activations := tabPut s.activations row (tabGet 0 s.activations row + 1) }

/-- ACTIVATION_COUNTER_RESET (12 R294): every 32 us the rows' counters are 0 again; the throttling ends, and what was held is served and
counted. -/
def execActivationCounterReset (s : State) : Host.Outcome State Fault Refusal :=
  if s.time < s.actAt + actPeriod then .next s
  else .next (s.held.foldl (fun s h => serveHeld s h.1) { s with activations := [], held := [], actAt := s.actAt + actPeriod })

/-- HELD_ROW_SERVE (12 R294): the request that was held first is served, and its activation counted. -/
def execHeldRowServe (s : State) : Host.Outcome State Fault Refusal :=
  match s.held with
  | h :: rest => .next (serveHeld { s with held := rest } h.1)
  | [] => .next s

/-- Whether a line of the L2 is one that a VF allocated into a way that it has lost (12 R279). -/
def lostLine (vf : Nat) (gone : BitVec 16) (l : L2Line) : Bool := l.vf == vf && bitOf gone l.way

/-- WAY_REMOVAL_COMPLETE (12 R279): dirty lines in the ways are written back, every line in them is invalidated, pinned tile lines when their
pins are released. -/
def execWayRemovalComplete (vf : Nat) (s : State) : Host.Outcome State Fault Refusal :=
  let v := s.vf vf
  if !vfExists s vf || v.wayGone == 0 then .next s
  else
    let lost := s.l2.filter fun l => lostLine vf v.wayGone l && l.pins.isEmpty
    let s := lost.foldl evictLine s
    let s := { s with
      l2 := (s.l2.filter fun l => !(lostLine vf v.wayGone l && l.pins.isEmpty)).map fun l =>
        if lostLine vf v.wayGone l then { l with stale := true } else l }
    let s := match v.waySeq with | some q => complete s q 0 | none => s
    .next (s.modVf vf fun v => { v with wayGone := 0, waySeq := none })

/-- LINK_LOSS (18 R397). -/
def execLinkLoss (port : Fin 6) (s : State) : Host.Outcome State Fault Refusal := .next (losePort s port)

/-- LANE_FAILURE (16 R359): the spare lane of its direction takes the failed lane's place; without one the port cannot retrain. -/
def execLaneFailure (l : Lane) (s : State) : Host.Outcome State Fault Refusal :=
  let p := s.ports[l.port]
  if !p.up then .next s
  else if if l.tx then p.spareTx else p.spareRx then .next (losePort s l.port)
  else .next (s.modPort l.port fun p => if l.tx then { p with spareTx := true } else { p with spareRx := true })

/-- REMOTE_REPLY_TIMEOUT (18 R397): a request of a partition to another device has had no reply for 2^20 ac. -/
def execRemoteReplyTimeout (part : Nat) (s : State) : Host.Outcome State Fault Refusal :=
  if s.linkReqs.any fun q => q.part == part && s.ac - q.since ≥ replyAc then
    .next (deviceFault { s with linkReqs := s.linkReqs.filter (·.part != part) } [part] .linkLoss)
  else .next s

/-- Flits up to an acknowledged number leave the replay window (16 R359). -/
def Port.acked (p : Port) (n : Nat) : Port := { p with replay := p.replay.filter fun f => n ≤ f.seq }

/-- Whether a port's receive buffer has room for a flit: each class and each virtual channel has its own (16 R358, R359). -/
def Port.hasRoom (p : Port) (f : LinkFlit) : Bool := (p.buffer.filter fun g => g.reply == f.reply && g.vc == f.vc).length < bufferRoom

/-- FLIT_RECEIVE (16 R359, 19 R405): refused when the buffer is full, the CRC or the tag fails, or an earlier flit is missing; the sixteenth
failed tag in a row is a link loss. -/
def execFlitReceive (port : Fin 6) (f : LinkFlit) (s : State) : Host.Outcome State Fault Refusal :=
  let p := s.ports[port]
  if !p.up || !f.crcOk then .next s
  else if !f.tagOk then
    if p.tagFails + 1 ≥ 16 then .next (losePort s port)
    else .next (s.modPort port fun p => { p with tagFails := p.tagFails + 1 })
  else if f.seq != p.rxSeq || !p.hasRoom f then .next s
  else
    .next (s.modPort port fun p => { p.acked f.ack with rxSeq := p.rxSeq + 1, buffer := p.buffer ++ [f], tagFails := 0 })

/-- LINK_REPLAY (16 R359): every unacknowledged flit of a port is sent again, in order, with the port's present acknowledgement. -/
def execLinkReplay (port : Fin 6) (s : State) : Host.Outcome State Fault Refusal :=
  .next (s.modPort port fun p => { p with replay := p.replay.map fun f => { f with ack := p.rxSeq } })

end Sys2Proof.Machine
end

