-- ==== Sys2Proof/Machine/Host.lean ====
section
/-! DEFINITION. Host commands that act on tenants (17 R379, R380, 19 R400 to R403), pauses, and a VF's own reset (19 R412). -/

namespace Sys2Proof.Machine

/-- A host command takes effect only while the management processor runs, which checks its form first (19 R399, R400): an opcode that does
not exist, or a reserved field that is not zero, is answered with status 2. The 64 bytes of a command and the 16 of a completion have no
layout in the manual: `Cmd` and `Root.completions` hold what they say. -/
def hostCommand (s : State) (cmd : Cmd) (k : Host.Outcome State Fault Refusal) : Host.Outcome State Fault Refusal :=
  if !s.root.mcpUp then .next s
  else if !cmd.formed then .next (complete s cmd.seq 2)
  else k

/-- The VF that a handle names, when its index and generation do (19 R403). -/
def handleVf (s : State) (handle : Word) : Option (Nat × Vf) :=
  match tabGet? s.vfs (handle.toNat % 2 ^ 32) with
  | some v => if v.gen == handle.extractLsb' 32 32 then some (handle.toNat % 2 ^ 32, v) else none
  | none => none

/-- Whether a layout commit in progress concerns a partition: it changes its quads, its VFs, its peers or its domain (17 R376). -/
def layoutTouches (s : State) (part : Nat) : Bool :=
  match s.shadow with
  | some (_, l) =>
    let p := s.part part
    (natsFrom 0 24).any (fun q => quadMoves s q && (quadPart s q == part || tableQuad l q == part)) ||
      s.vfs.any (fun (k, v) => tableVf l k != v.part && (v.part == part || tableVf l k == part)) ||
      ((l.peerAccept.find? (·.1 == part)).map (·.2)).getD [] != p.peers || ((l.domain.find? (·.1 == part)).map (·.2)).getD [] != p.domain
  | none => false

/-- A command that names a VF by its handle; a stale one completes with status 3 (19 R403). It waits for a layout commit that was validated
before it and concerns the VF's partition (17 R376, 19 R404). -/
def forVf (cmd : Cmd) (s : State) (k : Nat → Vf → Host.Outcome State Fault Refusal) : Host.Outcome State Fault Refusal :=
  hostCommand s cmd
    (match handleVf s cmd.handle with
     | some (vf, v) => if v.part < 24 && layoutTouches s v.part then .next s else k vf v
     | none => .next (complete s cmd.seq 3))

/-- A refused command changes nothing (19 R400). -/
abbrev refuse (s : State) (cmd : Cmd) (status : Nat) : Host.Outcome State Fault Refusal := .next (complete s cmd.seq status)
/-- An applied command. -/
abbrev applied (s : State) (cmd : Cmd) : Host.Outcome State Fault Refusal := .next (complete s cmd.seq 0)

/-- SET_QUOTA (17 R379, 19 R401). -/
def execSetQuota (cmd : Cmd) (q : Nat) (borrow : Bool) (s : State) : Host.Outcome State Fault Refusal :=
  forVf cmd s fun vf v =>
    if q > 2 ^ 40 then refuse s cmd 2
    else if q < v.policy.qmin then refuse s cmd 1
    else applied (s.modVf vf fun v => { v with nextQuota := q, nextBorrow := borrow }) cmd

/-- SET_PRIORITY_CAP (17 R379, 19 R401). -/
def execSetPriorityCap (cmd : Cmd) (cap : Nat) (s : State) : Host.Outcome State Fault Refusal :=
  forVf cmd s fun vf v =>
    if cap > 3 then refuse s cmd 2
    else if cap < v.policy.pmin then refuse s cmd 1
    else applied (s.modVf vf fun v => { v with prioCap := BitVec.ofNat 2 cap }) cmd

/-- Whether an area of context slots exists: within local HBM or within host memory (17 R377, 09 R211). -/
def areaOk (s : State) (base slots : Nat) : Bool :=
  let size := slots * slotBytes
  base < 2 ^ 60 && !isRemote s base &&
    ((localHbm s base && paOffset base + size ≤ hbmBytes) || (isHost base && paOffset base + size ≤ 2 ^ 44))

/-- The granules of local HBM that an area of context slots covers. -/
def areaGranules (s : State) (base slots : Nat) : List Nat := if localHbm s base then natsFrom (base / 4096) (slots * slotBytes / 4096) else []

/-- Whether a granule is owned by a VF, of its present generation (19 R402, R403). -/
def ownedBy (s : State) (vf granule : Nat) : Bool :=
  match tabGet? s.root.granules granule with
  | some (.owned v gen _) => v == vf && gen == (s.vf vf).gen
  | _ => false

/-- Whether a granule is owned by another confidential VF (19 R402). -/
def ownedByOther (s : State) (vf granule : Nat) : Bool :=
  match tabGet? s.root.granules granule with
  | some (.owned ..) => !ownedBy s vf granule
  | _ => false

/-- Whether a granule that has left a confidential VF is not zeroed yet (19 R402). -/
def notZeroed (s : State) (granule : Nat) : Bool :=
  match tabGet? s.root.granules granule with
  | some .leaving | some .zeroing => true
  | _ => false

/-- A granule mapped once more by a confidential VF, or held by its context area (19 R402, R406). -/
def ownGranule (s : State) (vf : Nat) (t : Tab GranuleState) (granule : Nat) : Tab GranuleState :=
  match tabGet? t granule with
  | some (.owned v gen n) => tabPut t granule (.owned v gen (n + 1))
  | _ => tabPut t granule (.owned vf (s.vf vf).gen 1)

/-- A granule mapped once less: when no mapping is left it has left its VF, in the state `after` (19 R402). -/
def leaveGranule (after : GranuleState) (t : Tab GranuleState) (granule : Nat) : Tab GranuleState :=
  match tabGet? t granule with
  | some (.owned v gen n) => if n ≤ 1 then tabPut t granule after else tabPut t granule (.owned v gen (n - 1))
  | _ => t

/-- SET_CONTEXT_AREA (17 R377, R379): while no gang of the VF holds, or is to take, context slots. A confidential VF's area in local HBM
gets owner records, the area that it leaves is zeroed (19 R402, R406). -/
def execSetContextArea (cmd : Cmd) (base slots : Nat) (s : State) : Host.Outcome State Fault Refusal :=
  forVf cmd s fun vf v =>
    let gs := areaGranules s base slots
    let old := areaGranules s v.ctxBase v.ctxSlots
    if !areaOk s base slots then refuse s cmd 2
    else if !(heldSlots s vf).isEmpty || promisedSlots s vf != 0 then refuse s cmd 5
    else if gs.any (ownedByOther s vf) then refuse s cmd 1
    else if gs.any (notZeroed s) then .next s
    else
      let own := if v.policy.conf then gs.foldl (ownGranule s vf) (old.foldl (leaveGranule .zeroing) s.root.granules) else s.root.granules
      applied { s.modVf vf (fun v => { v with ctxBase := base, ctxSlots := slots }) with root := { s.root with granules := own } } cmd

/-- SET_STAGE2_ROOT (17 R379). -/
def execSetStage2Root (cmd : Cmd) (root : Nat) (s : State) : Host.Outcome State Fault Refusal :=
  forVf cmd s fun vf v =>
    if root % 4096 != 0 || root ≥ 2 ^ 60 then refuse s cmd 2
    else if v.state != 2 && v.everRan then refuse s cmd 5
    else applied (s.modVf vf fun v => { v with s2root := root }) cmd

/-- The ways of a mask. -/
def wayCount (m : BitVec 16) : Nat := ((natsFrom 0 16).filter fun k => bitOf m k).length

/-- A VF's mask becomes another: ways added count at once; ways removed wait for their lines to leave (12 R279). -/
def setWays (s : State) (vf : Nat) (m : BitVec 16) (seq : Option (BitVec 32)) : State :=
  let v := s.vf vf
  let gone := (v.wayGone ||| v.wayMask) &&& ~~~m
  if gone == 0 then
    let s := s.modVf vf fun v => { v with wayMask := m, wayGone := 0 }
    match seq with | some q => complete s q 0 | none => s
  else s.modVf vf fun v => { v with wayMask := m, wayGone := gone, waySeq := seq }

/-- SET_WAY_MASK (12 R278, R279, 19 R401). -/
def execSetWayMask (cmd : Cmd) (m : BitVec 16) (s : State) : Host.Outcome State Fault Refusal :=
  forVf cmd s fun vf v =>
    if v.waySeq.isSome then .next s
    else if wayCount m < v.policy.wmin then refuse s cmd 1
    else .next (setWays s vf m (some cmd.seq))

/-- ALLOT_BLOCKS (12 R284, 15 R342, 17 R379): a watermark block's slots are set to 0. -/
def execAllotBlocks (cmd : Cmd) (watermark : Bool) (blocks : List Nat) (s : State) : Host.Outcome State Fault Refusal :=
  forVf cmd s fun vf _ =>
    let t := if watermark then s.markBlocks else s.tensorBlocks
    if blocks.any fun b => b ≥ (if watermark then 64 else 128) then refuse s cmd 2
    else if blocks.any fun b => (tabGet? t b).isSome then refuse s cmd 4
    else
      let t := blocks.foldl (fun t b => tabPut t b vf) t
      if watermark then applied { s with markBlocks := t, marks := s.marks.filter fun (k, _) => !blocks.contains (k / 64) } cmd
      else applied { s with tensorBlocks := t } cmd

/-- Blocks leave a VF: their entries are cleared, and their tile lines dropped (12 R284). -/
def returnBlocks (s : State) (watermark : Bool) (blocks : List Nat) : State :=
  if watermark then
    { s with markBlocks := s.markBlocks.filter (fun (b, _) => !blocks.contains b), marks := s.marks.filter fun (k, _) => !blocks.contains (k / 64) }
  else
    let s := dropTiles s fun _ tid => blocks.contains (tid / 64)
    { s with tensorBlocks := s.tensorBlocks.filter (fun (b, _) => !blocks.contains b), tensors := s.tensors.filter fun (k, _) => !blocks.contains (k / 64) }

/-- Whether a tile fetch pins a line of some blocks' tensors. -/
def blocksPinned (s : State) (blocks : List Nat) : Bool :=
  s.l2.any fun l => match l.tag with | .tile _ tid _ _ _ => blocks.contains (tid / 64) && !l.pins.isEmpty | .linear _ => false

/-- TAKE_BACK_BLOCKS (12 R284, 17 R379): it waits for pinned lines to be released. -/
def execTakeBackBlocks (cmd : Cmd) (watermark : Bool) (blocks : List Nat) (s : State) : Host.Outcome State Fault Refusal :=
  forVf cmd s fun vf _ =>
    let t := if watermark then s.markBlocks else s.tensorBlocks
    if blocks.any fun b => tabGet? t b != some vf then refuse s cmd 2
    else if !watermark && blocksPinned s blocks then .next s
    else applied (returnBlocks s watermark blocks) cmd

/-- SET_DIRTY_LOG (17 R379, R381). -/
def execSetDirtyLog (cmd : Cmd) (base lgsize : Nat) (s : State) : Host.Outcome State Fault Refusal :=
  forVf cmd s fun vf _ =>
    if lgsize < 6 || base % 8 != 0 then refuse s cmd 2
    else applied (s.modVf vf fun v => { v with dlogBase := base, dlogLg := some lgsize, dlogHead := 0, dlogTail := 0 }) cmd

/-- The placed gangs of a VF. -/
def placedOf (s : State) (vf : Nat) : List (Nat × Gang) := s.gangs.filter fun (_, G) => G.vf == vf && G.life != .saved

/-- A pause begins (17 R380): no placement, and the VF's gangs are chosen for pre-emption; none when one of them lacks slots (R377). -/
def startPause (s : State) (vf : Nat) (p : Pausing) : Option State :=
  let back := s.gangs.map fun (g, G) => (g, if G.vf == vf && G.life == .restoring then G.sentBack else G)
  let s := { s with gangs := back }
  let run := (placedOf s vf).filter fun (_, G) => G.life == .running
  (chooseAll false run s).map fun s => raiseMsi (s.modVf vf fun v => { v with state := 1, pausing := some p }) vf 5

/-- A pause that a command asks for: the VF must be running. -/
def pauseBy (s : State) (cmd : Cmd) (vf : Nat) (andThen : PauseThen) : Host.Outcome State Fault Refusal :=
  if (s.vf vf).state != 0 then refuse s cmd 5
  else match startPause s vf { seq := some cmd.seq, andThen := andThen } with
  | some s => .next (settleIdle s (s.vf vf).part)
  | none => refuse s cmd 4

/-- PAUSE (17 R379, R380). -/
def execPause (cmd : Cmd) (s : State) : Host.Outcome State Fault Refusal := forVf cmd s fun vf _ => pauseBy s cmd vf .nothing

/-- EVICT (17 R379, 19 R401): a pause, and then every way leaves the mask. -/
def execEvict (cmd : Cmd) (s : State) : Host.Outcome State Fault Refusal :=
  forVf cmd s fun vf v =>
    if v.policy.wmin != 0 then refuse s cmd 1
    else if v.state == 2 then (if v.waySeq.isSome then .next s else .next (setWays s vf 0 (some cmd.seq)))
    else pauseBy s cmd vf .evict

/-- The saved gangs of a VF end with status 3 (17 R379). -/
def discardSaved (s : State) (vf : Nat) : State :=
  ((s.gangs.filter fun (_, G) => G.vf == vf && G.life == .saved).map (·.1)).foldl (fun s g => endGang s g 3 0) s

/-- The blocks of a kind that a VF holds. -/
def blocksOf (t : Tab Nat) (vf : Nat) : List Nat := (t.filter fun (_, v) => v == vf).map (·.1)

/-- A VF's tensor and watermark blocks go back. -/
def returnAll (s : State) (vf : Nat) : State :=
  let s := returnBlocks s false (blocksOf s.tensorBlocks vf)
  returnBlocks s true (blocksOf s.markBlocks vf)

/-- The register block of a VF at its reset values, its blocks returned, its mask full; a change of its mask that was under way is complete, and
the change of vfstat raises its vector (19 R412). -/
def resetFunction (s : State) (vf : Nat) : State :=
  let s := match (s.vf vf).waySeq with | some q => complete s q 0 | none => s
  let s := raiseMsi (returnAll s vf) vf 5
  s.modVf vf fun v =>
    { v with
      state := 0, rings := Vector.replicate 4 Ring.reset, fqbase := 0, fqLg := 5, fqEn := false, fqhead := 0, fqtail := 0, fqovf := 0
      s1root := 0, s1done := 0, inval1 := [], errAnswers := 0, errCompl := 0, cmpwr := 0, cmpfall := 0, cmprd := 0
      wayMask := 0xFFFF, wayGone := 0, waySeq := none, faults := [], faultWait := none, pausing := none, pausedAt := none }

/-- Whether every completion record of a VF has been written. -/
def recordsWritten (v : Vf) : Bool := v.rings.toList.all (·.compl.isEmpty)

/-- Whether what a pause was for may happen now: a command's effect while the management processor runs, an eviction once no change of the mask
is under way (12 R279, 19 R399). -/
def Pausing.ready (s : State) (vf : Nat) (p : Pausing) : Bool :=
  (p.seq.isNone || s.root.mcpUp) && (p.andThen != .evict || (s.vf vf).waySeq.isNone)

/-- What a pause was for happens once the VF is stopped. -/
def afterPause (s : State) (vf : Nat) (p : Pausing) : State :=
  match p.andThen with
  | .nothing => match p.seq with | some q => complete s q 0 | none => s
  | .evict => setWays s vf 0 p.seq
  | .functionReset => (discardSaved s vf).modVf vf fun v => { v with pausing := some p }

/-- PAUSE_COMPLETE (17 R380): every write of the VF is performed, its completion and fault records with them, and its dirty log written, an end
marker last; then the state is stopped. A function-level reset then ends in a second event, once the discarded gangs' records are written
(19 R412). -/
def execPauseComplete (vf : Nat) (s : State) : Host.Outcome State Fault Refusal :=
  match tabGet? s.vfs vf with
  | none => .next s
  | some v =>
    match v.pausing with
    | none => .next s
    | some p =>
      if v.state == 2 then (if recordsWritten v then .next (resetFunction s vf) else .next s)
      else if !(placedOf s vf).isEmpty || !recordsWritten v || !v.faults.isEmpty || !v.dlogWait.isEmpty || !p.ready s vf then .next s
      else match appendLog s vf (BitVec.allOnes 64) with
      | none => .next s
      | some s =>
        let s := s.modVf vf fun v => { v with state := 2, pausing := none, pausedAt := some s.time }
        .next (afterPause (raiseMsi s vf 5) vf p)

/-- A stopped VF runs again: the doorbells it stored act, and its saved gangs are candidates (17 R379, R380). -/
def resumeVf (s : State) (vf : Nat) : State :=
  let s := s.modVf vf fun v => { v with state := 0, pausedAt := none, rings := vmap Ring.doorbell v.rings }
  noteCandidates (raiseMsi s vf 5)

/-- RESUME (17 R379); a VF in the TDISP state ERROR stays stopped (19 R408). -/
def execResume (cmd : Cmd) (s : State) : Host.Outcome State Fault Refusal :=
  forVf cmd s fun vf v =>
    if v.state != 2 || v.pausing.isSome || v.tdisp == .error then refuse s cmd 5 else applied (resumeVf s vf) cmd

/-- DISCARD (17 R379). -/
def execDiscard (cmd : Cmd) (s : State) : Host.Outcome State Fault Refusal :=
  forVf cmd s fun vf v => if v.state != 2 then refuse s cmd 5 else applied (discardSaved s vf) cmd

/-- PAUSE_TIMEOUT (19 R401): the root resumes a VF that has been paused for longer than its policy allows. -/
def execPauseTimeout (vf : Nat) (s : State) : Host.Outcome State Fault Refusal :=
  match tabGet? s.vfs vf with
  | some v => if v.state == 2 && pauseOver s v && v.pausing.isNone then .next (resumeVf s vf) else .next s
  | none => .next s

/-- The running gangs of a VF that cannot be saved, for want of slots, end with status 3 (DESIGN CHOICE, log 42). -/
def discardUnsaved (vf : Nat) : List Nat → State → State
  | [], s => s
  | g :: gs, s =>
    match tabGet? s.gangs g with
    | some G =>
      if G.preempt || canSave s G then discardUnsaved vf gs (choosePreempt s g false) else discardUnsaved vf gs (endGang s g 3 0)
    | none => discardUnsaved vf gs s

/-- A VF is stopped as by a pause that nothing may refuse: of its own reset, or because it has left its locked configuration (19 R408,
R412). -/
def stopVf (s : State) (vf : Nat) (p : Pausing) : State :=
  let s := match startPause s vf p with
    | some s => s
    | none =>
      let s := { s with gangs := s.gangs.map fun (g, G) => (g, if G.vf == vf && G.life == .restoring then G.sentBack else G) }
      let run := ((placedOf s vf).filter fun (_, G) => G.life == .running).map (·.1)
      raiseMsi ((discardUnsaved vf run s).modVf vf fun v => { v with state := 1, pausing := some p }) vf 5
  settleIdle s (s.vf vf).part

/-- FUNCTION_LEVEL_RESET (19 R412): a pause, a discard, and the reset of the register block. -/
def execFunctionLevelReset (vf : Nat) (s : State) : Host.Outcome State Fault Refusal :=
  match tabGet? s.vfs vf with
  | none => .next s
  | some v =>
    let p : Pausing := { seq := none, andThen := .functionReset }
    if v.pausing.isSome then .next s
    else if v.state == 2 then .next (afterPause s vf p)
    else .next (stopVf s vf p)

/-- The keys of a partition's VFs' policies let a tenant land there (19 R401). -/
def peerAllowed (s : State) (part key : Nat) : Bool := (partVfs s part).all fun (_, v) => v.policy.peers.contains key

/-- SET_PEER_ACCEPT (16 R355, 19 R400, R401); it waits for a layout commit that was validated before it (17 R376). -/
def execSetPeerAccept (cmd : Cmd) (part : Nat) (senders : List Nat) (s : State) : Host.Outcome State Fault Refusal :=
  hostCommand s cmd
    (if layoutTouches s part then .next s
     else if (tabGet? s.parts part).isNone then refuse s cmd 2
     else if !senders.all (peerAllowed s part) then refuse s cmd 1
     else applied (s.modPart part fun p => { p with peers := senders }) cmd)

/-- SET_CONTEXT_KEYS (19 R400, R406): a fresh key for a VF's context slots. -/
def execSetContextKeys (cmd : Cmd) (s : State) : Host.Outcome State Fault Refusal :=
  forVf cmd s fun vf _ =>
    let k := s.root.nextKey
    if !(heldSlots s vf).isEmpty then refuse s cmd 5
    else applied { s.modVf vf (fun v => { v with ctxKey := k }) with root := { s.root with nextKey := k + 1 } } cmd

/-- Whether a policy can be bound at all (19 R401, R407, R411, R415). -/
def policyOk (s : State) (p : Policy) : Bool :=
  p.verifies && !(p.conf && (!s.root.sessionKey || s.root.unlocked)) && p.fwmin ≤ ((s.root.running).map (·.version)).getD 0

/-- A new VF under the generation that its handle names, with a fresh key for its context slots (19 R403, R406). -/
def newVf (s : State) (vf : Nat) (p : Policy) : State :=
  let k := s.root.nextKey
  { s with
    vfs := tabPut s.vfs vf { Vf.new (tabGet 0 s.root.nextHandle vf) p with ctxKey := k }
    root := { s.root with nextKey := k + 1 } }

/-- A VF is stopped because it has left its locked configuration (19 R408): as by a pause, which nothing may refuse. -/
def tdispError (s : State) (vf : Nat) : State :=
  let s := s.modVf vf fun v => { v with tdisp := .error }
  if (s.vf vf).state != 0 then s else stopVf s vf { seq := none, andThen := .nothing }

/-- VF_CREATE (19 R400, R401, R403, R407, R411, R415): a new VF, or a later policy of one that exists, which its handle names. -/
def execVfCreate (cmd : Cmd) (vf : Nat) (p : Policy) (s : State) : Host.Outcome State Fault Refusal :=
  hostCommand s cmd
    (if vf == 0 || vf > 512 then refuse s cmd 2
     else if (tabGet? s.vfs vf).isSome && (handleVf s cmd.handle).map (·.1) != some vf then refuse s cmd 3
     else if !policyOk s p then refuse s cmd 1
     else match tabGet? s.vfs vf with
     | none => applied (newVf s vf p) cmd
     | some v =>
       if p.version ≤ v.policy.version || p.key != v.policy.key then refuse s cmd 1
       else
         let s := s.modVf vf fun v => { v with policy := p }
         applied (if v.tdisp == .run then tdispError s vf else s) cmd)

/-- A VF ceases to exist: its saved gangs, its blocks, its debts and its handle go with it, every translation that was cached for it, and the
granules that it owned, which are then zeroed (17 R371, 19 R400, R402, R403; log 21). -/
def destroyVf (s : State) (vf : Nat) : State :=
  let s := leavePart (returnAll s vf) vf
  let keep (l : List TlbEntry) : List TlbEntry := l.filter fun e => e.vf != vf
  { s with
    gangs := s.gangs.filter fun (_, G) => G.vf != vf
    vfs := tabDel s.vfs vf
    pcores := s.pcores.map fun (k, p) => (k, { p with tlb := keep p.tlb })
    dieTlb := vmap keep s.dieTlb, walkers := vmap (fun l => l.filter fun e => e.vf != vf) s.walkers
    root := { s.root with
      nextHandle := tabPut s.root.nextHandle vf ((s.vf vf).gen + 1)
      granules := s.root.granules.map fun (g, x) => (g, match x with | .owned v _ _ => if v == vf then .zeroing else x | _ => x) } }

/-- VF_DESTROY (19 R400). -/
def execVfDestroy (cmd : Cmd) (s : State) : Host.Outcome State Fault Refusal :=
  forVf cmd s fun vf v => if v.state != 2 && v.everRan then refuse s cmd 5 else applied (destroyVf s vf) cmd

/-- LOCKED_VF_CHANGE (19 R408). -/
def execLockedVfChange (vf : Nat) (s : State) : Host.Outcome State Fault Refusal :=
  match tabGet? s.vfs vf with
  | some v => .next (if v.tdisp == .run then tdispError s vf else s)
  | none => .next s

/-- TDISP_LOCK (19 R405, R408): through its session the tenant sets the key of the VF's IDE stream and locks the VF. -/
def execTdispLock (vf : Nat) (sessionOk : Bool) (s : State) : Host.Outcome State Fault Refusal :=
  match tabGet? s.vfs vf with
  | some v => .next (if v.policy.conf && v.tdisp == .unlocked && sessionOk then
        { s.modVf vf (fun v => { v with tdisp := .run, ideKey := s.root.nextKey }) with root := { s.root with nextKey := s.root.nextKey + 1 } }
      else s)
  | none => .next s

/-- The granules of a page of local HBM, by number; host memory has none (19 R402). -/
def pageGranules (s : State) (pa lg : Nat) : List Nat := if localHbm s pa then natsFrom (pa / 4096) (2 ^ lg) else []

/-- The log of a page's size in granules: 4 KiB, 64 KiB, 2 MiB or 1 GiB (09 R214). -/
def pageLgOk (lg : Nat) : Bool := lg == 0 || lg == 4 || lg == 9 || lg == 18

/-- The level of a page's leaf (09 R214). -/
def leafLevel (lg : Nat) : Nat := if lg == 18 then 1 else if lg == 9 then 2 else 3

/-- A granule zeroed by the root: its bytes, its poison, its lines in the L2 (19 R402). -/
def zeroGranule (s : State) (granule : Nat) : State :=
  { s with
    mem := memWriteBytes s.mem (4096 * granule) (List.replicate 4096 0), poison := s.poison.filter fun k => k / 64 != granule
    l2 := s.l2.filter fun l => match l.tag with | .linear k => k / 16 != granule | .tile .. => true }

/-- The address of the entry of a level that an intermediate address indexes, tables made on the way from the granules offered; none when
they are too few or the walk meets a leaf (09 R212, R213; log 21). -/
def tableFor (vf ipa target : Nat) : Nat → Nat → Nat → List Nat → State → Option (Nat × State)
  | 0, _, _, _, _ => none
  | fuel + 1, level, table, offer, s =>
    let a := table + 8 * tableIndex level ipa
    if level == target then some (a, s)
    else
      let e := memRead s.mem a 8
      if ebit e 0 && !malformed false level e then
        if ebit e 1 then none else tableFor vf ipa target fuel (level + 1) (efield e 59 12 * 4096) offer s
      else match offer with
      | [] => none
      | t :: ts =>
        let s := l2WriteBytes (zeroGranule s (t / 4096)) vf a (leBytes 8 (t / 4096 * 4096 + 1)) false
        tableFor vf ipa target fuel (level + 1) (t / 4096 * 4096) ts s

/-- A leaf of stage 2 (09 R214). -/
def leafEntry (m : Stage2Mapping) (pa : Nat) : Nat :=
  3 + (if m.r then 16 else 0) + (if m.w then 32 else 0) + (if m.x then 64 else 0) + (if m.lgSize == 4 then 512 else 0) +
    (if m.cmp then 2048 else 0) + pa / 4096 * 4096

/-- The entries of a page: one, or the sixteen of a 64 KiB page (09 R214). -/
def putLeaves (s : State) (vf a : Nat) (lg : Nat) (entry : Nat → Nat) : State :=
  (natsFrom 0 (if lg == 4 then 16 else 1)).foldl (fun s k => l2WriteBytes s vf (a + 8 * k) (leBytes 8 (entry k)) false) s

/-- Whether an address lies in a granule of local HBM that can hold a table (19 R402; log 21). -/
def tableGranule (s : State) (part pa : Nat) : Bool := pa < 2 ^ 60 && localHbm s pa && physOk s part pa

/-- STAGE2_MAP (19 R402, 09 R214). -/
def execStage2Map (cmd : Cmd) (m : Stage2Mapping) (s : State) : Host.Outcome State Fault Refusal :=
  forVf cmd s fun vf v =>
    let size := 4096 * 2 ^ m.lgSize
    let gs := pageGranules s m.pa m.lgSize
    let exists' := m.pa < 2 ^ 60 && physOk s v.part m.pa && physOk s v.part (m.pa + size - 1) && m.tables.all (tableGranule s v.part)
    if !pageLgOk m.lgSize || m.ipa % size != 0 || m.pa % size != 0 || m.ipa ≥ 2 ^ 48 || !exists' then refuse s cmd 2
    else if gs.any (notZeroed s) then .next s
    else if gs.any (ownedByOther s vf) || m.tables.any (fun t => (tabGet? s.root.granules (t / 4096)).isSome) then refuse s cmd 1
    else if v.policy.conf && isHost m.pa && !m.ownIdeStream then refuse s cmd 1
    else match tableFor vf m.ipa (leafLevel m.lgSize) 4 0 v.s2root m.tables s with
    | none => refuse s cmd 4
    | some (a, s) =>
      let s := putLeaves s vf a m.lgSize fun k => leafEntry m (m.pa + 4096 * k)
      let own := if v.policy.conf then gs.foldl (ownGranule s vf) s.root.granules else s.root.granules
      applied { s with root := { s.root with granules := own } } cmd

/-- An invalidation of stage 2 that a command asks for (09 R227). -/
def requestInval2 (s : State) (vf : Nat) (i : Inval) : State := s.modVf vf fun v => { v with inval2 := v.inval2 ++ [i] }

/-- Whether an entry is a leaf of a page of that size (09 R213, R214). -/
def isLeaf (lgSize e : Nat) : Bool := ebit e 0 && ebit e 1 && !malformed false (leafLevel lgSize) e && ebit e 9 == (lgSize == 4)

/-- STAGE2_UNMAP (19 R402, R404): the leaf goes; the command completes with the invalidation, after which the granules of a confidential VF
are zeroed. -/
def execStage2Unmap (cmd : Cmd) (ipa lgSize : Nat) (s : State) : Host.Outcome State Fault Refusal :=
  forVf cmd s fun vf v =>
    if !pageLgOk lgSize || ipa % (4096 * 2 ^ lgSize) != 0 || ipa ≥ 2 ^ 48 then refuse s cmd 2
    else match tableFor vf ipa (leafLevel lgSize) 4 0 v.s2root [] s with
    | none => refuse s cmd 2
    | some (a, _) =>
      let e := memRead s.mem a 8
      if !isLeaf lgSize e then refuse s cmd 2
      else
        let s := putLeaves s vf a lgSize fun _ => 0
        let mine := (pageGranules s (efield e 59 12 * 4096) lgSize).filter (ownedBy s vf)
        let own := mine.foldl (leaveGranule .leaving) s.root.granules
        let gone := mine.filter fun g => tabGet? own g == some .leaving
        let s := { s with root := { s.root with granules := own } }
        .next (requestInval2 s vf { lo := ipa / 4096, pages := 2 ^ lgSize, all := false, seq := some cmd.seq, zero := gone })

/-- GRANULE_ZEROED (19 R402): a granule that left a confidential VF is zero, and may be mapped again. -/
def execGranuleZeroed (granule : Nat) (s : State) : Host.Outcome State Fault Refusal :=
  match tabGet? s.root.granules granule with
  | some .zeroing =>
    let s := zeroGranule s granule
    .next { s with root := { s.root with granules := tabDel s.root.granules granule } }
  | _ => .next s

/-- STAGE2_INVALIDATE (09 R227). -/
def execStage2Invalidate (cmd : Cmd) (ipa lgSize : Nat) (everything : Bool) (s : State) : Host.Outcome State Fault Refusal :=
  forVf cmd s fun vf _ =>
    .next (requestInval2 s vf { lo := ipa / 4096, pages := 2 ^ lgSize, all := everything, seq := some cmd.seq, zero := [] })

end Sys2Proof.Machine
end

