-- ==== Sys2Proof/Machine/Root.lean ====
section
/-! DEFINITION. The root of trust, firmware, resets, the clock and power, the debug port (19 R399, R407 to R415). -/

namespace Sys2Proof.Machine

/-- The root's record changed. -/
def State.modRoot (s : State) (f : Root → Root) : State := { s with root := f s.root }

/-- The steps of the clock, the highest first (19 R414). -/
def clockSteps : List ClockStep := [.mhz1050, .mhz840, .mhz630, .mhz525]

/-- Whether a step keeps every limit (19 R414). -/
def readingFits (r : Reading) (cap : Nat) : Bool := r.watts < cap && r.celsius < 105 && r.coolant

/-- The controller's choice (19 R414): the highest step under which all limits hold, the lowest when none does; above 115 degrees the lowest. -/
def chooseStep (cap celsius : Nat) (steps : List Reading) : ClockStep :=
  if 115 < celsius then .mhz525
  else (((clockSteps.zip steps).find? fun x => readingFits x.2 cap).map (·.1)).getD .mhz525

/-- THROTTLE_STEP (19 R414): the power controller chooses, from the hottest junction and its readings for each step, the highest first; without the
management processor the module holds the lowest step. -/
def execThrottleStep (r : Readings) (s : State) : Host.Outcome State Fault Refusal :=
  .next (if s.root.mcpUp then { s with power := { s.power with step := chooseStep s.power.cap r.celsius r.steps } } else s)

/-- MCP_FAULT (19 R399): management stops, and the module holds its lowest step. -/
def execMcpFault (s : State) : Host.Outcome State Fault Refusal :=
  .next { s with root := { s.root with mcpUp := false }, power := { s.power with step := .mhz525 } }

/-- MCP_RECOVERY (19 R399): management resumes, and a layout commit that had waited for it takes effect once it may. -/
def execMcpRecovery (s : State) : Host.Outcome State Fault Refusal := .next (finishLayout (s.modRoot fun r => { r with mcpUp := true }))

/-- SET_POWER_CAP (19 R414): from 1,500 W to the default of 3,000 W. -/
def execSetPowerCap (watts : Nat) (s : State) : Host.Outcome State Fault Refusal :=
  .next (if s.root.mcpUp && 1500 ≤ watts && watts ≤ 3000 then { s with power := { s.power with cap := watts } } else s)

/-- The certifications that an identity key has, and the leaves of a session key (19 R407). -/
def identityLeaves : Nat := 1048576
/-- The leaves of a session key (19 R407). -/
def sessionLeaves : Nat := 65536

/-- A fresh session key certified with the next identity leaf, or none when the leaves are exhausted (19 R407). -/
def Root.certify (r : Root) : Root :=
  if r.identityLeaf < identityLeaves then { r with sessionKey := true, sessionLeaf := 0, identityLeaf := r.identityLeaf + 1 }
  else { r with sessionKey := false }

/-- SESSION_KEY_RENEWAL (19 R407): a spent session key is replaced. -/
def execSessionKeyRenewal (s : State) : Host.Outcome State Fault Refusal :=
  .next (if s.root.sessionKey && s.root.sessionLeaf ≥ sessionLeaves then s.modRoot Root.certify else s)

/-- The measurement blocks 1 to 5 in index order, and for a VF that exists block 6: its policy's hash and conf (19 R408). -/
def measurements (s : State) (vf : Nat) : List Nat :=
  let f := s.root.running
  let hash := (f.map (·.hash)).getD 0
  [Config.romMeasure, Config.partMeasure 2 hash, Config.partMeasure 3 hash, (f.map (·.version)).getD 0, if s.root.unlocked then 1 else 0] ++
    match tabGet? s.vfs vf with
    | some v => [v.policy.hash, if v.policy.conf then 1 else 0]
    | none => []

/-- SPDM_REQUEST (19 R407, R408): the measurements are signed with the next leaf of the session key, or answered with an error when there is no
key; a spent key is renewed first. -/
def execSpdmRequest (vf : Nat) (s : State) : Host.Outcome State Fault Refusal :=
  let answer (ok : Bool) : Attest := { vf := vf, ok := ok, blocks := if ok then measurements s vf else [] }
  if !s.root.sessionKey then .next (s.modRoot fun r => { r with attests := r.attests ++ [answer false] })
  else if s.root.sessionLeaf ≥ sessionLeaves then .next s
  else .next (s.modRoot fun r => { r with attests := r.attests ++ [answer true], sessionLeaf := r.sessionLeaf + 1 })

/-- Whether an image's manifest verifies on this module (19 R409). -/
def firmwareFits (f : Firmware) : Bool := f.verifies && f.lowestRom ≤ Config.romRevision

/-- FIRMWARE_UPDATE (19 R410): verified before flash is written, and never older than the fuse counter. -/
def execFirmwareUpdate (img : Firmware) (s : State) : Host.Outcome State Fault Refusal :=
  .next (if firmwareFits img && s.root.fuse ≤ img.version then s.modRoot fun r => { r with flash := some img } else s)

/-- SECURITY_VERSION_COMMIT (19 R410): the fuse counter rises to the running image's version. -/
def execSecurityVersionCommit (s : State) : Host.Outcome State Fault Refusal :=
  .next (s.modRoot fun r => match r.running with | some f => { r with fuse := max r.fuse f.version } | none => r)

/-- The channel map of a reset: each failed channel is mapped to a working spare (12 R290). -/
def buildChanMap (failed : List Nat) : Tab Nat :=
  let spares := [381, 382, 383].filter fun c => !failed.contains c
  ((natsFrom 0 381).filter failed.contains).zip spares

/-- The ports after training (19 R413). -/
def trainPorts (failed : List (Fin 6)) : Vector Port 6 := vof fun k => { Port.reset with up := !failed.contains k }

/-- The root after the boot ROM has looked for an image: it runs, or the module is in recovery (19 R411, R413). -/
def Root.boot (r : Root) (unlock : Bool) : Root :=
  let fresh := { Root.reset with identityLeaf := r.identityLeaf, flash := r.flash, fuse := r.fuse, unlocked := unlock }
  match r.flash with
  | some f =>
    if firmwareFits f then ({ fresh with running := some f } : Root).certify
    else { fresh with recovery := true, running := none, sessionKey := false }
  | none => { fresh with recovery := true, running := none, sessionKey := false }

/-- The memory that a reset leaves: HBM is zero (19 R413), memory outside this device is as it was. -/
def keptMemory (s : State) : Mem := s.mem.filter fun c => !localHbm s c.1

/-- A cold reset (19 R413, 12 R290): HBM and every register file zero; no gang, no VF, no partition. What the flash, the fuses and the
repair record hold stays; with more than three failed channels it does not complete and is reported. -/
def coldBoot (s : State) (failedChannels : List Nat) (failedPorts : List (Fin 6)) (unlock : Bool) : State :=
  let failed := (s.chanFailed ++ failedChannels).eraseDups
  let root := { s.root.boot unlock with failedReset := 3 < failed.length }
  { State.reset with
    agenda := s.agenda, cur := s.cur, free := s.free, nextGang := s.nextGang, ac := s.ac, time := s.time, actAt := s.time, periodAt := s.ac
    coord := s.coord, denied := s.denied, silent := s.silent, mem := keptMemory s
    chanFailed := failed, chanMap := buildChanMap failed, ports := trainPorts failedPorts, root := root
    ready := !root.recovery && failed.length ≤ 3 }

/-- COLD_RESET (19 R413). -/
def execColdReset (failedChannels : List Nat) (failedPorts : List (Fin 6)) (s : State) : Host.Outcome State Fault Refusal :=
  .next (coldBoot s failedChannels failedPorts false)

/-- DEBUG_UNLOCK (19 R415): a reset that a valid token precedes unlocks the debug port, and zeroes HBM. -/
def execDebugUnlock (tokenOk : Bool) (s : State) : Host.Outcome State Fault Refusal :=
  .next (if tokenOk then coldBoot s [] [] true else s)

/-- RECOVERY (19 R411): an image whose manifest verifies is written to flash, and the module boots again. -/
def execRecovery (img : Firmware) (s : State) : Host.Outcome State Fault Refusal :=
  .next (if s.root.recovery && firmwareFits img then
      coldBoot (s.modRoot fun r => { r with flash := some img }) [] [] false
    else s)

/-- The gangs of the module end with status 2 and a code that the manual leaves open, saved ones too (19 R413; log 6). -/
def discardGangs (s : State) : State :=
  s.gangs.foldl (fun s (g, _) => { endGang (strandStores s g) g 2 (Config.freeNat s.free % 256) with free := s.free + 1 }) s

/-- The state after a completion record's turn. -/
def afterRecord (s : State) (vf : Nat) (n : Fin 4) : State :=
  match execCompletionRecord vf n s with
  | .next s => s
  | _ => s

/-- The completion records of every ring are written, as far as their translations allow. -/
def writeRecords (s : State) : State :=
  s.vfs.foldl (fun s (k, _) => (List.finRange 4).foldl (fun s n => (List.range (s.vf k).rings[n].compl.length).foldl (fun s _ => afterRecord s k n) s) s) s

/-- HOT_RESET (19 R413): every gang is discarded as by a device fault, its completion record written and a layout commit in progress abandoned;
then every VF is destroyed, and HBM, the register files and the ports start anew. -/
def execHotReset (failedPorts : List (Fin 6)) (s : State) : Host.Outcome State Fault Refusal :=
  let s := abandonLayout (writeRecords (discardGangs s)) 5
  let gens := s.vfs.foldl (fun t (k, v) => tabPut t k (v.gen + 1)) s.root.nextHandle
  .next { State.reset with
    agenda := s.agenda, cur := s.cur, free := s.free, nextGang := s.nextGang, ac := s.ac, time := s.time, actAt := s.time, periodAt := s.ac
    coord := s.coord, denied := s.denied, silent := s.silent, mem := keptMemory s
    chanFailed := s.chanFailed, chanMap := s.chanMap, ports := trainPorts failedPorts, msi := s.msi
    parts := s.parts.map fun (k, p) => (k, { p with hold := none, reserved := [] })
    quadMap := s.quadMap, layoutVer := s.layoutVer, power := s.power, ready := s.ready
    root := { s.root with granules := [], nextHandle := gens } }

/-- DEBUGGER_ARM (19 R415, 18 R389). -/
def execDebuggerArm (s : State) : Host.Outcome State Fault Refusal :=
  .next (if s.root.unlocked then s.modRoot fun r => { r with armed := true } else s)

end Sys2Proof.Machine
end

