-- ==== Sys2Proof/Machine/Sync.lean ====
section
/-! DEFINITION. FENCE and FENCE.I (14 R323 to R325), barriers (15 R334 to R336), supersteps (R337 to R339), waits on memory (R340, R341),
watermark slots (R342, R343) and the early trigger (R344). -/

namespace Sys2Proof.Machine

/-- What a FENCE does once its predecessors are performed (14 R324): a release with PW, an acquire with SR. -/
def fenceDone (s : State) (t : Tid) (c : BitVec 3) (pred succ : BitVec 2) : State :=
  let s := if bitOf pred 0 then release s t else s
  (if bitOf succ 1 then acquire s t c else s).done t

/-- Whether a thread has an earlier access of a FENCE's predecessor classes still to be performed: loads with PR, stores with PW
(14 R324). -/
def fencePends (th : Thread) (pred : BitVec 2) : Bool :=
  th.pend.any fun p => if p.load.isSome then bitOf pred 1 else bitOf pred 0

/-- FENCE (14 R324): it waits until the thread's earlier accesses of the predecessor classes are performed. -/
def execFence (c : BitVec 3) (p q : BitVec 2) (s : State) : Host.Outcome State Fault Refusal :=
  if fencePends (s.thread s.cur) p then .next (s.setWait s.cur (.fence c p q)) else .next (fenceDone s s.cur c p q)

/-- FENCE_COMPLETE (14 R324): the accesses that it waits for are performed. -/
def execFenceComplete (t : Tid) (s : State) : Host.Outcome State Fault Refusal :=
  match (s.thread t).wait with
  | some (.fence c p q) => if fencePends (s.thread t) p then .next s else .next (fenceDone s t c p q)
  | _ => .next s

/-- FENCE.I (14 R325): the thread's stores are performed and the core's instruction cache is emptied. -/
def execFenceI (s : State) : Host.Outcome State Fault Refusal :=
  let s := flushStores s s.cur
  moveOn (s.modPcore (s.pcoreNum s.cur) fun p => { p with icache := [] })

/-- The bit of a thread in a participant mask (15 R334). -/
def threadBit (qd : Bool) (c : Nat) (w : Who) : Nat :=
  (if qd then 9 * (c % 4) else 0) + (match w with | .taper => 8 | .wick k => k.val)

/-- The thread of a bit of a participant mask, for the core or the quad `i`. -/
def bitThread (g : Nat) (qd : Bool) (i k : Nat) : Tid :=
  { gang := g, core := if qd then 4 * i + k / 9 else i, who := if k % 9 == 8 then .taper else .wick (fin8 (k % 9)) }

/-- Whether a thread is absent: its core has not started or its taper has halted (15 R335). -/
def absent (s : State) (t : Tid) : Bool :=
  t.core > (s.gang t.gang).desc.ncm1.toNat || (s.core t.gang t.core).taper.run != .running

/-- A barrier object of a core or of a quad (15 R334). -/
def getBar (s : State) (g : Nat) (qd : Bool) (i b : Nat) : Bar :=
  if qd then tabGet Bar.zero (s.gang g).qbars (4 * i + b % 4) else (s.core g i).bars[fin16 b]
/-- The state with a barrier object changed. -/
def modBar (s : State) (g : Nat) (qd : Bool) (i b : Nat) (f : Bar → Bar) : State :=
  if qd then s.modGang g fun G => { G with qbars := tabPut G.qbars (4 * i + b % 4) (f (tabGet Bar.zero G.qbars (4 * i + b % 4))) }
  else s.modCore g i fun C => { C with bars := C.bars.set (fin16 b) (f C.bars[fin16 b]) }

/-- A taper's record of an arrival is dropped once its BAR or STEP returns (18 R386). -/
def clearArrival (s : State) (t : Tid) : State :=
  if isTaper t then s.modTaper t.gang t.core fun T => { T with arrival := none } else s

/-- BAR or STEP gives one thread the generation and goes on to the next instruction (15 R335, R338). -/
def genGive (s : State) (t : Tid) (rd : Reg) (gen : BitVec 32) : State := ((clearArrival s t).setX t rd (gen.setWidth 64)).done t

/-- The return of BAR or STEP to one thread: an acquire at its scope, and the generation (15 R335, R338). -/
def genReturn (s : State) (t : Tid) (scope : BitVec 3) (rd : Reg) (gen : BitVec 32) : State := genGive (acquire s t scope) t rd gen

/-- Whether every thread that the open mask names has arrived or is absent (15 R335). -/
def barFull (s : State) (g : Nat) (qd : Bool) (i : Nat) (o : Bar) : Bool :=
  o.arrived != 0 && (natsFrom 0 36).all fun k => !bitOf o.mask k || bitOf o.arrived k || absent s (bitThread g qd i k)

/-- The threads that have arrived at a barrier and wait in its BAR. -/
def barWaiters (s : State) (g : Nat) (qd : Bool) (i b : Nat) (o : Bar) : List Tid :=
  ((natsFrom 0 36).filter (bitOf o.arrived)).map (bitThread g qd i) |>.filter fun t =>
    match (s.thread t).wait with | some (.bar q' b' _) => q' == qd && b' == b | _ => false

/-- A thread that waits in BAR receives the generation. -/
def barGive (s : State) (t : Tid) (gen : BitVec 32) : State :=
  match (s.thread t).wait with | some (.bar _ _ rd) => genGive s t rd gen | _ => s

/-- A barrier completes when it can (15 R335, R336): the generation rises, the arrival set empties, and every participant that waits in its
BAR returns. A taper that an event has taken from its BAR returns when it comes back to it. -/
def completeBar (s : State) (g : Nat) (qd : Bool) (i b : Nat) : State :=
  let o := getBar s g qd i b
  if !barFull s g qd i o then s
  else
    let gen := o.gen + 1
    let s := modBar s g qd i b fun o => { o with gen := gen, arrived := 0 }
    let ts := barWaiters s g qd i b o
    ts.foldl (fun s t => barGive s t gen) (acquireAll s ts (if qd then 2 else 1))

/-- BAR (15 R335). A taper that an event took from this BAR does not arrive again; inside the handler it traps (18 R386). -/
def execBar (d x : Reg) (c : BitVec 3) (b : BitVec 4) (s : State) : Host.Outcome State Fault Refusal :=
  let t := s.cur
  let i := Instr.bar d x c b
  let qd := c == 2
  let place := if qd then t.core / 4 else t.core
  let T := s.curCore.taper
  let bit := threadBit qd t.core t.who
  let o := getBar s t.gang qd place b.toNat
  if isTaper t && T.arrival.isSome && T.act then trapNext s t .illegal (wordOf i)
  else if isTaper t && T.arrival == some T.th.pc then
    if bitOf o.arrived bit then .next (s.setWait t (.bar qd b.toNat d)) else .next (genReturn s t c d o.gen)
  else
    let m := s.getX t x
    if m.toNat ≥ 2 ^ (if qd then 36 else 9) || !bitOf m bit then trapNext s t .illegal m
    else if o.arrived != 0 && o.mask != m.setWidth 36 then trapNext s t .illegal m
    else
      let s := release s t
      let s := modBar s t.gang qd place b.toNat fun o => { o with mask := m.setWidth 36, arrived := setBit o.arrived bit true }
      .next (completeBar (s.setWait t (.bar qd b.toNat d)) t.gang qd place b.toNat)

/-- BAR_COMPLETION (15 R336). -/
def execBarCompletion (g : Nat) (qd : Bool) (i b : Nat) (s : State) : Host.Outcome State Fault Refusal :=
  if (tabGet? s.gangs g).any (·.life == .running) then .next (completeBar s g qd i b) else .next s

/-- The copies and SENDs that a thread has forked and that its step waits for (15 R338): `v` on their marks. -/
def holdForks (s : State) (t : Tid) (v : Bool) : State :=
  s.modCore t.gang t.core fun C =>
    { C with
      chans := vmap (fun x => { x with queue := x.queue.map fun y => if y.who == t.who then { y with hold := v } else y }) C.chans
      sends := C.sends.map fun y => if y.who == t.who then { y with hold := v } else y }

/-- A core's contribution to its partition's step is complete (15 R337). -/
def coreStepped (s : State) (g c : Nat) : Bool :=
  let C := s.core g c
  C.taper.run != .running ||
  match C.stepMask with
  | some m => (List.finRange 8).all fun w => !bitOf m w.val || bitOf C.stepWicks w.val
  | none => false

/-- No copy and no SEND that the step waits for is left in a core, nor a tile fetch of a wick that has arrived (14 R315, 15 R338). -/
def coreDelivered (C : Core) : Bool :=
  C.chans.toList.all (fun x => !x.queue.any (·.hold)) && !C.sends.any (·.hold) && !C.job.any fun j => bitOf C.stepWicks j.wick.val

/-- The member gangs of a partition's step group (15 R337). -/
def stepMembers (s : State) (part : Nat) : List (Nat × Gang) :=
  s.gangs.filter fun (_, G) => G.stepMember && (s.vf G.vf).part == part

/-- Whether a partition's step can complete (15 R338, R339). -/
def stepFull (s : State) (part : Nat) : Bool :=
  let ms := stepMembers s part
  !ms.isEmpty && ms.all fun (g, G) => G.life == .running && (gangCores G).all fun c => coreStepped s g c && coreDelivered (s.core g c)

/-- The threads of a core. -/
def coreThreads (g c : Nat) : List Tid := ([Who.taper] ++ (List.finRange 8).map Who.wick).map fun w => { gang := g, core := c, who := w }

/-- Whether a thread waits in STEP. -/
def waitsStep (s : State) (t : Tid) : Bool := match (s.thread t).wait with | some (.step _) => true | _ => false

/-- Every thread of a core that waits in STEP receives a generation, and the core's arrivals are cleared (15 R338). -/
def returnStep (s : State) (g c : Nat) (gen : BitVec 32) : State :=
  (coreThreads g c).foldl (fun s t => match (s.thread t).wait with | some (.step rd) => genGive s t rd gen | _ => s)
    (s.modCore g c fun C => { C with stepMask := none, stepWicks := 0 })

/-- A partition's step completes when it can (15 R338). -/
def completeStep (s : State) (part : Nat) : State :=
  if !stepFull s part then s
  else
    let p := tabGet (Part.new [] [] []) s.parts part
    let gen := p.stepGen + 1
    let cs := (stepMembers s part).flatMap fun (g, G) => (gangCores G).map fun c => (g, c)
    let s := { s with parts := tabPut s.parts part { p with stepGen := gen } }
    let s := acquireAll s ((cs.flatMap fun (g, c) => coreThreads g c).filter (waitsStep s)) 3
    cs.foldl (fun s (g, c) => returnStep s g c gen) s

/-- A wick whose arrival its taper's mask does not name traps, and is not counted (15 R337). -/
def stepTrap (s : State) (g c : Nat) (w : Fin 8) (m : Word) : State :=
  let t : Tid := { gang := g, core := c, who := .wick w }
  let s := s.modCore g c fun C => { C with stepWicks := setBit C.stepWicks w.val false }
  trap (holdForks s t false) t .illegal m

/-- STEP in the taper (15 R337). -/
def taperStep (s : State) (d x : Reg) : State :=
  let t := s.cur
  let m := s.getX t x
  if m.toNat ≥ 2 ^ 9 then trap s t .illegal (wordOf (.step d x))
  else
    let s := (holdForks (release s t) t true).modGang t.gang fun G => { G with stepMember := true }
    let s := s.modCore t.gang t.core fun C => { C with stepMask := some (m.setWidth 9) }
    let s := s.setWait t (.step d)
    let s := (List.finRange 8).foldl (fun s w =>
      if bitOf (s.core t.gang t.core).stepWicks w.val && !bitOf m w.val then stepTrap s t.gang t.core w m else s) s
    completeStep s (s.partOf t.gang)

/-- STEP in a wick (15 R337). -/
def wickStep (s : State) (w : Fin 8) (d : Reg) : State :=
  let t := s.cur
  match s.curCore.stepMask with
  | some m =>
    if bitOf m w.val then
      let s := (holdForks (release s t) t true).modGang t.gang fun G => { G with stepMember := true }
      let s := s.modCore t.gang t.core fun C => { C with stepWicks := setBit C.stepWicks w.val true }
      completeStep (s.setWait t (.step d)) (s.partOf t.gang)
    else trap s t .illegal (m.setWidth 64)
  | none =>
    let s := (holdForks (release s t) t true).modGang t.gang fun G => { G with stepMember := true }
    let s := s.modCore t.gang t.core fun C => { C with stepWicks := setBit C.stepWicks w.val true }
    s.setWait t (.step d)

/-- STEP (15 R337, R338, 18 R386): a wick's rs1 must be x0 (R333). -/
def execStep (d x : Reg) (s : State) : Host.Outcome State Fault Refusal :=
  let t := s.cur
  let i := Instr.step d x
  match t.who with
  | .wick w => if x != 0 then trapNext s t .illegal (wordOf i) else .next (wickStep s w d)
  | .taper =>
    let C := s.curCore
    let T := C.taper
    if T.arrival.isSome && T.act then trapNext s t .illegal (wordOf i)
    else if T.arrival == some T.th.pc then
      if C.stepMask.isSome then .next (s.setWait t (.step d))
      else .next (genReturn s t 3 d (tabGet (Part.new [] [] []) s.parts (s.partOf t.gang)).stepGen)
    else .next (taperStep s d x)

/-- STEP_COMPLETION (15 R338). -/
def execStepCompletion (part : Nat) (s : State) : Host.Outcome State Fault Refusal := .next (completeStep s part)

/-- The conditions of WAITMEM (15 R340); 6 is WAITGEN's test. -/
def waitHolds (cond n : Nat) (w v : Word) : Bool :=
  let v := narrowU n v
  match cond with
  | 0 => w == v | 1 => w != v | 2 => w.toNat < v.toNat | 3 => w.toNat ≥ v.toNat | 4 => w &&& v == v | 5 => w &&& v != 0
  | _ => ((w - v).setWidth 32).toNat < 2 ^ 31

/-- The word that a wait reads at the L2 (15 R340). -/
def waitWord (s : State) (pa n : Nat) : Word := BitVec.ofNat 64 (memRead s.mem pa n)

/-- A wait that is satisfied returns: an acquire, and the word (15 R340). -/
def waitReturn (s : State) (t : Tid) (scope : BitVec 3) (rd : Reg) (w : Word) : State := ((acquire s t scope).setX t rd w).done t

/-- The intermediate address of an address that a thread has translated. -/
def ipaOf (s : State) (t : Tid) (va : Word) : Nat :=
  match (translate s (s.pcoreNum t) (s.vfOf t) va .read false).1 with
  | .ok x => x.ipa
  | _ => 0

/-- One reading of the waited word (15 R340, R341): a refusal of the host and poison trap, a satisfying value returns. -/
def waitRead (s : State) (t : Tid) (ea : Word) (pa n cond : Nat) (v : Word) (rd : Reg) (scope : BitVec 3) : State :=
  if hostRefuses s pa then trapXlat s t .protection ea .read { ipa := ipaOf s t ea, place := 0 }
  else if poisoned s pa then trap s t .poison ea
  else
    let w := waitWord s pa n
    if waitHolds cond n w v then waitReturn s t scope rd w else s.setWait t (.word ea pa n cond v rd scope s.ac)

/-- A wait on a word (15 R340): misaligned, translation, then the first reading, after the thread's own scalar stores. -/
def waitOn (s : State) (d x y : Reg) (n cond : Nat) (scope : BitVec 3) : Host.Outcome State Fault Refusal :=
  let t := s.cur
  let ea := s.getX t x
  let v := s.getX t y
  if ea.toNat % n != 0 then trapNext s t .misaligned ea
  else match threadXlat s t ea .read with
  | .stop s => .next s
  | .ok X s =>
    let s := flushScalar s t
    .next (waitRead (l2Touch s (s.vfOf t) X.pa .read X.cmp none) t ea X.pa n cond v d scope)

/-- WAITGEN (15 R340). -/
def execWaitgen (d x y : Reg) (c : BitVec 3) (s : State) : Host.Outcome State Fault Refusal := waitOn s d x y 4 6 c
/-- WAITMEM (15 R340). -/
def execWaitmem (d x y : Reg) (c : BitVec 3) (w : BitVec 1) (q : BitVec 3) (s : State) : Host.Outcome State Fault Refusal :=
  waitOn s d x y (if w == 0 then 4 else 8) q.toNat c

/-- WAIT_POLL (15 R341): the waited word is read again. -/
def execWaitPoll (t : Tid) (s : State) : Host.Outcome State Fault Refusal :=
  match (s.thread t).wait with
  | some (.word ea pa n cond v rd c _) => .next (waitRead s t ea pa n cond v rd c)
  | _ => .next s

/-- WAITMEM_RETURN (15 R341): the waited word satisfies its condition. -/
def execWaitmemReturn (t : Tid) (s : State) : Host.Outcome State Fault Refusal :=
  match (s.thread t).wait with
  | some (.word _ pa n cond v rd c _) =>
    if !hostRefuses s pa && !poisoned s pa && waitHolds cond n (waitWord s pa n) v then .next (waitReturn s t c rd (waitWord s pa n)) else .next s
  | _ => .next s

/-- WMPUB (15 R343): a release, which at every scope performs the thread's earlier accesses, then the slot raised in one step. -/
def execWmpub (d x y : Reg) (_c : BitVec 3) (o : BitVec 1) (s : State) : Host.Outcome State Fault Refusal :=
  let t := s.cur
  let slot := s.getX t x
  let v := s.getX t y
  if !slotHeld s (s.vfOf t) slot.toNat then trapNext s t .protection slot
  else
    let s := release s t
    let old := markOf s slot.toNat
    let new := if o == 1 then old + v else if 1 ≤ (v - old).toNat && (v - old).toNat ≤ 2 ^ 63 - 1 then v else old
    writeRd { s with marks := tabPut s.marks slot.toNat new } d old

/-- ETRIG (15 R344): the taper's core is triggered; a release. -/
def execEtrig (s : State) : Host.Outcome State Fault Refusal :=
  forTaper .etrig s (moveOn ((release s s.cur).modCore s.cur.gang s.cur.core fun C => { C with triggered := true }))

end Sys2Proof.Machine
end

