-- ==== Sys2Proof/Machine/Dispatch.lean ====
section
/-! DEFINITION. One arm per constructor of Instr: the meaning of each instruction and event. -/

namespace Sys2Proof.Machine

/-- The meaning of an instruction or event. -/
def exec (i : Instr) (s : State) : Host.Outcome State Fault Refusal :=
  match i with
  | .add d r t => Sys2Proof.Machine.execAdd d r t s
  | .sub d r t => Sys2Proof.Machine.execSub d r t s
  | .and d r t => Sys2Proof.Machine.execAnd d r t s
  | .or d r t => Sys2Proof.Machine.execOr d r t s
  | .xor d r t => Sys2Proof.Machine.execXor d r t s
  | .sll d r t => Sys2Proof.Machine.execSll d r t s
  | .srl d r t => Sys2Proof.Machine.execSrl d r t s
  | .sra d r t => Sys2Proof.Machine.execSra d r t s
  | .slt d r t => Sys2Proof.Machine.execSlt d r t s
  | .sltu d r t => Sys2Proof.Machine.execSltu d r t s
  | .min d r t => Sys2Proof.Machine.execMin d r t s
  | .max d r t => Sys2Proof.Machine.execMax d r t s
  | .minu d r t => Sys2Proof.Machine.execMinu d r t s
  | .maxu d r t => Sys2Proof.Machine.execMaxu d r t s
  | .mul d r t => Sys2Proof.Machine.execMul d r t s
  | .mulh d r t => Sys2Proof.Machine.execMulh d r t s
  | .mulhu d r t => Sys2Proof.Machine.execMulhu d r t s
  | .div d r t => Sys2Proof.Machine.execDiv d r t s
  | .divu d r t => Sys2Proof.Machine.execDivu d r t s
  | .rem d r t => Sys2Proof.Machine.execRem d r t s
  | .remu d r t => Sys2Proof.Machine.execRemu d r t s
  | .clz d r => Sys2Proof.Machine.execClz d r s
  | .ctz d r => Sys2Proof.Machine.execCtz d r s
  | .cpop d r => Sys2Proof.Machine.execCpop d r s
  | .slli d r h g => Sys2Proof.Machine.execSlli d r h g s
  | .srli d r h g => Sys2Proof.Machine.execSrli d r h g s
  | .srai d r h g => Sys2Proof.Machine.execSrai d r h g s
  | .addi d r imm => Sys2Proof.Machine.execAddi d r imm s
  | .andi d r imm => Sys2Proof.Machine.execAndi d r imm s
  | .ori d r imm => Sys2Proof.Machine.execOri d r imm s
  | .xori d r imm => Sys2Proof.Machine.execXori d r imm s
  | .slti d r imm => Sys2Proof.Machine.execSlti d r imm s
  | .sltiu d r imm => Sys2Proof.Machine.execSltiu d r imm s
  | .lui d imm => Sys2Proof.Machine.execLui d imm s
  | .auipc d imm => Sys2Proof.Machine.execAuipc d imm s
  | .jal d o => Sys2Proof.Machine.execJal d o s
  | .jalr d r imm => Sys2Proof.Machine.execJalr d r imm s
  | .beq r t o => Sys2Proof.Machine.execBeq r t o s
  | .bne r t o => Sys2Proof.Machine.execBne r t o s
  | .blt r t o => Sys2Proof.Machine.execBlt r t o s
  | .bge r t o => Sys2Proof.Machine.execBge r t o s
  | .bltu r t o => Sys2Proof.Machine.execBltu r t o s
  | .bgeu r t o => Sys2Proof.Machine.execBgeu r t o s
  | .lb d r imm => Sys2Proof.Machine.execLb d r imm s
  | .lbu d r imm => Sys2Proof.Machine.execLbu d r imm s
  | .lh d r imm => Sys2Proof.Machine.execLh d r imm s
  | .lhu d r imm => Sys2Proof.Machine.execLhu d r imm s
  | .lw d r imm => Sys2Proof.Machine.execLw d r imm s
  | .lwu d r imm => Sys2Proof.Machine.execLwu d r imm s
  | .ld d r imm => Sys2Proof.Machine.execLd d r imm s
  | .sb t r imm => Sys2Proof.Machine.execSb t r imm s
  | .sh t r imm => Sys2Proof.Machine.execSh t r imm s
  | .sw t r imm => Sys2Proof.Machine.execSw t r imm s
  | .sd t r imm => Sys2Proof.Machine.execSd t r imm s
  | .fadd d r t m => Sys2Proof.Machine.execFadd d r t m s
  | .fsub d r t m => Sys2Proof.Machine.execFsub d r t m s
  | .fmul d r t m => Sys2Proof.Machine.execFmul d r t m s
  | .fdiv d r t m => Sys2Proof.Machine.execFdiv d r t m s
  | .fma d r t m => Sys2Proof.Machine.execFma d r t m s
  | .fmin d r t => Sys2Proof.Machine.execFmin d r t s
  | .fmax d r t => Sys2Proof.Machine.execFmax d r t s
  | .fcvtW d r m => Sys2Proof.Machine.execFcvtW d r m s
  | .fcvtF d r m => Sys2Proof.Machine.execFcvtF d r m s
  | .fcmp d r t c => Sys2Proof.Machine.execFcmp d r t c s
  | .amoadd d y t c q r w => Sys2Proof.Machine.execAmoadd d y t c q r w s
  | .amoswap d y t c q r w => Sys2Proof.Machine.execAmoswap d y t c q r w s
  | .amoand d y t c q r w => Sys2Proof.Machine.execAmoand d y t c q r w s
  | .amoor d y t c q r w => Sys2Proof.Machine.execAmoor d y t c q r w s
  | .amoxor d y t c q r w => Sys2Proof.Machine.execAmoxor d y t c q r w s
  | .amomin d y t c q r w => Sys2Proof.Machine.execAmomin d y t c q r w s
  | .amomax d y t c q r w => Sys2Proof.Machine.execAmomax d y t c q r w s
  | .amominu d y t c q r w => Sys2Proof.Machine.execAmominu d y t c q r w s
  | .amomaxu d y t c q r w => Sys2Proof.Machine.execAmomaxu d y t c q r w s
  | .amocas d y t c q r w => Sys2Proof.Machine.execAmocas d y t c q r w s
  | .amofadd d y t c q r => Sys2Proof.Machine.execAmofadd d y t c q r s
  | .lda d r c w => Sys2Proof.Machine.execLda d r c w s
  | .stl r t c w => Sys2Proof.Machine.execStl r t c w s
  | .csrr d c => Sys2Proof.Machine.execCsrr d c s
  | .csrw d r c => Sys2Proof.Machine.execCsrw d r c s
  | .csrs d r c => Sys2Proof.Machine.execCsrs d r c s
  | .csrc d r c => Sys2Proof.Machine.execCsrc d r c s
  | .csrwImm d u c => Sys2Proof.Machine.execCsrwImm d u c s
  | .csrsImm d u c => Sys2Proof.Machine.execCsrsImm d u c s
  | .csrcImm d u c => Sys2Proof.Machine.execCsrcImm d u c s
  | .bcast r n m => Sys2Proof.Machine.execBcast r n m s
  | .bfetch r o => Sys2Proof.Machine.execBfetch r o s
  | .stop c => Sys2Proof.Machine.execStop c s
  | .wjoin d r m => Sys2Proof.Machine.execWjoin d r m s
  | .xlink d r => Sys2Proof.Machine.execXlink d r s
  | .xlinkTaper d r w => Sys2Proof.Machine.execXlinkTaper d r w s
  | .xlinkV d r => Sys2Proof.Machine.execXlinkV d r s
  | .wstat d c r => Sys2Proof.Machine.execWstat d c r s
  | .strip d r a => Sys2Proof.Machine.execStrip d r a s
  | .stripW d r v w => Sys2Proof.Machine.execStripW d r v w s
  | .vsett d r g a m e => Sys2Proof.Machine.execVsett d r g a m e s
  | .vsettAp d r n => Sys2Proof.Machine.execVsettAp d r n s
  | .vmode d => Sys2Proof.Machine.execVmode d s
  | .vloop o => Sys2Proof.Machine.execVloop o s
  | .vld d b f k m => Sys2Proof.Machine.execVld d b f k m s
  | .vlds d b f k m => Sys2Proof.Machine.execVlds d b f k m s
  | .vldx d b f k m => Sys2Proof.Machine.execVldx d b f k m s
  | .vldxP d f k m => Sys2Proof.Machine.execVldxP d f k m s
  | .vldseg d b f n m => Sys2Proof.Machine.execVldseg d b f n m s
  | .vldff d b k m => Sys2Proof.Machine.execVldff d b k m s
  | .prefD b f => Sys2Proof.Machine.execPrefD b f s
  | .prefI b f => Sys2Proof.Machine.execPrefI b f s
  | .vst d b f k m => Sys2Proof.Machine.execVst d b f k m s
  | .vsts d b f k m => Sys2Proof.Machine.execVsts d b f k m s
  | .vstx d b f k m => Sys2Proof.Machine.execVstx d b f k m s
  | .vstseg d b f n m => Sys2Proof.Machine.execVstseg d b f n m s
  | .vadd d a b m k => Sys2Proof.Machine.execVadd d a b m k s
  | .vsub d a b m k => Sys2Proof.Machine.execVsub d a b m k s
  | .vrsub d a b m k => Sys2Proof.Machine.execVrsub d a b m k s
  | .vmul d a b m k => Sys2Proof.Machine.execVmul d a b m k s
  | .vmulh d a b m k => Sys2Proof.Machine.execVmulh d a b m k s
  | .vmulhu d a b m k => Sys2Proof.Machine.execVmulhu d a b m k s
  | .vdiv d a b m k => Sys2Proof.Machine.execVdiv d a b m k s
  | .vrem d a b m k => Sys2Proof.Machine.execVrem d a b m k s
  | .vmin d a b m k => Sys2Proof.Machine.execVmin d a b m k s
  | .vmax d a b m k => Sys2Proof.Machine.execVmax d a b m k s
  | .vminu d a b m k => Sys2Proof.Machine.execVminu d a b m k s
  | .vmaxu d a b m k => Sys2Proof.Machine.execVmaxu d a b m k s
  | .vand d a b m k => Sys2Proof.Machine.execVand d a b m k s
  | .vor d a b m k => Sys2Proof.Machine.execVor d a b m k s
  | .vxor d a b m k => Sys2Proof.Machine.execVxor d a b m k s
  | .vsll d a b m k => Sys2Proof.Machine.execVsll d a b m k s
  | .vsrl d a b m k => Sys2Proof.Machine.execVsrl d a b m k s
  | .vsra d a b m k => Sys2Proof.Machine.execVsra d a b m k s
  | .vsadd d a b m k => Sys2Proof.Machine.execVsadd d a b m k s
  | .vssub d a b m k => Sys2Proof.Machine.execVssub d a b m k s
  | .vsaddu d a b m k => Sys2Proof.Machine.execVsaddu d a b m k s
  | .vssubu d a b m k => Sys2Proof.Machine.execVssubu d a b m k s
  | .vmacc d a b m k => Sys2Proof.Machine.execVmacc d a b m k s
  | .vnmsac d a b m k => Sys2Proof.Machine.execVnmsac d a b m k s
  | .vmerge d a b m k => Sys2Proof.Machine.execVmerge d a b m k s
  | .vmv d b m k => Sys2Proof.Machine.execVmv d b m k s
  | .vcmp d a b m k c => Sys2Proof.Machine.execVcmp d a b m k c s
  | .vwadd d a b m k => Sys2Proof.Machine.execVwadd d a b m k s
  | .vwmul d a b m k => Sys2Proof.Machine.execVwmul d a b m k s
  | .vwmacc d a b m k => Sys2Proof.Machine.execVwmacc d a b m k s
  | .vwmaccu d a b m k => Sys2Proof.Machine.execVwmaccu d a b m k s
  | .vwmaccsu d a b m k => Sys2Proof.Machine.execVwmaccsu d a b m k s
  | .vnclip d a b m k => Sys2Proof.Machine.execVnclip d a b m k s
  | .vnclipu d a b m k => Sys2Proof.Machine.execVnclipu d a b m k s
  | .vfadd d a b m k => Sys2Proof.Machine.execVfadd d a b m k s
  | .vfsub d a b m k => Sys2Proof.Machine.execVfsub d a b m k s
  | .vfmul d a b m k => Sys2Proof.Machine.execVfmul d a b m k s
  | .vfdiv d a b m k => Sys2Proof.Machine.execVfdiv d a b m k s
  | .vfsqrt d a m => Sys2Proof.Machine.execVfsqrt d a m s
  | .vfma d a b m k => Sys2Proof.Machine.execVfma d a b m k s
  | .vfms d a b m k => Sys2Proof.Machine.execVfms d a b m k s
  | .vfnma d a b m k => Sys2Proof.Machine.execVfnma d a b m k s
  | .vfmin d a b m k => Sys2Proof.Machine.execVfmin d a b m k s
  | .vfmax d a b m k => Sys2Proof.Machine.execVfmax d a b m k s
  | .vfcmp d a b m k c => Sys2Proof.Machine.execVfcmp d a b m k c s
  | .vfcvtXf d a m => Sys2Proof.Machine.execVfcvtXf d a m s
  | .vfcvtFx d a m => Sys2Proof.Machine.execVfcvtFx d a m s
  | .vfcvtXuf d a m => Sys2Proof.Machine.execVfcvtXuf d a m s
  | .vfcvtFxu d a m => Sys2Proof.Machine.execVfcvtFxu d a m s
  | .vfcvtFw d a m => Sys2Proof.Machine.execVfcvtFw d a m s
  | .vfcvtFn d a m => Sys2Proof.Machine.execVfcvtFn d a m s
  | .vfclass d a m => Sys2Proof.Machine.execVfclass d a m s
  | .vfsgnj d a b m k => Sys2Proof.Machine.execVfsgnj d a b m k s
  | .vfsgnjN d a b m k => Sys2Proof.Machine.execVfsgnjN d a b m k s
  | .vfsgnjX d a b m k => Sys2Proof.Machine.execVfsgnjX d a b m k s
  | .vfexp2 d a m => Sys2Proof.Machine.execVfexp2 d a m s
  | .vflog2 d a m => Sys2Proof.Machine.execVflog2 d a m s
  | .vfrcp d a m => Sys2Proof.Machine.execVfrcp d a m s
  | .vfrsqrt d a m => Sys2Proof.Machine.execVfrsqrt d a m s
  | .vftanh d a m => Sys2Proof.Machine.execVftanh d a m s
  | .vrand d m => Sys2Proof.Machine.execVrand d m s
  | .vredsum d a b m => Sys2Proof.Machine.execVredsum d a b m s
  | .vredmax d a b m => Sys2Proof.Machine.execVredmax d a b m s
  | .vredmin d a b m => Sys2Proof.Machine.execVredmin d a b m s
  | .vfredsum d a b m => Sys2Proof.Machine.execVfredsum d a b m s
  | .vfredmax d a b m => Sys2Proof.Machine.execVfredmax d a b m s
  | .vfredmin d a b m => Sys2Proof.Machine.execVfredmin d a b m s
  | .vslideup d a b m k => Sys2Proof.Machine.execVslideup d a b m k s
  | .vslidedn d a b m k => Sys2Proof.Machine.execVslidedn d a b m k s
  | .vslide1 d a b m k => Sys2Proof.Machine.execVslide1 d a b m k s
  | .vperm d a b m k => Sys2Proof.Machine.execVperm d a b m k s
  | .vcompress d a m => Sys2Proof.Machine.execVcompress d a m s
  | .vid d b m k => Sys2Proof.Machine.execVid d b m k s
  | .vmvxs d a b k => Sys2Proof.Machine.execVmvxs d a b k s
  | .vmvsx d b => Sys2Proof.Machine.execVmvsx d b s
  | .mand d a b => Sys2Proof.Machine.execMand d a b s
  | .mor d a b => Sys2Proof.Machine.execMor d a b s
  | .mxor d a b => Sys2Proof.Machine.execMxor d a b s
  | .mandn d a b => Sys2Proof.Machine.execMandn d a b s
  | .mpop d a => Sys2Proof.Machine.execMpop d a s
  | .mfirst d a => Sys2Proof.Machine.execMfirst d a s
  | .mseti d k b => Sys2Proof.Machine.execMseti d k b s
  | .mzero a => Sys2Proof.Machine.execMzero a s
  | .mzeroR a => Sys2Proof.Machine.execMzeroR a s
  | .mxp a x y m => Sys2Proof.Machine.execMxp a x y m s
  | .mxpi a x y m v => Sys2Proof.Machine.execMxpi a x y m v s
  | .mter a x y m v => Sys2Proof.Machine.execMter a x y m v s
  | .mseg x y m => Sys2Proof.Machine.execMseg x y m s
  | .mrd a x y m imm r c => Sys2Proof.Machine.execMrd a x y m imm r c s
  | .mwr a x y m imm => Sys2Proof.Machine.execMwr a x y m imm s
  | .mwait t => Sys2Proof.Machine.execMwait t s
  | .mquadJ a => Sys2Proof.Machine.execMquadJ a s
  | .mquadL a => Sys2Proof.Machine.execMquadL a s
  | .mxpt a r x y m f g => Sys2Proof.Machine.execMxpt a r x y m f g s
  | .mpin a x => Sys2Proof.Machine.execMpin a x s
  | .munpin a => Sys2Proof.Machine.execMunpin a s
  | .mdelta a x y c => Sys2Proof.Machine.execMdelta a x y c s
  | .mdeltaQ a x y c z => Sys2Proof.Machine.execMdeltaQ a x y c z s
  | .mreadq a x y => Sys2Proof.Machine.execMreadq a x y s
  | .mspill a x => Sys2Proof.Machine.execMspill a x s
  | .mspillR a x => Sys2Proof.Machine.execMspillR a x s
  | .mfill a x => Sys2Proof.Machine.execMfill a x s
  | .tdef r t => Sys2Proof.Machine.execTdef r t s
  | .tinv r => Sys2Proof.Machine.execTinv r s
  | .tsync r t => Sys2Proof.Machine.execTsync r t s
  | .cpdrain d c => Sys2Proof.Machine.execCpdrain d c s
  | .cpcancel d r => Sys2Proof.Machine.execCpcancel d r s
  | .fence c p r => Sys2Proof.Machine.execFence c p r s
  | .bar d r c b => Sys2Proof.Machine.execBar d r c b s
  | .step d r => Sys2Proof.Machine.execStep d r s
  | .waitgen d r t c => Sys2Proof.Machine.execWaitgen d r t c s
  | .waitmem d r t c w q => Sys2Proof.Machine.execWaitmem d r t c w q s
  | .wmpub d r t c o => Sys2Proof.Machine.execWmpub d r t c o s
  | .send r t => Sys2Proof.Machine.execSend r t s
  | .wexport d r t => Sys2Proof.Machine.execWexport d r t s
  | .wrevoke d t => Sys2Proof.Machine.execWrevoke d t s
  | .wickEvent g c => Sys2Proof.Machine.execWickEvent g c s
  | .stopEvent g c w code => Sys2Proof.Machine.execStopEvent g c w code s
  | .wfeTimeout t => Sys2Proof.Machine.execWfeTimeout t s
  | .wfeWake t => Sys2Proof.Machine.execWfeWake t s
  | .haltRetire g c => Sys2Proof.Machine.execHaltRetire g c s
  | .wjoinReturn g c => Sys2Proof.Machine.execWjoinReturn g c s
  | .barCompletion g qd imm b => Sys2Proof.Machine.execBarCompletion g qd imm b s
  | .stepCompletion part => Sys2Proof.Machine.execStepCompletion part s
  | .waitPoll t => Sys2Proof.Machine.execWaitPoll t s
  | .stripWReturn t => Sys2Proof.Machine.execStripWReturn t s
  | .cpdrainReturn t => Sys2Proof.Machine.execCpdrainReturn t s
  | .mwaitEnd t => Sys2Proof.Machine.execMwaitEnd t s
  | .fenceComplete t => Sys2Proof.Machine.execFenceComplete t s
  | .mquadRendezvous g q => Sys2Proof.Machine.execMquadRendezvous g q s
  | .jointStep g q => Sys2Proof.Machine.execJointStep g q s
  | .illegalEncoding word => Sys2Proof.Machine.execIllegalEncoding word s
  | .reservedFieldWord word => Sys2Proof.Machine.execReservedFieldWord word s
  | .instructionFetchFault cause va => Sys2Proof.Machine.execInstructionFetchFault cause va s
  | .ecall => Sys2Proof.Machine.execEcall s
  | .ebreak => Sys2Proof.Machine.execEbreak s
  | .trapret => Sys2Proof.Machine.execTrapret s
  | .wfe => Sys2Proof.Machine.execWfe s
  | .halt => Sys2Proof.Machine.execHalt s
  | .yield => Sys2Proof.Machine.execYield s
  | .fenceI => Sys2Proof.Machine.execFenceI s
  | .etrig => Sys2Proof.Machine.execEtrig s
  | .cpgo d => Sys2Proof.Machine.execCpgo d s
  | .psstatRead d => Sys2Proof.Machine.execPsstatRead d s
  | .waitmemReturn t => Sys2Proof.Machine.execWaitmemReturn t s
  | .slotIssue g c => Sys2Proof.Machine.execSlotIssue g c s
  | .blockDelivery g c w => Sys2Proof.Machine.execBlockDelivery g c w s
  | .bcastReplay g c w => Sys2Proof.Machine.execBcastReplay g c w s
  | .tileLineFill vf tid bidx m0 k0 => Sys2Proof.Machine.execTileLineFill vf tid bidx m0 k0 s
  | .sectorFill pa uncorrectable => Sys2Proof.Machine.execSectorFill pa uncorrectable s
  | .pageRequestResend vf => Sys2Proof.Machine.execPageRequestResend vf s
  | .pageRequestAnswer vf id code => Sys2Proof.Machine.execPageRequestAnswer vf id code s
  | .faultRecord vf => Sys2Proof.Machine.execFaultRecord vf s
  | .dirtyLogAppend vf => Sys2Proof.Machine.execDirtyLogAppend vf s
  | .cacheLineExpiry pcore line => Sys2Proof.Machine.execCacheLineExpiry pcore line s
  | .activationCounterReset => Sys2Proof.Machine.execActivationCounterReset s
  | .heldRowServe => Sys2Proof.Machine.execHeldRowServe s
  | .copyChunk g c ch => Sys2Proof.Machine.execCopyChunk g c ch s
  | .copyFlag g c ch => Sys2Proof.Machine.execCopyFlag g c ch s
  | .sendFlag g c k => Sys2Proof.Machine.execSendFlag g c k s
  | .landing f => Sys2Proof.Machine.execLanding f s
  | .sendReplay g c k => Sys2Proof.Machine.execSendReplay g c k s
  | .flitReceive port f => Sys2Proof.Machine.execFlitReceive port f s
  | .linkReplay port => Sys2Proof.Machine.execLinkReplay port s
  | .laneFailure lane => Sys2Proof.Machine.execLaneFailure lane s
  | .linkLoss port => Sys2Proof.Machine.execLinkLoss port s
  | .remoteReplyTimeout part => Sys2Proof.Machine.execRemoteReplyTimeout part s
  | .ringwpDoorbell vf ring wp => Sys2Proof.Machine.execRingwpDoorbell vf ring wp s
  | .ringReset vf ring => Sys2Proof.Machine.execRingReset vf ring s
  | .ringEnable vf ring => Sys2Proof.Machine.execRingEnable vf ring s
  | .s1inv vf v => Sys2Proof.Machine.execS1inv vf v s
  | .invalidationComplete vf stage2 => Sys2Proof.Machine.execInvalidationComplete vf stage2 s
  | .fqovfRead vf => Sys2Proof.Machine.execFqovfRead vf s
  | .vferrRead vf => Sys2Proof.Machine.execVferrRead vf s
  | .vfRegisterWrite vf off v => Sys2Proof.Machine.execVfRegisterWrite vf off v s
  | .launchDescriptor vf ring readFails => Sys2Proof.Machine.execLaunchDescriptor vf ring readFails s
  | .placement part => Sys2Proof.Machine.execPlacement part s
  | .placementHold part => Sys2Proof.Machine.execPlacementHold part s
  | .balanceExhausted vf => Sys2Proof.Machine.execBalanceExhausted vf s
  | .periodStart => Sys2Proof.Machine.execPeriodStart s
  | .preEmption g => Sys2Proof.Machine.execPreEmption g s
  | .contextSave g => Sys2Proof.Machine.execContextSave g s
  | .restore g => Sys2Proof.Machine.execRestore g s
  | .vigilRefill g c tile => Sys2Proof.Machine.execVigilRefill g c tile s
  | .gangEnd g => Sys2Proof.Machine.execGangEnd g s
  | .completionRecord vf ring => Sys2Proof.Machine.execCompletionRecord vf ring s
  | .watchdog g => Sys2Proof.Machine.execWatchdog g s
  | .uncorrectableError st place => Sys2Proof.Machine.execUncorrectableError st place s
  | .correctedError at_ => Sys2Proof.Machine.execCorrectedError at_ s
  | .throttleStep r => Sys2Proof.Machine.execThrottleStep r s
  | .overTemperature => Sys2Proof.Machine.execOverTemperature s
  | .mcpFault => Sys2Proof.Machine.execMcpFault s
  | .setQuota cmd q borrow => Sys2Proof.Machine.execSetQuota cmd q borrow s
  | .setPriorityCap cmd cap => Sys2Proof.Machine.execSetPriorityCap cmd cap s
  | .setContextArea cmd base slots => Sys2Proof.Machine.execSetContextArea cmd base slots s
  | .setStage2Root cmd root => Sys2Proof.Machine.execSetStage2Root cmd root s
  | .setWayMask cmd m => Sys2Proof.Machine.execSetWayMask cmd m s
  | .wayRemovalComplete vf => Sys2Proof.Machine.execWayRemovalComplete vf s
  | .allotBlocks cmd watermark blocks => Sys2Proof.Machine.execAllotBlocks cmd watermark blocks s
  | .takeBackBlocks cmd watermark blocks => Sys2Proof.Machine.execTakeBackBlocks cmd watermark blocks s
  | .setDirtyLog cmd base lgsize => Sys2Proof.Machine.execSetDirtyLog cmd base lgsize s
  | .pause cmd => Sys2Proof.Machine.execPause cmd s
  | .pauseComplete vf => Sys2Proof.Machine.execPauseComplete vf s
  | .evict cmd => Sys2Proof.Machine.execEvict cmd s
  | .resume cmd => Sys2Proof.Machine.execResume cmd s
  | .discard cmd => Sys2Proof.Machine.execDiscard cmd s
  | .layout cmd tables approved => Sys2Proof.Machine.execLayout cmd tables approved s
  | .vfCreate cmd vf p => Sys2Proof.Machine.execVfCreate cmd vf p s
  | .vfDestroy cmd => Sys2Proof.Machine.execVfDestroy cmd s
  | .stage2Map cmd m => Sys2Proof.Machine.execStage2Map cmd m s
  | .stage2Unmap cmd ipa lgSize => Sys2Proof.Machine.execStage2Unmap cmd ipa lgSize s
  | .granuleZeroed granule => Sys2Proof.Machine.execGranuleZeroed granule s
  | .stage2Invalidate cmd ipa lgSize everything => Sys2Proof.Machine.execStage2Invalidate cmd ipa lgSize everything s
  | .setPeerAccept cmd part senders => Sys2Proof.Machine.execSetPeerAccept cmd part senders s
  | .setContextKeys cmd => Sys2Proof.Machine.execSetContextKeys cmd s
  | .pauseTimeout vf => Sys2Proof.Machine.execPauseTimeout vf s
  | .spdmRequest vf => Sys2Proof.Machine.execSpdmRequest vf s
  | .sessionKeyRenewal => Sys2Proof.Machine.execSessionKeyRenewal s
  | .tdispLock vf sessionOk => Sys2Proof.Machine.execTdispLock vf sessionOk s
  | .lockedVfChange vf => Sys2Proof.Machine.execLockedVfChange vf s
  | .firmwareUpdate img => Sys2Proof.Machine.execFirmwareUpdate img s
  | .securityVersionCommit => Sys2Proof.Machine.execSecurityVersionCommit s
  | .recovery img => Sys2Proof.Machine.execRecovery img s
  | .setPowerCap watts => Sys2Proof.Machine.execSetPowerCap watts s
  | .debugUnlock tokenOk => Sys2Proof.Machine.execDebugUnlock tokenOk s
  | .coldReset failedChannels failedPorts => Sys2Proof.Machine.execColdReset failedChannels failedPorts s
  | .hotReset failedPorts => Sys2Proof.Machine.execHotReset failedPorts s
  | .functionLevelReset vf => Sys2Proof.Machine.execFunctionLevelReset vf s
  | .runAheadFetch t => Sys2Proof.Machine.execRunAheadFetch t s
  | .sendFlit g c k ans => Sys2Proof.Machine.execSendFlit g c k ans s
  | .channelFailure channel => Sys2Proof.Machine.execChannelFailure channel s
  | .mcpRecovery => Sys2Proof.Machine.execMcpRecovery s
  | .dirtyLogConsumed vf n => Sys2Proof.Machine.execDirtyLogConsumed vf n s
  | .debtAtCap vf => Sys2Proof.Machine.execDebtAtCap vf s
  | .ringstatErrClear vf ring v => Sys2Proof.Machine.execRingstatErrClear vf ring v s
  | .debuggerArm => Sys2Proof.Machine.execDebuggerArm s

end Sys2Proof.Machine
end

