-- ==== Sys2Proof/Machine/Turn.lean ====
section
/-! DEFINITION. What the next move of the module is (log 1): the entry of the agenda, the time that passes before it, and what a
thread's turn executes: the pending wick event, the return of its wait, or the word at its program counter. -/

namespace Sys2Proof.Machine

/-- Rows of the table without a word that happen only as part of a thread's own step, never as a move of their own. -/
def threadOnly : Instr → Bool
  | .cpgo _ | .psstatRead _ | .illegalEncoding _ | .reservedFieldWord _ | .instructionFetchFault _ _ => true
  | _ => false

/-- Whether a row is an event that an agenda may name (log 1, log 13). -/
def isEvent (i : Instr) : Bool := (encode i).isNone && !threadOnly i

/-- The gang to whose thread or core an event belongs, for the events that only a running gang has (01 R22). -/
def eventGang : Instr → Option Nat
  | .fenceComplete t | .wfeWake t | .wfeTimeout t | .waitPoll t | .waitmemReturn t | .stripWReturn t | .cpdrainReturn t
  | .mwaitEnd t | .runAheadFetch t => some t.gang
  | .wickEvent g _ | .haltRetire g _ | .wjoinReturn g _ | .slotIssue g _ | .mquadRendezvous g _ | .jointStep g _
  | .stopEvent g .. | .barCompletion g .. | .blockDelivery g .. | .bcastReplay g .. => some g
  | _ => none

/-- Whether an event may happen: one that belongs to a gang only while the gang runs (01 R22, 18 R389). -/
def mayHappen (s : State) (i : Instr) : Bool := (eventGang i).all (enginesRun s)

/-- What a turn comes to. -/
inductive Act where
  /-- One row of the table happens in this state. -/
  | run (i : Instr) (s : State)
  /-- An event that the passing of time has made due happens. -/
  | due (d : Due) (s : State)
  /-- Nothing but the passing of time, or a wait that begins in the fetch. -/
  | stay (s : State)
  /-- The agenda names no event. -/
  | bad
  deriving DecidableEq, Repr

/-- The event by which a waiting thread's turn tests its wait again: none when only another agent can end it, or when the thread tries
its instruction again. -/
def waitEvent (s : State) (t : Tid) : Wait → Option Instr
  | .wfe since => if (s.thread t).event then some (.wfeWake t) else if s.ac - since ≥ 65536 then some (.wfeTimeout t) else none
  | .bar qd b _ => some (.barCompletion t.gang qd (if qd then t.core / 4 else t.core) b)
  | .step _ => some (.stepCompletion (s.partOf t.gang))
  | .word .. => some (.waitPoll t)
  | .stripW .. => some (.stripWReturn t)
  | .wjoin .. => some (.wjoinReturn t.gang t.core)
  | .cpdrain .. => some (.cpdrainReturn t)
  | .fence .. => some (.fenceComplete t)
  | .stop code => match t.who with | .wick w => some (.stopEvent t.gang t.core w code) | .taper => none
  | .halt => some (.haltRetire t.gang t.core)
  | .mwait _ => some (.mwaitEnd t)
  | .mquad .. => some (.mquadRendezvous t.gang (t.core / 4))
  | .joint _ => some (.jointStep t.gang (t.core / 4))
  | .page _ | .dirtyLog | .vmem | .bcast | .tile => none

/-- Whether a waiting thread's turn executes its instruction again (05 R114, 12 R277). -/
def Wait.retries : Wait → Bool
  | .bcast | .tile => true
  | _ => false

/-- A thread executes the row of a word; one that did not wait is progress of its gang (18 R395). -/
def runRow (s : State) (t : Tid) (wd : IWord) : Act :=
  .run (rowOf wd) (if (s.thread t).wait.isNone then s.progress t.gang else s)

/-- Whether a thread's instruction has issued and goes on (09 R224, 10 R249). -/
def issued (s : State) (t : Tid) : Bool :=
  match t.who with
  | .wick w => (s.wick t.gang t.core w).fetch.isSome || (s.wick t.gang t.core w).vmem.isSome
  | .taper => false

/-- A thread's next word starts if it may: a slot instruction when the slot chooses its wick, any other one when no load in flight holds it
back (05 R106, R107, R111). -/
def startWord (s : State) (t : Tid) (wd : IWord) : Act :=
  match t.who with
  | .wick w =>
    if slotWord wd then
      if slotChoice s t.gang t.core == some w then runRow (noteIssue s t w wd) t wd else .stay s
    else if mustWait s t wd then .stay s else runRow s t wd
  | .taper => if mustWait s t wd then .stay s else runRow s t wd

/-- A thread executes its next instruction, or the one that it has issued and that goes on. -/
def executeNext (s : State) (t : Tid) : Act :=
  match currentWord s t with
  | .word wd s => if issued s t then runRow s t wd else startWord s t wd
  | .fault c va => .run (.instructionFetchFault c va) s
  | .wait s => .stay s

/-- One turn of a thread (18 R386: a taper takes a pending wick event at its next instruction boundary, a wait included). -/
def threadTurn (s : State) (t : Tid) : Act :=
  let s := { s with cur := t }
  if !runnable s t then .stay s
  else if isTaper t && (pendingFault (s.core t.gang t.core)).isSome && !(s.core t.gang t.core).taper.act then
    .run (.wickEvent t.gang t.core) s
  else match (s.thread t).wait with
    | none => executeNext s t
    | some w =>
      if w == .vmem then .stay (answerVmem s t (·.room) false)
      else if w.retries then executeNext s t
      else match waitEvent s t w with
        | some e => .run e s
        | none => .stay s

/-- The thread that a turn with an empty agenda names: the current one, or, when that is a wick which waits for the slot, the wick that
the slot chooses (log 1). -/
def defaultThread (s : State) : Tid :=
  match s.cur.who with
  | .wick w =>
    if slotReady s s.cur.gang s.cur.core w then
      match slotChoice s s.cur.gang s.cur.core with
      | some k => { s.cur with who := .wick k }
      | none => s.cur
    else s.cur
  | .taper => s.cur

/-- The turn when the agenda is empty: one ac passes, the thread's queued accesses are performed and its core's tile fetch goes on to its
end, it acts (log 1). -/
def defaultTurn (s : State) : Turn :=
  let t := defaultThread s
  { ac := 1, perf := (s.thread t).pend.map fun _ => (t, 0), move := .thread t
    jobs := match (s.core t.gang t.core).job with | some j => List.replicate (j.depth / 16 + 1) (t.gang, t.core) | none => [] }

/-- Whether an event is a reset: all that a module that has stopped, or has not completed a reset, still answers to (12 R290,
19 R413, R414). -/
def isReset : Instr → Bool
  | .coldReset .. | .hotReset _ | .recovery _ | .debugUnlock _ => true
  | _ => false

/-- The move of a module that has stopped or has not completed a reset: no time passes, and only a reset happens (12 R290, 19 R413,
R414). -/
def stoppedMove (s : State) : Move → Act
  | .thread _ => .stay s
  | .event i => if !isEvent i then .bad else if isReset i then .run i s else .stay s

/-- The head of the agenda happens: the host's refusals and the devices that do not answer are as it says, its time passes, the buffers empty, its accesses are performed and
its tile fetches go on, and then its thread or event acts (log 1, log 3). -/
def takeTurn (s : State) (turn : Turn) : Act :=
  let s := elapse { s with denied := turn.denied.getD s.denied, silent := turn.silent.getD s.silent, late := turn.late, busy := turn.busy } turn.ac
  let s := if turn.ac == 0 then s else drainBuffers s
  let s := turn.perf.foldl (fun s (t, k) => performNth s t k) s
  let s := turn.jobs.foldl (fun s (g, c) => jobStep s g c) s
  match turn.move with
  | .thread t => threadTurn s t
  | .event i => if !isEvent i then .bad else if mayHappen s i then .run i s else .stay s

/-- The tokens that the placed gangs of a VF are charged in one ac (17 R370). -/
def vfRate (s : State) (vf : Nat) : Nat :=
  (s.gangs.map fun (_, G) => if G.placed && G.vf == vf then 4 * G.quads.length else 0).foldl (· + ·) 0

/-- The ac at which time makes an event due: a period's start, a watchdog, the end of a pause's limit, of a wait's, of a hold's (12 R294,
15 R341, 17 R370, 18 R391, R395, R397, 19 R401). -/
def dueTimes (s : State) : List Nat :=
  (s.periodAt + periodAc) ::
    (s.gangs.filterMap fun (_, G) => if G.life == .running then some (G.progressAt + watchdogAc) else none) ++
    (unitsHolding s).map (·.2 + watchdogAc) ++
    (s.vfs.filterMap fun (_, v) => pauseEnd s v) ++
    (waitsDue s).map (·.2) ++ (unitsDue s).map (·.2)

/-- The ac after which a VF that may draw has spent its balance, for each such VF (17 R371). -/
def spentAfter (s : State) : List Nat :=
  s.vfs.filterMap fun (k, v) => if 0 < vfRate s k && 0 < drawable s v then some (v.bal / vfRate s k + 1) else none

/-- The ac that pass at most before time makes an event due (log 1). -/
def roomAc (s : State) : Nat := (((dueTimes s).map (· - s.ac)) ++ spentAfter s).foldl min periodAc

/-- The ac of a turn that pass before an event falls due: the rest of the turn stays at the head of the agenda (log 1). -/
def passTime (s : State) (turn : Turn) : State :=
  drainBuffers (elapse { s with agenda := { turn with ac := turn.ac - roomAc s } :: s.agenda.tail } (roomAc s))

/-- The next move of the module: an event that is due; the ac before the next one that falls due within the head of the agenda; else that
head (log 1). -/
def nextMove (s : State) : Act :=
  let s := noteCandidates s
  let turn := s.agenda.head?.getD (defaultTurn s)
  let rest := { s with agenda := s.agenda.tail }
  if s.power.stopped || !s.ready then stoppedMove rest turn.move
  else match dueEvent s with
  | some d => .due d s
  | none => if turn.ac < roomAc s then takeTurn rest turn else .stay (passTime s turn)

end Sys2Proof.Machine
end

