-- ==== Sys2Proof/Machine/Place.lean ====
section
/-! DEFINITION. A machine in which one thread is about to execute a given word: what `State.withFetchWord` sets (log 5). -/

namespace Sys2Proof.Machine

/-- The physical address of the stage-2 root that withFetchWord writes, of the table below it, and of the word. -/
def placeRoot : Nat := 0x1000
/-- The level-1 stage-2 table of withFetchWord. -/
def placeTable : Nat := 0x2000
/-- Where withFetchWord puts the word: virtual, intermediate and physical address agree. -/
def placeWord : Nat := 0x10000

/-- A descriptor of one core and one stage at that entry address (17 R364). -/
def placeDesc : Desc := { Desc.zero with entry := BitVec.ofNat 64 placeWord, lg := 11 }

/-- Whether only a wick may execute an instruction: then the word is placed for a free-running wick (01 R15, R16). -/
def wickOnly (i : Instr) : Bool :=
  match encode i with
  | none => false
  | some w =>
    let m := (wordMajor w).toNat
    (0x22 ≤ m && m ≤ 0x2E) || m == 0x31 ||
    (match i with | .bfetch _ _ | .stop _ | .xlink _ _ | .xlinkV _ _ => true | _ => false)

/-- The gang that withFetchWord places: one core on physical core 0, its taper running at the word, its wick 0 free-running there. -/
def placeGang : Gang :=
  let W := { Wick.start with state := .freeRunning, th := { Thread.start with pc := BitVec.ofNat 64 placeWord } }
  let T := { Taper.start with run := .running, th := { Thread.start with pc := BitVec.ofNat 64 placeWord } }
  let C := { Core.start with taper := T, wicks := Core.start.wicks.set 0 W }
  { Gang.start with vf := 1, desc := placeDesc, quads := [0], cores := [(0, C)] }

/-- The VF of that gang: in partition 0, stage 1 not enabled, its stage-2 root in memory (09 R212). -/
def placeVf : Vf :=
  { Vf.new 0 Policy.open with part := 0, s2root := placeRoot, everRan := true, bal := 4 * periodAc, quota := 4 * periodAc, nextQuota := 4 * periodAc }

/-- A module whose next step executes `word` in `who` of that gang. -/
def placeState (s : State) (who : Who) (word : Nat) : State :=
  let base := s.coord.toNat * 2 ^ 46
  let m := memWrite s.mem (base + placeRoot) 8 (base + placeTable + 1)
  let m := memWrite m (base + placeTable) 8 (base + 0x173)
  { s with
    agenda := [], cur := { gang := s.nextGang, core := 0, who := who }, nextGang := s.nextGang + 1, periodAt := s.ac
    gangs := tabPut s.gangs s.nextGang { placeGang with progressAt := s.ac }
    vfs := tabPut s.vfs 1 { placeVf with s2root := base + placeRoot }
    parts := tabPut s.parts 0 (Part.new [0] [] [])
    pcores := tabPut s.pcores 0 PCore.reset, dieTlb := Vector.replicate 4 []
    mem := memWrite m (base + placeWord) 4 word }

/-- The module that executes a word next, by a taper, or by a wick when only a wick may execute it. -/
def placeFor (s : State) (word : Nat) : State :=
  match decode (BitVec.ofNat 32 word) with
  | .ok i => placeState s (if wickOnly i then .wick 0 else .taper) word
  | .error _ => placeState s .taper word

end Sys2Proof.Machine
end

