-- ==== Sys2Proof/Machine/Step.lean ====
section
/-! DEFINITION. One step of the module: its next move, and the meaning of the row that happens (log 1). -/

namespace Sys2Proof.Machine

/-- The event that the passing of time has made due (12 R294, 15 R341, 17 R371, R372, 18 R391, R395, R397, 19 R401). -/
def dueOutcome (d : Due) (s : State) : Host.Outcome State Fault Refusal :=
  match d with
  | .period => execPeriodStart s
  | .balance vf => execBalanceExhausted vf s
  | .watchdog g => execWatchdog g s
  | .pauseOver vf => execPauseTimeout vf s
  | .unit part => .next ((deviceFault s [part] .watchdog).modPart part fun p => { p with trippedAt := s.ac })
  | .wait t =>
    match (s.thread t).wait with
    | some (.wfe _) => execWfeTimeout t s
    | some (.word ..) => execWaitPoll t s
    | _ => .next s
  | .rows => execActivationCounterReset s
  | .held => execHeldRowServe s
  | .reply part => execRemoteReplyTimeout part s

/-- One step. -/
def step (s : State) : Host.Outcome State Fault Refusal :=
  match nextMove s with
  | .run i s' => exec i s'
  | .due d s' => dueOutcome d s'
  | .stay s' => .next s'
  | .bad => .fault .notAnEvent

/-- The module with one instruction, of at most one word, stored where its next step fetches (log 5). -/
def State.withFetchWord (s : State) (nbits w : Nat) : State := placeFor s (w % 2 ^ nbits % 2 ^ 32)

end Sys2Proof.Machine
end

