-- ==== Sys2Proof/Claims/Scalar.lean ====
section
/-! DEFINITION. What the rules of 04 and 08 give the scalar instructions, in integers and naturals: the functions that the statements
about them are made of. -/

namespace Sys2Proof.Claims

open Sys2Proof.Machine

/-- A byte that a read finds: its sector carries no poison, and the host does not refuse it (08 R209, 12 R275). -/
abbrev readable (s : State) (pa : Nat) : Prop := hostRefuses s pa = false ∧ poisoned s pa = false

/-- A register of the acting thread. -/
abbrev reg (s : State) (r : Reg) : Word := s.getX s.cur r

/-- The state in which the acting thread has written a register and moved on. -/
abbrev wrote (s : State) (d : Reg) (v : Word) : State := (s.setX s.cur d v).done s.cur

/-- The least set bit of a word; 64 when there is none. -/
def leastBit (a : Word) : Nat := ((List.range 64).find? fun k => a.getLsbD k).getD 64

/-- The destination and the result of the integer instructions (04 R90 to R93): sums, products and quotients are the exact integers,
modulo 2^64 or at the bounds that the rules name. -/
def intSpec (s : State) : Instr → Option (Reg × Word)
  | .add d a b => some (d, BitVec.ofInt 64 ((reg s a).toInt + (reg s b).toInt))
  | .sub d a b => some (d, BitVec.ofInt 64 ((reg s a).toInt - (reg s b).toInt))
  | .and d a b => some (d, BitVec.ofNat 64 ((reg s a).toNat &&& (reg s b).toNat))
  | .or d a b => some (d, BitVec.ofNat 64 ((reg s a).toNat ||| (reg s b).toNat))
  | .xor d a b => some (d, BitVec.ofNat 64 ((reg s a).toNat ^^^ (reg s b).toNat))
  | .sll d a b => some (d, BitVec.ofNat 64 ((reg s a).toNat * 2 ^ ((reg s b).toNat % 64)))
  | .srl d a b => some (d, BitVec.ofNat 64 ((reg s a).toNat / 2 ^ ((reg s b).toNat % 64)))
  | .sra d a b => some (d, BitVec.ofInt 64 ((reg s a).toInt / 2 ^ ((reg s b).toNat % 64)))
  | .slt d a b => some (d, if (reg s a).toInt < (reg s b).toInt then 1 else 0)
  | .sltu d a b => some (d, if (reg s a).toNat < (reg s b).toNat then 1 else 0)
  | .min d a b => some (d, BitVec.ofInt 64 (min (reg s a).toInt (reg s b).toInt))
  | .max d a b => some (d, BitVec.ofInt 64 (max (reg s a).toInt (reg s b).toInt))
  | .minu d a b => some (d, BitVec.ofNat 64 (min (reg s a).toNat (reg s b).toNat))
  | .maxu d a b => some (d, BitVec.ofNat 64 (max (reg s a).toNat (reg s b).toNat))
  | .mul d a b => some (d, BitVec.ofInt 64 ((reg s a).toInt * (reg s b).toInt))
  | .mulh d a b => some (d, BitVec.ofInt 64 ((reg s a).toInt * (reg s b).toInt / 2 ^ 64))
  | .mulhu d a b => some (d, BitVec.ofNat 64 ((reg s a).toNat * (reg s b).toNat / 2 ^ 64))
  | .div d a b =>
    some (d, if (reg s b).toInt = 0 then (if (reg s a).toInt < 0 then BitVec.ofInt 64 (-2 ^ 63) else BitVec.ofInt 64 (2 ^ 63 - 1))
      else BitVec.ofInt 64 (min ((reg s a).toInt.tdiv (reg s b).toInt) (2 ^ 63 - 1)))
  | .divu d a b => some (d, if (reg s b).toNat = 0 then BitVec.ofNat 64 (2 ^ 64 - 1) else BitVec.ofNat 64 ((reg s a).toNat / (reg s b).toNat))
  | .rem d a b => some (d, if (reg s b).toInt = 0 then reg s a else BitVec.ofInt 64 ((reg s a).toInt.tmod (reg s b).toInt))
  | .remu d a b => some (d, if (reg s b).toNat = 0 then reg s a else BitVec.ofNat 64 ((reg s a).toNat % (reg s b).toNat))
  | .clz d a => some (d, BitVec.ofNat 64 (if (reg s a).toNat = 0 then 64 else 63 - (reg s a).toNat.log2))
  | .ctz d a => some (d, BitVec.ofNat 64 (leastBit (reg s a)))
  | .cpop d a => some (d, BitVec.ofNat 64 ((List.range 64).countP fun k => (reg s a).getLsbD k))
  | .slli d a h g => some (d, BitVec.ofNat 64 ((reg s a).toNat * 2 ^ (32 * g.toNat + h.toNat)))
  | .srli d a h g => some (d, BitVec.ofNat 64 ((reg s a).toNat / 2 ^ (32 * g.toNat + h.toNat)))
  | .srai d a h g => some (d, BitVec.ofInt 64 ((reg s a).toInt / 2 ^ (32 * g.toNat + h.toNat)))
  | .addi d a i => some (d, BitVec.ofInt 64 ((reg s a).toInt + i.toInt))
  | .andi d a i => some (d, BitVec.ofNat 64 ((reg s a).toNat &&& i.toNat))
  | .ori d a i => some (d, BitVec.ofNat 64 ((reg s a).toNat ||| i.toNat))
  | .xori d a i => some (d, BitVec.ofNat 64 ((reg s a).toNat ^^^ i.toNat))
  | .slti d a i => some (d, if (reg s a).toInt < i.toInt then 1 else 0)
  | .sltiu d a i => some (d, if (reg s a).toNat < (BitVec.ofInt 64 i.toInt).toNat then 1 else 0)
  | .lui d i => some (d, BitVec.ofInt 64 (i.toInt * 65536))
  | .auipc d i => some (d, BitVec.ofInt 64 ((s.pcOf s.cur).toInt + i.toInt * 65536))
  | _ => none

/-- The condition and the word offset of the branches (04 R94). -/
def branchSpec (s : State) : Instr → Option (Bool × BitVec 16)
  | .beq a b o => some ((reg s a).toNat == (reg s b).toNat, o)
  | .bne a b o => some ((reg s a).toNat != (reg s b).toNat, o)
  | .blt a b o => some (decide ((reg s a).toInt < (reg s b).toInt), o)
  | .bge a b o => some (decide ((reg s b).toInt ≤ (reg s a).toInt), o)
  | .bltu a b o => some (decide ((reg s a).toNat < (reg s b).toNat), o)
  | .bgeu a b o => some (decide ((reg s b).toNat ≤ (reg s a).toNat), o)
  | _ => none

/-- PC plus four times a signed word offset (02 R35, 04 R94). -/
def pcPlus (s : State) (words : Int) : Word := BitVec.ofInt 64 ((s.pcOf s.cur).toInt + 4 * words)

/-- Destination, base, offset, bytes and sign extension of the scalar loads (04 R97). -/
def loadSpec : Instr → Option (Reg × Reg × BitVec 16 × Nat × Bool)
  | .lb d b i => some (d, b, i, 1, true)
  | .lbu d b i => some (d, b, i, 1, false)
  | .lh d b i => some (d, b, i, 2, true)
  | .lhu d b i => some (d, b, i, 2, false)
  | .lw d b i => some (d, b, i, 4, true)
  | .lwu d b i => some (d, b, i, 4, false)
  | .ld d b i => some (d, b, i, 8, false)
  | _ => none

/-- Data, base, offset and bytes of the scalar stores (04 R97). -/
def storeSpec : Instr → Option (Reg × Reg × BitVec 16 × Nat)
  | .sb t b i => some (t, b, i, 1)
  | .sh t b i => some (t, b, i, 2)
  | .sw t b i => some (t, b, i, 4)
  | .sd t b i => some (t, b, i, 8)
  | _ => none

/-- The effective address of a scalar access: X[base] + SignExt(imm16) (04 R97). -/
def effective (s : State) (b : Reg) (i : BitVec 16) : Word := BitVec.ofInt 64 ((reg s b).toInt + i.toInt)

/-- A value of `n` bytes widened to 64 bits. -/
def widen (n : Nat) (signed : Bool) (v : Nat) : Word :=
  if signed && 2 ^ (8 * n - 1) ≤ v then BitVec.ofInt 64 ((v : Int) - 2 ^ (8 * n)) else BitVec.ofNat 64 v

/-- A signed number of `n` bytes. -/
def signedOf (n : Nat) (v : Nat) : Int := if v % 2 ^ (8 * n) < 2 ^ (8 * n - 1) then (v % 2 ^ (8 * n) : Nat) else (v % 2 ^ (8 * n) : Nat) - 2 ^ (8 * n)

/-- An atomic form: destination, address, second source, scope, acquire, release, bytes, whether host memory has it, whether it may keep the
word, whether rd receives the old value sign-extended, and the new value from the old one, the second source and the destination register,
all as numbers of that many bytes; none where the word is not written (08 R206). -/
structure Amo where
  d : Reg
  a : Reg
  b : Reg
  scope : BitVec 3
  aq : Bool
  rl : Bool
  n : Nat
  host : Bool
  keeps : Bool
  signed : Bool
  new : Nat → Nat → Nat → Option Nat

/-- Bytes of the two widths (02 R42). -/
def widthOf (w : BitVec 1) : Nat := if w = 0 then 4 else 8

/-- The atomic forms but AMOFADD (08 R206, R209). -/
def amoSpec : Instr → Option Amo
  | .amoadd d a b c q r w => some ⟨d, a, b, c, q == 1, r == 1, widthOf w, true, false, true, fun o v _ => some (o + v)⟩
  | .amoswap d a b c q r w => some ⟨d, a, b, c, q == 1, r == 1, widthOf w, true, false, true, fun _ v _ => some v⟩
  | .amoand d a b c q r w => some ⟨d, a, b, c, q == 1, r == 1, widthOf w, false, false, true, fun o v _ => some (o &&& v)⟩
  | .amoor d a b c q r w => some ⟨d, a, b, c, q == 1, r == 1, widthOf w, false, false, true, fun o v _ => some (o ||| v)⟩
  | .amoxor d a b c q r w => some ⟨d, a, b, c, q == 1, r == 1, widthOf w, false, false, true, fun o v _ => some (o ^^^ v)⟩
  | .amomin d a b c q r w =>
    some ⟨d, a, b, c, q == 1, r == 1, widthOf w, false, false, true,
      fun o v _ => some (if signedOf (widthOf w) o < signedOf (widthOf w) v then o else v)⟩
  | .amomax d a b c q r w =>
    some ⟨d, a, b, c, q == 1, r == 1, widthOf w, false, false, true,
      fun o v _ => some (if signedOf (widthOf w) o < signedOf (widthOf w) v then v else o)⟩
  | .amominu d a b c q r w => some ⟨d, a, b, c, q == 1, r == 1, widthOf w, false, false, true, fun o v _ => some (min o v)⟩
  | .amomaxu d a b c q r w => some ⟨d, a, b, c, q == 1, r == 1, widthOf w, false, false, true, fun o v _ => some (max o v)⟩
  | .amocas d a b c q r w => some ⟨d, a, b, c, q == 1, r == 1, widthOf w, true, true, true, fun o v e => if o = e then some v else none⟩
  | _ => none

/-- Memory after an atomic form: the new value's bytes at the address, or nothing written. -/
def amoMemory (m : Mem) (pa n : Nat) : Option Nat → Mem
  | some v => memWriteBytes m pa (leBytes n v)
  | none => m

/-- The bytes that a thread's queued scalar stores hold for an address: that of the latest one which reaches it (14 R319). -/
def ownByte (q : List PendAccess) (a : Nat) : Option Byte :=
  q.reverse.findSome? fun p => if p.vector || p.load.isSome then none else (p.bytes.reverse.find? fun e => e.pa == a).map (·.val)

/-- A queue whose scalar stores carry whole bytes, as every scalar store does (04 R97). -/
def WholeBytes (q : List PendAccess) : Prop := ∀ p ∈ q, p.vector = false → ∀ e ∈ p.bytes, e.mask = 0xFF

/-- Whether a queued access carries a released mark that an acquire of `u` at a scope must see performed: the release's scope holds the
acquiring thread and the acquire's scope holds the releasing one (14 R311, R314). -/
def Due (s : State) (u v : Tid) (c : BitVec 3) (e : PendAccess) : Prop :=
  ∃ k, e.scope = some k ∧ inScope s k v u = true ∧ inScope s c u v = true

end Sys2Proof.Claims
end

