-- ==== Sys2Proof/Claims/Frame.lean ====
section
/-! DEFINITION. What an instruction may change: the shared shapes of the frames in the statements. -/

namespace Sys2Proof.Claims

open Sys2Proof.Machine

/-- Nothing but the named thread, its core's issue slot and the record of its gang's last progress differs: not memory, no VF, no
cache, no other thread, no tile, no barrier, no window, no channel. -/
def OnlyThread (u : Tid) (s t : State) : Prop :=
  t = { s with gangs := t.gangs } ∧
  (∀ g, g ≠ u.gang → tabGet? t.gangs g = tabGet? s.gangs g) ∧
  t.gang u.gang = { s.gang u.gang with cores := (t.gang u.gang).cores, progressAt := (t.gang u.gang).progressAt } ∧
  (∀ c, c ≠ u.core → tabGet? (t.gang u.gang).cores c = tabGet? (s.gang u.gang).cores c) ∧
  t.core u.gang u.core =
    { s.core u.gang u.core with
      taper := (t.core u.gang u.core).taper, wicks := (t.core u.gang u.core).wicks, issue := (t.core u.gang u.core).issue } ∧
  (u.who ≠ .taper → (t.core u.gang u.core).taper = (s.core u.gang u.core).taper) ∧
  (∀ w, u.who ≠ .wick w → t.wick u.gang u.core w = s.wick u.gang u.core w)

/-- Of the thread's own record and context only registers, sticky flags, program counter, wait, and the run state of a wick, with what it
keeps of the instruction that it waits in, differ. -/
def OnlyScalar (u : Tid) (s t : State) : Prop :=
  OnlyThread u s t ∧
  t.thread u =
    { s.thread u with
      x := (t.thread u).x, fflags := (t.thread u).fflags, pc := (t.thread u).pc, wait := (t.thread u).wait } ∧
  (u.who = .taper →
    (t.core u.gang u.core).taper = { (s.core u.gang u.core).taper with th := (t.core u.gang u.core).taper.th }) ∧
  (∀ w, u.who = .wick w →
    t.wick u.gang u.core w =
      { s.wick u.gang u.core w with
        th := (t.wick u.gang u.core w).th, state := (t.wick u.gang u.core w).state, queue := (t.wick u.gang u.core w).queue
        vmem := (t.wick u.gang u.core w).vmem, fetch := (t.wick u.gang u.core w).fetch })

/-- Every scalar register but one reads as before. -/
def OtherRegs (u : Tid) (d : Reg) (s t : State) : Prop := ∀ r, r ≠ d → t.getX u r = s.getX u r

/-- Every register reads as before. -/
def SameRegs (u : Tid) (s t : State) : Prop := ∀ r, t.getX u r = s.getX u r

/-- The sticky flags of a thread are as before. -/
def SameFlags (u : Tid) (s t : State) : Prop := (t.thread u).fflags = (s.thread u).fflags

/-- Every byte of memory outside `n` bytes from `a` is as before. -/
def SameMemOutside (a n : Nat) (s t : State) : Prop := ∀ b, b < a ∨ a + n ≤ b → memByte t.mem b = memByte s.mem b

/-- The thread has completed its instruction as `done` says of the state before it: its program counter, its wait, and for a wick its
run state and its blocks. -/
def MovedOn (u : Tid) (s t : State) : Prop :=
  (t.thread u).pc = ((s.done u).thread u).pc ∧ (t.thread u).wait = none ∧
  ∀ w, u.who = .wick w →
    (t.wick u.gang u.core w).state = ((s.done u).wick u.gang u.core w).state ∧
    (t.wick u.gang u.core w).queue = ((s.done u).wick u.gang u.core w).queue

/-- A destination register holds a value, or is x0 and reads zero. -/
def Holds (u : Tid) (t : State) (d : Reg) (v : Word) : Prop := t.getX u d = if d = 0 then 0 else v

end Sys2Proof.Claims
end

