-- ==== Sys2Proof/Claims/Float.lean ====
section
/-! DEFINITION. What the rules of 03 and 04 give floating point, over integers: the functions that the statements about it are made
of. -/

namespace Sys2Proof.Claims

open Sys2Proof.Machine

/-- The operation of an SFP form that rounds its exact result to F32: destination, rounding code, and the exact result with the flags
that its operands raise (04 R102, R104). -/
def roundedSpec (s : State) : Instr → Option (Reg × BitVec 3 × (Mode → FVal × FlagSet))
  | .fadd d a b m => some (d, m, fun md => addExact md (single s a) (single s b))
  | .fsub d a b m => some (d, m, fun md => addExact md (single s a) (single s b).negate)
  | .fmul d a b m => some (d, m, fun _ => mulExact (single s a) (single s b))
  | .fdiv d a b m => some (d, m, fun _ => divExact (single s a) (single s b))
  | .fma d a b m => some (d, m, fun md => fmaExact md (single s a) (single s b) (single s d))
  | .fcvtF d a m => some (d, m, fun _ => (ofInt (reg s a).toInt, 0))
  | _ => none
where
  /-- The F32 value in bits 31:0 of a register. -/
  single (s : State) (r : Reg) : FVal := decodeFloat fmtF32 ((reg s r).toNat % 2 ^ 32)

/-- The rounding code that an SFP form comes to: its own, or that of vtype (02 R43). -/
def sfpCode (s : State) (m : BitVec 3) : BitVec 3 := if m = 7 then (s.thread s.cur).vtype.extractLsb' 4 3 else m

/-- The scalar draw: 16 bits of the generator's word at rctr, domain 2 (03 R79). -/
def scalarDraw (s : State) : Nat :=
  (drawWord (s.thread s.cur).rctr 2 (s.thread s.cur).rkey0 (s.thread s.cur).rkey1).toNat % 2 ^ 16

/-- The rounding mode of an SFP form, and the state after its draw (03 R79). -/
def sfpModeSpec (s : State) (m : BitVec 3) : Mode × State :=
  if sfpCode s m = 5 then
    (.stochastic (scalarDraw s), s.modThread s.cur fun th => { th with rctr := th.rctr + 1 })
  else (modeOf (sfpCode s m) 0, s)

/-- Whether F32 bits are a NaN: the exponent all ones and the mantissa not zero (03 R61). -/
def nan32 (v : Nat) : Bool := 0x7F800000 < v % 2 ^ 31
/-- Whether they are a signalling NaN: the leading mantissa bit is 0 (03 R62). -/
def snan32 (v : Nat) : Bool := nan32 v && v / 2 ^ 22 % 2 == 0
/-- The place of F32 bits that are no NaN in the order of their values: the two zeros share a place. -/
def key32 (v : Nat) : Int := if v / 2 ^ 31 % 2 = 1 then -(v % 2 ^ 31 : Nat) else (v % 2 ^ 31 : Nat)

/-- The truth and the NV of a comparison (04 R105). -/
def cmp32 (cond x y : Nat) : Bool × Bool :=
  let nan := nan32 x || nan32 y
  let sig := snan32 x || snan32 y
  match cond with
  | 0 => (!nan && key32 x == key32 y, sig)
  | 1 => (!nan && key32 x < key32 y, nan)
  | 2 => (!nan && key32 x ≤ key32 y, nan)
  | _ => (nan, sig)

/-- Whether x is ordered below y, -0 below +0 (04 R103). -/
def below32 (x y : Nat) : Bool := key32 x < key32 y || (key32 x == 0 && key32 y == 0 && x / 2 ^ 31 % 2 == 1 && y / 2 ^ 31 % 2 == 0)

/-- The lesser or the greater of two F32 values (04 R103). -/
def minMax32 (wantMax : Bool) (x y : Nat) : Nat :=
  if nan32 x && nan32 y then 0x7FC00000
  else if nan32 x then y
  else if nan32 y then x
  else if wantMax then (if below32 x y then y else x) else (if below32 y x then y else x)

/-- NV where a condition holds (03 R72). -/
def nvIf (b : Bool) : BitVec 7 := if b then 16 else 0

/-- The value of a format's largest finite magnitude in units of its smallest subnormal (03 R61). -/
def maxUnits (f : FloatFmt) : Nat :=
  match decodeFloat f f.maxBits with
  | .fin _ m e => m * 2 ^ (e - (1 - (f.bias : Int) - f.mbits)).toNat
  | _ => 0

/-- The floating formats (03 R61). -/
def floatFmts : List FloatFmt := [fmtF32, fmtBF16, fmtFP16, fmtE4M3, fmtE5M2, fmtE3M2, fmtE2M3, fmtE2M1]

end Sys2Proof.Claims
end

