-- ==== Sys2Proof/Claims/Lanes.lean ====
section
/-! DEFINITION. What the rules of 07 give each element of the lane forms, as tables over the instructions, and the shared shape of a
sweep's effect (R155 to R174). -/

namespace Sys2Proof.Claims

open Sys2Proof.Machine

/-- Operand b of a lane form: none, an x register, a vector group. -/
inductive Src where
  | none | scalar (x : Reg) | vector (v : Reg)
  deriving DecidableEq, Repr

/-- Operand b by its kind bit (02 R42). -/
def srcOf (k : BitVec 1) (b : Reg) : Src := if k = 1 then .scalar b else .vector b

/-- A lane form: destination, operand a (the destination again where there is none), operand b, the mask that governs activity, whether
its checks hold, whether it advances rctr past its positions (03 R79), and its element's value and flags from the position, a, b and the old
destination element. -/
structure Lane where
  d : Reg
  a : Reg
  b : Src
  m : BitVec 3
  legal : Bool
  draws : Bool
  f : Nat → Nat → Nat → Nat → Flagged

/-- Element `e` of register `n` at the element width (03 R60). -/
def cell (W : Wick) (n e : Nat) : Nat := elemAt (W.reg n) W.esize e

/-- Element (r, e) of operand b. -/
def srcCell (s : State) (W : Wick) (gb : List Nat) (r e : Nat) : Src → Nat
  | .none => 0
  | .scalar x => (reg s x).toNat % 2 ^ W.esize
  | .vector _ => cell W (gb.getD r 0) e

/-- The registers of operand b: none but for a vector one, whose group is aligned. -/
def srcGroup (W : Wick) (gb : List Nat) : Src → Prop
  | .vector v => W.group? v = some gb
  | _ => gb = []

/-- Whether a sweep acts on a position (02 R51, 06 R138). -/
def acts (W : Wick) (m : BitVec 3) (p : Nat) : Bool := W.vstart.toNat ≤ p && (m == 0 || (W.mask m.toNat).getLsbD p)

/-- A signed number of width w, modulo 2^w. -/
def modW (w : Nat) (v : Int) : Nat := (v % 2 ^ w).toNat
/-- A signed result that saturates to w bits, with SAT (07 R161, 03 R71). -/
def clampS (w : Nat) (v : Int) : Flagged :=
  if v < -2 ^ (w - 1) then (2 ^ (w - 1), 32) else if 2 ^ (w - 1) ≤ v then (2 ^ (w - 1) - 1, 32) else (modW w v, 0)
/-- An unsigned result that saturates to w bits, with SAT. -/
def clampU (w : Nat) (v : Int) : Flagged :=
  if v < 0 then (0, 32) else if 2 ^ w ≤ v then (2 ^ w - 1, 32) else (v.toNat, 0)

/-- The element function of the integer forms (07 R161), by width. -/
def vintSpec : Instr → Option (Reg × Reg × Reg × BitVec 3 × BitVec 1 × (Nat → Nat → Nat → Nat → Flagged))
  | .vadd d a b m k => some (d, a, b, m, k, fun w x y _ => ((x + y) % 2 ^ w, 0))
  | .vsub d a b m k => some (d, a, b, m, k, fun w x y _ => ((x + 2 ^ w - y) % 2 ^ w, 0))
  | .vrsub d a b m k => some (d, a, b, m, k, fun w x y _ => ((y + 2 ^ w - x) % 2 ^ w, 0))
  | .vmul d a b m k => some (d, a, b, m, k, fun w x y _ => (x * y % 2 ^ w, 0))
  | .vmulh d a b m k => some (d, a, b, m, k, fun w x y _ => (modW w (toSigned w x * toSigned w y / 2 ^ w), 0))
  | .vmulhu d a b m k => some (d, a, b, m, k, fun w x y _ => (x * y / 2 ^ w, 0))
  | .vdiv d a b m k =>
    some (d, a, b, m, k, fun w x y _ =>
      (if y = 0 then (if 0 ≤ toSigned w x then 2 ^ (w - 1) - 1 else 2 ^ (w - 1))
       else modW w (min ((toSigned w x).tdiv (toSigned w y)) (2 ^ (w - 1) - 1)), 0))
  | .vrem d a b m k =>
    some (d, a, b, m, k, fun w x y _ => (if y = 0 then x else modW w ((toSigned w x).tmod (toSigned w y)), 0))
  | .vmin d a b m k => some (d, a, b, m, k, fun w x y _ => (if toSigned w x ≤ toSigned w y then x else y, 0))
  | .vmax d a b m k => some (d, a, b, m, k, fun w x y _ => (if toSigned w x ≤ toSigned w y then y else x, 0))
  | .vminu d a b m k => some (d, a, b, m, k, fun _ x y _ => (if x ≤ y then x else y, 0))
  | .vmaxu d a b m k => some (d, a, b, m, k, fun _ x y _ => (if x ≤ y then y else x, 0))
  | .vsll d a b m k => some (d, a, b, m, k, fun w x y _ => (x * 2 ^ (y % w) % 2 ^ w, 0))
  | .vsrl d a b m k => some (d, a, b, m, k, fun w x y _ => (x / 2 ^ (y % w), 0))
  | .vsra d a b m k => some (d, a, b, m, k, fun w x y _ => (modW w (toSigned w x / 2 ^ (y % w)), 0))
  | .vsadd d a b m k => some (d, a, b, m, k, fun w x y _ => clampS w (toSigned w x + toSigned w y))
  | .vssub d a b m k => some (d, a, b, m, k, fun w x y _ => clampS w (toSigned w x - toSigned w y))
  | .vsaddu d a b m k => some (d, a, b, m, k, fun w x y _ => clampU w (x + y))
  | .vssubu d a b m k => some (d, a, b, m, k, fun w x y _ => clampU w ((x : Int) - y))
  | .vmacc d a b m k => some (d, a, b, m, k, fun w x y c => ((c + x * y) % 2 ^ w, 0))
  | .vnmsac d a b m k => some (d, a, b, m, k, fun w x y c => (modW w ((c : Int) - x * y), 0))
  | _ => none

/-- The element function of the bitwise forms and moves (07 R161, R162). -/
def vbitSpec : Instr → Option (Reg × Reg × Reg × BitVec 3 × BitVec 1 × (Nat → Nat → Nat))
  | .vand d a b m k => some (d, a, b, m, k, fun x y => x &&& y)
  | .vor d a b m k => some (d, a, b, m, k, fun x y => x ||| y)
  | .vxor d a b m k => some (d, a, b, m, k, fun x y => x ^^^ y)
  | .vmv d b m k => some (d, d, b, m, k, fun _ y => y)
  | _ => none

/-- The floating forms that round an exact result once (07 R169): operands, and the exact result with the flags of its operands. -/
def vroundSpec : Instr → Option (Reg × Reg × Src × BitVec 3 × (Mode → FVal → FVal → FVal → FVal × FlagSet))
  | .vfadd d a b m k => some (d, a, srcOf k b, m, fun md x y _ => addExact md x y)
  | .vfsub d a b m k => some (d, a, srcOf k b, m, fun md x y _ => addExact md x y.negate)
  | .vfmul d a b m k => some (d, a, srcOf k b, m, fun _ x y _ => mulExact x y)
  | .vfdiv d a b m k => some (d, a, srcOf k b, m, fun _ x y _ => divExact x y)
  | .vfsqrt d a m => some (d, a, .none, m, fun _ x _ _ => sqrtExact x)
  | .vfma d a b m k => some (d, a, srcOf k b, m, fmaExact)
  | .vfms d a b m k => some (d, a, srcOf k b, m, fun md x y c => fmaExact md x y c.negate)
  | .vfnma d a b m k => some (d, a, srcOf k b, m, fun md x y c => fmaExact md x.negate y c)
  | _ => none

/-- The sign bit of a float's bits, and its bits without it. -/
def signBit (f : FloatFmt) (x : Nat) : Nat := x / 2 ^ (f.width - 1) % 2
/-- A float's bits without the sign. -/
def magBits (f : FloatFmt) (x : Nat) : Nat := x % 2 ^ (f.width - 1)

/-- The floating forms that copy or classify bits, and the special functions (07 R169, R172, R173). -/
def vfbitSpec (W : Wick) : Instr → Option (Reg × Reg × Src × BitVec 3 × (Nat → Nat → Flagged))
  | .vfmin d a b m k => some (d, a, srcOf k b, m, minMaxBits (floatOf W.et) false)
  | .vfmax d a b m k => some (d, a, srcOf k b, m, minMaxBits (floatOf W.et) true)
  | .vfsgnj d a b m k =>
    some (d, a, srcOf k b, m, fun x y => (magBits (floatOf W.et) x + signBit (floatOf W.et) y * 2 ^ ((floatOf W.et).width - 1), 0))
  | .vfsgnjN d a b m k =>
    some (d, a, srcOf k b, m, fun x y => (magBits (floatOf W.et) x + (1 - signBit (floatOf W.et) y) * 2 ^ ((floatOf W.et).width - 1), 0))
  | .vfsgnjX d a b m k =>
    some (d, a, srcOf k b, m, fun x y =>
      (magBits (floatOf W.et) x + (signBit (floatOf W.et) x + signBit (floatOf W.et) y) % 2 * 2 ^ ((floatOf W.et).width - 1), 0))
  | .vfclass d a m => some (d, a, .none, m, fun x _ => (2 * classOf (floatOf W.et) x + signBit (floatOf W.et) x, 0))
  | .vfexp2 d a m => some (d, a, .none, m, fun x _ => specialResult W.et exp2Val x)
  | .vflog2 d a m => some (d, a, .none, m, fun x _ => specialResult W.et log2Val x)
  | .vfrcp d a m => some (d, a, .none, m, fun x _ => specialResult W.et rcpVal x)
  | .vfrsqrt d a m => some (d, a, .none, m, fun x _ => specialResult W.et rsqrtVal x)
  | .vftanh d a m => some (d, a, .none, m, fun x _ => specialResult W.et tanhVal x)
  | _ => none

/-- The same-width conversions: source and destination format by width and layout (07 R171). -/
def vcvtSpec (W : Wick) : Instr → Option (Reg × Reg × BitVec 3 × NumFmt × NumFmt)
  | .vfcvtXf d a m => some (d, a, m, .float (floatOf W.et), .int W.esize true)
  | .vfcvtXuf d a m => some (d, a, m, .float (floatOf W.et), .int W.esize false)
  | .vfcvtFx d a m => some (d, a, m, .int W.esize true, .float (floatOf W.et))
  | .vfcvtFxu d a m => some (d, a, m, .int W.esize false, .float (floatOf W.et))
  | _ => none

/-- A lane form of any of the groups above, VMERGE, VID and VRAND (07 R161 to R174, R181). -/
def laneSpec (s : State) (W : Wick) (i : Instr) : Option Lane :=
  match vintSpec i, vbitSpec i, vroundSpec i, vfbitSpec W i, vcvtSpec W i, i with
  | some (d, a, b, m, k, f), _, _, _, _, _ =>
    some { d := d, a := a, b := srcOf k b, m := m, legal := isIntEt W.et && W.maskFits m, draws := false, f := fun _ => f W.esize }
  | _, some (d, a, b, m, k, f), _, _, _, _ =>
    some { d := d, a := a, b := srcOf k b, m := m, legal := W.maskFits m, draws := false, f := fun _ x y _ => (f x y, 0) }
  | _, _, some (d, a, b, m, f), _, _, _ =>
    some { d := d, a := a, b := b, m := m, legal := isFloatEt W.et && W.maskFits m, draws := W.th.rm == 5
           f := fun p x y c =>
             let v := f (laneMode W.th p) (decodeFloat (floatOf W.et) x) (decodeFloat (floatOf W.et) y) (decodeFloat (floatOf W.et) c)
             ((roundTo (floatOf W.et) (laneMode W.th p) v.1).1, v.2 ||| (roundTo (floatOf W.et) (laneMode W.th p) v.1).2) }
  | _, _, _, some (d, a, b, m, f), _, _ =>
    some { d := d, a := a, b := b, m := m, legal := isFloatEt W.et && W.maskFits m, draws := false, f := fun _ x y _ => f x y }
  | _, _, _, _, some (d, a, m, src, dst), _ =>
    some { d := d, a := a, b := .none, m := m, legal := isFloatEt W.et && W.maskFits m, draws := W.th.rm == 5
           f := fun p x _ _ => convert src dst (laneMode W.th p) x }
  | _, _, _, _, _, .vmerge d a b m k =>
    some { d := d, a := a, b := srcOf k b, m := 0, legal := m != 0 && W.maskFits m, draws := false
           f := fun p x y _ => (if (W.mask m.toNat).getLsbD p then y else x, 0) }
  | _, _, _, _, _, .vid d b m k =>
    some { d := d, a := d, b := .none, m := m, legal := isIntEt W.et && W.maskFits m, draws := false
           f := fun p _ _ _ => (((if k = 1 then (reg s b).toNat else 0) + p) % 2 ^ W.esize, 0) }
  | _, _, _, _, _, .vrand d m =>
    some { d := d, a := d, b := .none, m := m, legal := W.maskFits m, draws := true
           f := fun p _ _ _ =>
             ((drawWord (W.th.rctr + BitVec.ofNat 64 p) 0 W.th.rkey0 W.th.rkey1).toNat % 2 ^ W.esize, 0) }
  | _, _, _, _, _, _ => none

/-- A sweep's effect on its wick (07 R157): `val` gives each active position's value and flags, or none where it writes nothing. `S` and `T`
are the wick before and after, `gd` the destination registers, `w` the width, `n` the elements of each row, `cap` where the tail ends. -/
structure Swept (S T : Wick) (gd : List Nat) (m : BitVec 3) (val : Nat → Nat → Option Flagged) : Prop where
  element : ∀ r e, r < gd.length → e < S.vl.toNat →
    cell T (gd.getD r 0) e =
      match (if acts S m (r * S.vl.toNat + e) then val r e else none) with
      | some v => v.1 % 2 ^ S.esize
      | none => cell S (gd.getD r 0) e
  tail : ∀ r e, r < gd.length → S.vl.toNat ≤ e → e < S.cap → cell T (gd.getD r 0) e = if S.ta then 0 else cell S (gd.getD r 0) e
  others : ∀ n, n ∉ gd → T.reg n = S.reg n
  flags : ∀ k, bitOf T.th.fflags k = true ↔ bitOf S.th.fflags k = true ∨
    ∃ r e v, r < gd.length ∧ e < S.vl.toNat ∧ acts S m (r * S.vl.toNat + e) = true ∧ val r e = some v ∧ bitOf v.2 k = true
  start : T.vstart = 0
  masks : T.masks = S.masks
  shape : T.vl = S.vl ∧ T.vrows = S.vrows ∧ T.th.vtype = S.th.vtype ∧ T.split = S.split

/-- A compare form (07 R164, R170): mask register, operands, governing mask, whether its checks hold, and the condition with its flags. -/
def compareSpec (W : Wick) : Instr → Option (Reg × Reg × Src × BitVec 3 × Bool × (Nat → Nat → Bool × FlagSet))
  | .vcmp d a b m k c =>
    some (d, a, srcOf k b, m, isIntEt W.et, fun x y =>
      (match c.toNat with
        | 0 => x == y | 1 => x != y | 2 => decide (toSigned W.esize x < toSigned W.esize y) | 3 => decide (x < y)
        | 4 => decide (toSigned W.esize x ≤ toSigned W.esize y) | 5 => decide (x ≤ y)
        | 6 => decide (toSigned W.esize y < toSigned W.esize x) | _ => decide (y < x), 0))
  | .vfcmp d a b m k c => some (d, a, srcOf k b, m, isFloatEt W.et, fun x y => compareBits (floatOf W.et) c.toNat x y)
  | _ => none

/-- Element `j` of register `n` at twice the element width (07 R165). -/
def wcell (W : Wick) (n j : Nat) : Nat := elemAt (W.reg n) (2 * W.esize) j

/-- The widening forms (07 R166, R171): operands, the types they take, and the wide element from a, b and the old wide element. -/
def wideSpec (W : Wick) : Instr → Option (Reg × Reg × Src × BitVec 3 × Bool × (Nat → Nat → Nat → Flagged))
  | .vwadd d a b m k =>
    some (d, a, srcOf k b, m, isNarrowEt W.et, fun x y _ => (modW (2 * W.esize) (toSigned W.esize x + toSigned W.esize y), 0))
  | .vwmul d a b m k =>
    some (d, a, srcOf k b, m, isNarrowEt W.et, fun x y _ => (modW (2 * W.esize) (toSigned W.esize x * toSigned W.esize y), 0))
  | .vwmacc d a b m k =>
    some (d, a, srcOf k b, m, isNarrowEt W.et, fun x y c => (modW (2 * W.esize) (c + toSigned W.esize x * toSigned W.esize y), 0))
  | .vwmaccu d a b m k => some (d, a, srcOf k b, m, isNarrowEt W.et, fun x y c => ((c + x * y) % 2 ^ (2 * W.esize), 0))
  | .vwmaccsu d a b m k =>
    some (d, a, srcOf k b, m, isNarrowEt W.et, fun x y c => (modW (2 * W.esize) (c + toSigned W.esize x * y), 0))
  | .vfcvtFw d a m => some (d, a, .none, m, W.et == 6, fun x _ _ => convert (.float fmtBF16) (.float fmtF32) .rne x)
  | _ => none

/-- A widening form's effect (07 R165): `val` gives the wide value and the flags of each narrow position. -/
structure SweptWide (S T : Wick) (gd : List Nat) (m : BitVec 3) (val : Nat → Nat → Flagged) : Prop where
  element : ∀ r e, r < S.nrows → e < S.vl.toNat →
    wcell T (gd.getD (2 * r + e / (S.cap / 2)) 0) (e % (S.cap / 2)) =
      if acts S m (r * S.vl.toNat + e) then (val r e).1 % 2 ^ (2 * S.esize)
      else wcell S (gd.getD (2 * r + e / (S.cap / 2)) 0) (e % (S.cap / 2))
  evenTail : ∀ r j, r < S.nrows → min S.vl.toNat (S.cap / 2) ≤ j → j < S.cap / 2 →
    wcell T (gd.getD (2 * r) 0) j = if S.ta then 0 else wcell S (gd.getD (2 * r) 0) j
  oddTail : ∀ r j, r < S.nrows → S.vl.toNat - S.cap / 2 ≤ j → j < S.cap / 2 →
    wcell T (gd.getD (2 * r + 1) 0) j = if S.ta then 0 else wcell S (gd.getD (2 * r + 1) 0) j
  others : ∀ n, n ∉ gd → T.reg n = S.reg n
  flags : ∀ k, bitOf T.th.fflags k = true ↔ bitOf S.th.fflags k = true ∨
    ∃ r e, r < S.nrows ∧ e < S.vl.toNat ∧ acts S m (r * S.vl.toNat + e) = true ∧ bitOf (val r e).2 k = true
  start : T.vstart = 0
  masks : T.masks = S.masks
  shape : T.vl = S.vl ∧ T.vrows = S.vrows ∧ T.th.vtype = S.th.vtype ∧ T.split = S.split

/-- The narrowing forms (07 R167, R171): operands, the types they take, and the narrow element from the position, the wide element and
b. -/
def narrowSpec (W : Wick) : Instr → Option (Reg × Reg × Src × BitVec 3 × Bool × (Nat → Nat → Nat → Flagged))
  | .vnclip d a b m k =>
    some (d, a, srcOf k b, m, isNarrowEt W.et, fun p x y =>
      let A := toSigned (2 * W.esize) x
      let q := (roundAt (laneMode W.th p) (A < 0) A.natAbs (-(y % (2 * W.esize) : Nat)) 0).1
      clampS W.esize (if A < 0 then -(q : Int) else q))
  | .vnclipu d a b m k =>
    some (d, a, srcOf k b, m, isNarrowEt W.et, fun p x y =>
      clampU W.esize (roundAt (laneMode W.th p) false x (-(y % (2 * W.esize) : Nat)) 0).1)
  | .vfcvtFn d a m => some (d, a, .none, m, W.et == 6, fun p x _ => convert (.float fmtF32) (.float fmtBF16) (laneMode W.th p) x)
  | _ => none

/-- The active positions of a sweep, ascending. -/
def actives (W : Wick) (m : BitVec 3) : List Nat := (List.range (W.nrows * W.vl.toNat)).filter (acts W m)

/-- Node `j` of level `k` of the pairwise tree over elements by position: nodes 2j and 2j + 1 of the level below combine, a node alone
passes up (03 R76). Its value, and the flags of the additions below it. -/
def treeNode (add : Nat → Nat → Flagged) (leaf : Nat → Option Nat) : Nat → Nat → Option Flagged
  | 0, j => (leaf j).map fun v => (v, 0)
  | k + 1, j =>
    match treeNode add leaf k (2 * j), treeNode add leaf k (2 * j + 1) with
    | some x, some y => some ((add x.1 y.1).1, x.2 ||| y.2 ||| (add x.1 y.1).2)
    | some x, none => some x
    | none, y => y

/-- The slides and the gather (07 R177, R179): operands, mask, and what each element receives from the group a as read, given the row's
argument; none leaves it unwritten. -/
def slideSpec (W : Wick) : Instr → Option (Reg × Reg × Reg × BitVec 3 × BitVec 1 × (Nat → (Nat → Nat) → Nat → Option Nat))
  | .vslideup d a b m k => some (d, a, b, m, k, fun dist row e => if dist ≤ e then some (row (e - dist)) else none)
  | .vslidedn d a b m k =>
    some (d, a, b, m, k, fun dist row e => some (if e + dist < W.vl.toNat then row (e + dist) else row (W.vl.toNat - 1)))
  | .vslide1 d a b m k =>
    some (d, a, b, m, k, fun ins row e => some (if e + 1 < W.vl.toNat then row (e + 1) else ins % 2 ^ W.esize))
  | _ => none

/-- The logical mask forms (07 R184). -/
def maskSpec : Instr → Option (Reg × Reg × Reg × (Bool → Bool → Bool))
  | .mand d a b => some (d, a, b, fun x y => x && y)
  | .mor d a b => some (d, a, b, fun x y => x || y)
  | .mxor d a b => some (d, a, b, fun x y => x != y)
  | .mandn d a b => some (d, a, b, fun x y => x && !y)
  | _ => none

/-- A field that names a mask register, m1 to m7 (07 R160). -/
def namesMask (r : Reg) : Prop := 1 ≤ r.toNat ∧ r.toNat ≤ 7

end Sys2Proof.Claims
end

