-- ==== Sys2Proof/Claims/MemoryForms.lean ====
section
/-! DEFINITION. What 08 R188 to R204 give the vector loads and stores: their addresses and operands as a table, the accesses that one
cached translation serves, and their effects. -/

namespace Sys2Proof.Claims

open Sys2Proof.Machine

/-- A vector memory form without MX scales: load or store, data field, base field, memory format, fields of a record, index group, whether
the checks of R194 on formats and masks hold, the bit address of a field of (r, e) besides the base (the index given), and which
positions are active. -/
structure MemForm where
  load : Bool
  d : Reg
  b : Reg
  mf : Reg
  nf : Nat
  idx : Option Reg
  legal : Bool
  addr : (Nat → Nat → Nat) → Nat → Nat → Nat → Int
  act : Nat → Bool

/-- The start of a row: `x` for a base in an x register, else r strides of the address pointer (08 R192). -/
def rowStart (W : Wick) (b : Reg) (r : Nat) (x : Int) : Int :=
  if b.toNat < 28 then x else 8 * (r * (W.apStride[fin4 b.toNat]).toInt)

/-- Whether a memory format pairs with the element type (03 R65). -/
def pairs (W : Wick) (mf : Reg) : Bool := !(5 ≤ mf.toNat && mf.toNat ≤ 15 && isIntEt W.et)

/-- Whether a memory format is one of the MX formats (03 R64). -/
def mxFormat (mf : Reg) : Bool := 13 ≤ mf.toNat && mf.toNat ≤ 15

/-- The vector memory forms without a scale (08 R192 to R194, R199, R201). -/
def memForm (s : State) (W : Wick) : Instr → Option MemForm
  | .vld d b _ k mf =>
    some { load := true, d := d, b := b, mf := mf, nf := 1, idx := none, legal := pairs W mf && W.maskFits k && !mxFormat mf
           addr := fun _ r e _ => rowStart W b r (r * W.vl.toNat * memBits W mf) + e * memBits W mf, act := acts W k }
  | .vst d b _ k mf =>
    some { load := false, d := d, b := b, mf := mf, nf := 1, idx := none, legal := pairs W mf && W.maskFits k && !mxFormat mf
           addr := fun _ r e _ => rowStart W b r (r * W.vl.toNat * memBits W mf) + e * memBits W mf, act := acts W k }
  | .vldff d b k mf =>
    some { load := true, d := d, b := b, mf := mf, nf := 1, idx := none, legal := pairs W mf && W.maskFits k && !mxFormat mf && k != 0
           addr := fun _ r e _ => rowStart W b r (r * W.vl.toNat * memBits W mf) + e * memBits W mf, act := acts W k }
  | .vlds d b x k mf =>
    some { load := true, d := d, b := b, mf := mf, nf := 1, idx := none
           legal := pairs W mf && W.maskFits k && !mxFormat mf && 8 ≤ memBits W mf
           addr := fun _ r e _ => rowStart W b r (8 * (r * W.vl.toNat * (reg s x).toInt)) + 8 * (e * (reg s x).toInt), act := acts W k }
  | .vsts d b x k mf =>
    some { load := false, d := d, b := b, mf := mf, nf := 1, idx := none
           legal := pairs W mf && W.maskFits k && !mxFormat mf && 8 ≤ memBits W mf
           addr := fun _ r e _ => rowStart W b r (8 * (r * W.vl.toNat * (reg s x).toInt)) + 8 * (e * (reg s x).toInt), act := acts W k }
  | .vldx d b v k mf =>
    some { load := true, d := d, b := b, mf := mf, nf := 1, idx := some v
           legal := pairs W mf && W.maskFits k && !mxFormat mf && 8 ≤ memBits W mf && W.vl.toNat ≤ W.capBits / 32
           addr := fun ix r e _ => rowStart W b r 0 + 8 * ix r e, act := acts W k }
  | .vstx d b v k mf =>
    some { load := false, d := d, b := b, mf := mf, nf := 1, idx := some v
           legal := pairs W mf && W.maskFits k && !mxFormat mf && 8 ≤ memBits W mf && W.vl.toNat ≤ W.capBits / 32
           addr := fun ix r e _ => rowStart W b r 0 + 8 * ix r e, act := acts W k }
  | .vldseg d b v n mf =>
    some { load := true, d := d, b := b, mf := mf, nf := n.toNat + 1, idx := if v = d then none else some v
           legal := pairs W mf && !mxFormat mf && 8 ≤ memBits W mf && n != 0 && (v == d || W.vl.toNat ≤ W.capBits / 32)
           addr := fun ix r e f => rowStart W b r (r * W.vl.toNat * (n.toNat + 1) * memBits W mf) +
             ((if v = d then e else ix r e) * (n.toNat + 1) + f) * memBits W mf
           act := acts W 0 }
  | .vstseg d b v n mf =>
    some { load := false, d := d, b := b, mf := mf, nf := n.toNat + 1, idx := if v = d then none else some v
           legal := pairs W mf && !mxFormat mf && 8 ≤ memBits W mf && n != 0 && (v == d || W.vl.toNat ≤ W.capBits / 32)
           addr := fun ix r e f => rowStart W b r (r * W.vl.toNat * (n.toNat + 1) * memBits W mf) +
             ((if v = d then e else ix r e) * (n.toNat + 1) + f) * memBits W mf
           act := acts W 0 }
  | _ => none

/-- The groups of a form: its data groups one after another, each rotated separately, and its index group (02 R36, 08 R201). -/
def formGroups (W : Wick) (F : MemForm) (gs : List (List Nat)) (gi : List Nat) : Prop :=
  gs.length = F.nf ∧ W.nrows ≠ 0 ∧ W.fieldReg F.d % W.nrows = 0 ∧ W.fieldReg F.d + F.nf * W.nrows ≤ 2 * W.rotBase ∧
  (∀ f, f < F.nf → gs.getD f [] = natsFrom (W.rotate (W.fieldReg F.d + f * W.nrows)) W.nrows) ∧
  match F.idx with
  | some v => W.group? v = some gi
  | none => gi = []

/-- The bit address of field `f` of (r, e), modulo 2^67 (08 R192, R193). -/
def bitAddress (s : State) (W : Wick) (F : MemForm) (gi : List Nat) (r e f : Nat) : Nat :=
  ((8 * ((if F.b.toNat < 28 then reg s F.b else W.ap[fin4 F.b.toNat]).toNat : Int) +
    F.addr (fun r e => elemAt (W.reg (gi.getD r 0)) 32 e) r e f) % 2 ^ 67).toNat

/-- An access of `n` bytes from a virtual address that one cached translation `x` of the acting thread's core serves: every page that it
touches is found at `x`, and it stays within `x`'s page. -/
def servedBy (s : State) (x : TlbEntry) (va n : Nat) (k : Kind) : Prop :=
  va % 2 ^ x.lg + n ≤ 2 ^ x.lg ∧
  ∀ j, j < n → (s.pcoreOf (s.pcoreNum s.cur)).tlb.find? (·.grants (s.vfOf s.cur) (BitVec.ofNat 64 (va + j)) (needOf k false) true) = some x

/-- The physical address of a virtual one under a cached translation. -/
def under (x : TlbEntry) (va : Nat) : Nat := x.pa + va % 2 ^ x.lg

/-- An access of a vector form at bit address `a` of `m` bits that nothing stops: aligned, served by `x`, below 2^64, with room at the L2 or
on the links; for a load no poison and an address of this device or of the host (one of another device takes a flit of its port's window,
01 R30), for a store no partly written byte of host memory; no race (08 R195, R209, 12 R277, R280, 14 R331). -/
def passes (s : State) (x : TlbEntry) (load : Bool) (a m : Nat) : Prop :=
  (16 ≤ m → a / 8 % (m / 8) = 0) ∧ a / 8 + (a % 8 + m + 7) / 8 ≤ 2 ^ 64 ∧
  servedBy s x (a / 8) ((a % 8 + m + 7) / 8) (if load then .read else .write) ∧
  (∀ j, j < (a % 8 + m + 7) / 8 →
    (load = true → readable s (under x (a / 8) + j) ∧ isRemote s (under x (a / 8) + j) = false) ∧
    l2Room s (s.vfOf s.cur) (under x (a / 8) + j) = true ∧
    raceAt s s.cur { x.out (BitVec.ofNat 64 (a / 8)) with pa := under x (a / 8) + j } = false) ∧
  (load = false → (∃ j, j < (a % 8 + m + 7) / 8 ∧ isHost (under x (a / 8) + j) = true) → m % 8 = 0)

/-- A byte of memory as a wick's vector accesses see it, through its own queued vector stores (08 R205). -/
def seenByte (q : List PendAccess) (a : Nat) (b : Byte) : Byte :=
  q.foldl (fun b p =>
    if p.vector && p.load.isNone then p.bytes.foldl (fun b x => if x.pa = a then mergeByte b x.mask x.val else b) b else b) b

/-- The bits that a load at bit address `a` of `m` bits finds, through its wick's own queued vector stores (08 R205). -/
def foundBits (s : State) (x : TlbEntry) (a m : Nat) : Nat :=
  leNat ((natsFrom (under x (a / 8)) ((a % 8 + m + 7) / 8)).map fun k => seenByte (s.thread s.cur).pend k (memByte s.mem k)) / 2 ^ (a % 8) % 2 ^ m

/-- What a load changes of memory and of its thread's queue: it performs the queued vector stores that it must follow and no other, so every
byte looks to the wick as it did, and with no vector access queued nothing changes (08 R205, 14 R312). -/
def SeenAlike (s t : State) : Prop :=
  (∀ a, seenByte (t.thread s.cur).pend a (memByte t.mem a) = seenByte (s.thread s.cur).pend a (memByte s.mem a)) ∧
  ((∀ q ∈ (s.thread s.cur).pend, q.vector = false) → t.mem = s.mem ∧ (t.thread s.cur).pend = (s.thread s.cur).pend)

/-- A thread whose queue holds no vector load still to be performed. -/
def noFlights (s : State) : Prop :=
  ∀ q ∈ (s.thread s.cur).pend, (q.vector = true → q.load = none) ∧ ∀ y, q.load ≠ some (.v y)

/-- What a load leaves in its wick (08 R198, 07 R157): `val` gives each active field's value and flags; `part` is the position at which
it stops, before which its elements are loaded (08 R196). -/
structure Loaded (S T : Wick) (gs : List (List Nat)) (act : Nat → Bool) (part : Nat) (val : Nat → Nat → Nat → Flagged) : Prop where
  element : ∀ f r e, f < gs.length → r < S.nrows → e < S.vl.toNat →
    cell T ((gs.getD f []).getD r 0) e =
      if act (r * S.vl.toNat + e) = true ∧ r * S.vl.toNat + e < part then (val f r e).1 % 2 ^ S.esize
      else cell S ((gs.getD f []).getD r 0) e
  tail : ∀ f r e, f < gs.length → r < S.nrows → S.vl.toNat ≤ e → e < S.cap →
    cell T ((gs.getD f []).getD r 0) e =
      if S.ta = true ∧ S.positions ≤ part then 0 else cell S ((gs.getD f []).getD r 0) e
  others : ∀ n, (∀ g ∈ gs, n ∉ g) → T.reg n = S.reg n
  flags : ∀ k, bitOf T.th.fflags k = true ↔ bitOf S.th.fflags k = true ∨
    ∃ f r e, f < gs.length ∧ r < S.nrows ∧ e < S.vl.toNat ∧ act (r * S.vl.toNat + e) = true ∧ r * S.vl.toNat + e < part ∧
      bitOf (val f r e).2 k = true
  shape : T.vl = S.vl ∧ T.vrows = S.vrows ∧ T.th.vtype = S.th.vtype ∧ T.split = S.split

/-- The accesses of a form in order: fields of a position in order, positions ascending (08 R203). -/
def accesses (W : Wick) (F : MemForm) : List (Nat × Nat) :=
  ((List.range W.positions).filter F.act).flatMap fun p => (List.range F.nf).map fun f => (p, f)

/-- Registers of different groups differ, and a load's groups do not meet its index group (08 R194 check 4). -/
def apart (load : Bool) (gs : List (List Nat)) (gi : List Nat) : Prop := gs.flatten.Nodup ∧ (load = true → ∀ g ∈ gs, ∀ n ∈ g, n ∉ gi)

/-- The bytes of a store's elements, in order, without the bits that a later element reaches; an element with nothing left is left out
(08 R203). -/
def lastBytes : List (List PendByte) → List (List PendByte)
  | [] => []
  | e :: es =>
    let mine := (e.map fun b => { b with mask := es.flatten.foldl (fun m x => if x.pa = b.pa then m &&& ~~~x.mask else m) b.mask }).filter
      fun b => b.mask ≠ 0
    if mine = [] then lastBytes es else mine :: lastBytes es

/-- 08 R188, R192 to R199, R201, R205: a load that passes its checks and whose accesses nothing stops converts each active field into its
element, treats the tails as ta says, clears vstart and completes; it sees its wick's own queued vector stores. -/
def VectorLoadResult : Prop :=
  ∀ (s : State) (w : Fin 8) (i : Instr) (F : MemForm) (gs : List (List Nat)) (gi : List Nat) (x : TlbEntry), s.cur.who = .wick w →
    let W := s.curWick w
    memForm s W i = some F → F.load = true → F.legal = true → formGroups W F gs gi → apart true gs gi → W.vmem = none →
    W.emptySweep = false → W.vln ≤ W.cap → s.late = false → noFlights s →
    (∀ f r e, f < F.nf → r < W.nrows → e < W.vl.toNat → F.act (r * W.vl.toNat + e) = true →
      passes s x true (bitAddress s W F gi r e f) (memBits W F.mf)) →
    ∃ t, exec i s = .next t ∧
      Loaded W (t.curWick w) gs F.act W.positions (fun f r e =>
        loadValue W F.mf.toNat ((r * W.vl.toNat + e) * F.nf + f) (foundBits s x (bitAddress s W F gi r e f) (memBits W F.mf))) ∧
      (t.curWick w).masks = W.masks ∧ (t.curWick w).vstart = 0 ∧
      (t.curWick w).th.rctr = W.th.rctr + (if W.th.rm = 5 ∧ F.mf ≠ 0 then BitVec.ofNat 64 (F.nf * W.positions) else 0) ∧
      SeenAlike s t ∧ SameRegs s.cur s t ∧ MovedOn s.cur s t

/-- A load whose every access is of this device's memory, left for later by the agenda: after its checks the instruction is over.
Its accesses join the queue in order, each with the place and the making of its value; older loads in flight of the same elements keep
their bytes and their order; tails are zeroed, and no element and no flag changes yet (14 R312, 06 R141; log 3). -/
def VectorLoadLeft : Prop :=
  ∀ (s : State) (w : Fin 8) (i : Instr) (F : MemForm) (gs : List (List Nat)) (gi : List Nat) (x : TlbEntry), s.cur.who = .wick w →
    let W := s.curWick w
    memForm s W i = some F → F.load = true → (∀ d b k m, i ≠ .vldff d b k m) → F.legal = true → formGroups W F gs gi → apart true gs gi →
    W.vmem = none → W.emptySweep = false → W.vln ≤ W.cap → s.late = true →
    let address (q : Nat × Nat) := bitAddress s W F gi (q.1 / W.vl.toNat) (q.1 % W.vl.toNat) q.2
    (∀ q ∈ accesses W F, passes s x true (address q) (memBits W F.mf) ∧ isHost (under x (address q / 8)) = false) →
    ∃ t, ∃ old ps : List PendAccess, exec i s = .next t ∧ (t.thread s.cur).pend = old ++ ps ∧
      (old.map fun p => (p.vector, p.bytes, p.load.isSome)) = ((s.thread s.cur).pend.map fun p => (p.vector, p.bytes, p.load.isSome)) ∧
      ps.length = (accesses W F).length ∧
      (∀ (k : Nat) (q : Nat × Nat) (p : PendAccess), (accesses W F)[k]? = some q → ps[k]? = some p →
        p.vector = true ∧
        p.bytes.map (·.pa) = natsFrom (under x (address q / 8)) ((address q % 8 + memBits W F.mf + 7) / 8) ∧
        ∃ y, p.load = some (.v y) ∧ y.reg = some ((gs.getD q.2 []).getD (q.1 / W.vl.toNat) 0) ∧ y.e = q.1 % W.vl.toNat ∧ y.w = W.esize ∧
          ∀ raw, y.value raw = loadValue W F.mf.toNat (q.1 * F.nf + q.2) (raw / 2 ^ (address q % 8) % 2 ^ memBits W F.mf)) ∧
      Loaded W (t.curWick w) gs (fun _ => false) W.positions (fun _ _ _ => (0, 0)) ∧
      (t.curWick w).masks = W.masks ∧ (t.curWick w).vstart = 0 ∧ (t.curWick w).th.fflags = W.th.fflags ∧
      (t.curWick w).th.rctr = W.th.rctr + (if W.th.rm = 5 ∧ F.mf ≠ 0 then BitVec.ofNat 64 (F.nf * W.positions) else 0) ∧
      t.mem = s.mem ∧ SameRegs s.cur s t ∧ MovedOn s.cur s t

/-- 06 R141, 08 R198: an element of a vector load, when it is performed, is made of the bytes of memory then; it goes to its place and its flags
are raised. One whose name has taken fresh rows since raises its flags only. -/
def LateElementLanded : Prop :=
  ∀ (s : State) (g c : Nat) (w : Fin 8) (p : PendAccess) (y : LateElem), p.load = some (.v y) →
    let t := performAccess s ⟨g, c, .wick w⟩ p
    let W := s.wick g c w
    let T := t.wick g c w
    let v := y.value (leNat (p.bytes.map fun b => memByte s.mem b.pa))
    T.th.fflags = W.th.fflags ||| v.2 ∧ T.masks = W.masks ∧ T.th.x = W.th.x ∧ T.th.pend = W.th.pend ∧ t.mem = s.mem ∧
    (y.reg = none → T.rows = W.rows) ∧
    ∀ r, y.reg = some r → y.w * y.e + y.w ≤ W.regBits →
      elemAt (T.reg r) y.w y.e = v.1 % 2 ^ y.w ∧ (∀ e, e ≠ y.e → elemAt (T.reg r) y.w e = elemAt (W.reg r) y.w e) ∧
      ∀ n, n ≠ r → T.reg n = W.reg n

/-- 08 R188, R192 to R195, R201 to R203: a store that passes its checks and whose accesses nothing stops joins its thread's queue with
the bits of each active field, in ascending order, those that a later field of it reaches left out, and completes. -/
def VectorStoreResult : Prop :=
  ∀ (s : State) (w : Fin 8) (i : Instr) (F : MemForm) (gs : List (List Nat)) (gi : List Nat) (x : TlbEntry), s.cur.who = .wick w →
    let W := s.curWick w
    memForm s W i = some F → F.load = false → F.legal = true → formGroups W F gs gi → W.vmem = none →
    W.emptySweep = false → W.vln ≤ W.cap →
    (∀ f r e, f < F.nf → r < W.nrows → e < W.vl.toNat → F.act (r * W.vl.toNat + e) = true →
      passes s x false (bitAddress s W F gi r e f) (memBits W F.mf)) →
    let address (q : Nat × Nat) := bitAddress s W F gi (q.1 / W.vl.toNat) (q.1 % W.vl.toNat) q.2
    let value (q : Nat × Nat) :=
      storeValue W F.mf.toNat (q.1 * F.nf + q.2) (cell W ((gs.getD q.2 []).getD (q.1 / W.vl.toNat) 0) (q.1 % W.vl.toNat))
    ∃ t ps, exec i s = .next t ∧ (t.thread s.cur).pend = (s.thread s.cur).pend ++ ps ∧ (∀ q ∈ ps, q.vector = true) ∧
      ps.map (·.bytes) = lastBytes ((accesses W F).map fun q =>
        storeBytes [(x.out (BitVec.ofNat 64 (address q / 8)), (address q % 8 + memBits W F.mf + 7) / 8)] (address q % 8)
          (memBits W F.mf) (value q).1) ∧
      (t.thread s.cur).fflags = (accesses W F).foldl (fun fl q => fl ||| (value q).2) W.th.fflags ∧
      (t.curWick w).vstart = 0 ∧ (t.curWick w).rows = W.rows ∧ (t.curWick w).masks = W.masks ∧
      (t.curWick w).th.rctr = W.th.rctr + (if W.th.rm = 5 ∧ F.mf ≠ 0 then BitVec.ofNat 64 (F.nf * W.positions) else 0) ∧
      t.mem = s.mem ∧ SameRegs s.cur s t ∧ MovedOn s.cur s t

/-- 08 R202: a queued element of `m` bits from bit `sh` of its first byte, performed, changes exactly those bits of memory. -/
def ElementStorePerformed : Prop :=
  ∀ (s : State) (u : Tid) (x : Xlat) (n sh m v : Nat), sh + m ≤ 8 * n →
    let t := performStore s u (storePend [(x, n)] sh m v)
    memRead t.mem x.pa n / 2 ^ sh % 2 ^ m = v % 2 ^ m ∧ memRead t.mem x.pa n % 2 ^ sh = memRead s.mem x.pa n % 2 ^ sh ∧
    memRead t.mem x.pa n / 2 ^ (sh + m) = memRead s.mem x.pa n / 2 ^ (sh + m) ∧ SameMemOutside x.pa n s t

/-- 02 R52, 08 R196: a vector load or store stopped by a misaligned element traps with that element's address; vstart is its position, the
elements below it are done and the others are not. -/
def VectorMemoryFault : Prop :=
  ∀ (s : State) (w : Fin 8) (i : Instr) (F : MemForm) (gs : List (List Nat)) (gi : List Nat) (x : TlbEntry) (p f : Nat),
    s.cur.who = .wick w →
    let W := s.curWick w
    memForm s W i = some F → F.legal = true → formGroups W F gs gi → apart F.load gs gi → W.vmem = none → W.emptySweep = false →
    W.vln ≤ W.cap → W.positions < 2 ^ 18 → (F.load = true → noFlights s) → holdsJoined s s.cur.gang s.cur.core w = false →
    (p, f) ∈ accesses W F → 16 ≤ memBits W F.mf →
    bitAddress s W F gi (p / W.vl.toNat) (p % W.vl.toNat) f / 8 % (memBits W F.mf / 8) ≠ 0 →
    (∀ q ∈ accesses W F, q.1 < p ∨ (q.1 = p ∧ q.2 < f) →
      passes s x F.load (bitAddress s W F gi (q.1 / W.vl.toNat) (q.1 % W.vl.toNat) q.2) (memBits W F.mf)) →
    ∃ t, exec i s = .next t ∧ (∃ b, (t.curWick w).state = .faulted b) ∧ (t.curWick w).code = 3 ∧
      (t.curWick w).tval = BitVec.ofNat 64 (bitAddress s W F gi (p / W.vl.toNat) (p % W.vl.toNat) f / 8) ∧
      (t.curWick w).vstart = BitVec.ofNat 18 p ∧ (t.curWick w).th.rctr = W.th.rctr ∧ (t.curWick w).masks = W.masks ∧
      (F.load = true → SeenAlike s t ∧ Loaded W (t.curWick w) gs F.act p (fun f r e =>
        loadValue W F.mf.toNat ((r * W.vl.toNat + e) * F.nf + f) (foundBits s x (bitAddress s W F gi r e f) (memBits W F.mf)))) ∧
      (F.load = false → t.mem = s.mem ∧ (t.curWick w).rows = W.rows ∧
        ∃ ps, (t.thread s.cur).pend = (s.thread s.cur).pend ++ ps ∧
          ∀ a, (∃ e ∈ ps, ∃ b ∈ e.bytes, b.pa = a) ↔
            ∃ q ∈ accesses W F, q.1 < p ∧
              let bit := bitAddress s W F gi (q.1 / W.vl.toNat) (q.1 % W.vl.toNat) q.2
              under x (bit / 8) ≤ a ∧ a < under x (bit / 8) + (bit % 8 + memBits W F.mf + 7) / 8)

/-- The bit address of an MX element, and of the scale byte of its block (08 R192, R198). -/
def mxBit (s : State) (W : Wick) (b mf : Reg) (p : Nat) : Nat :=
  ((8 * ((if b.toNat < 28 then reg s b else W.ap[fin4 b.toNat]).toNat : Int) +
    (rowStart W b (p / W.vl.toNat) (p / W.vl.toNat * W.vl.toNat * memBits W mf) + p % W.vl.toNat * memBits W mf)) % 2 ^ 67).toNat
/-- The bit address of the scale of the block of position `p`. -/
def scaleBit (s : State) (W : Wick) (f : Reg) (p : Nat) : Nat :=
  8 * (reg s f + BitVec.ofNat 64 (p / W.vl.toNat * ((W.vl.toNat + 31) / 32) + p % W.vl.toNat / 32)).toNat

/-- The element layout of an MX format. -/
def mxFmt (mf : Reg) : FloatFmt := if mf = 13 then fmtE4M3 else if mf = 14 then fmtE5M2 else fmtE2M1

/-- Whether position `p` is the first active one of its block of 32 elements of a row (03 R66). -/
def firstOfBlock (W : Wick) (k : BitVec 3) (p : Nat) : Bool :=
  !(actives W k).any fun q => q < p && q / W.vl.toNat == p / W.vl.toNat && q % W.vl.toNat / 32 == p % W.vl.toNat / 32

/-- The values of the active elements of the block of position `p`. -/
def blockValues (W : Wick) (g : List Nat) (k : BitVec 3) (p : Nat) : List FVal :=
  ((actives W k).filter fun q => q / W.vl.toNat == p / W.vl.toNat && q % W.vl.toNat / 32 == p % W.vl.toNat / 32).map fun q =>
    decodeFloat (floatOf W.et) (cell W (g.getD (q / W.vl.toNat) 0) (q % W.vl.toNat))

/-- 03 R66, 08 R198, R202: an MX load reads the scale of each block and rounds the exact product of scale and element; an MX store writes
each block's scale before its first active element and each element divided by it, saturated. -/
def MxResult : Prop :=
  ∀ (s : State) (w : Fin 8) (d b f : Reg) (k : BitVec 3) (mf : Reg) (g : List Nat) (x : TlbEntry) (load : Bool), s.cur.who = .wick w →
    let W := s.curWick w
    mxFormat mf = true → isFloatEt W.et = true → W.maskFits k = true → W.group? d = some g → g.Nodup → W.vmem = none →
    W.emptySweep = false → W.vln ≤ W.cap →
    (∀ p ∈ actives W k, passes s x load (mxBit s W b mf p) (memBits W mf) ∧ passes s x load (scaleBit s W f p) 8) →
    let rctr := W.th.rctr + (if W.th.rm = 5 then BitVec.ofNat 64 W.positions else 0)
    (load = true → s.late = false → noFlights s →
      ∃ t, exec (.vld d b f k mf) s = .next t ∧
        Loaded W (t.curWick w) [g] (acts W k) W.positions (fun _ r e =>
          let p := r * W.vl.toNat + e
          let raw := foundBits s x (mxBit s W b mf p) (memBits W mf)
          let o := roundTo (floatOf W.et) (laneMode W.th p) (mxValue (mxFmt mf) (foundBits s x (scaleBit s W f p) 8) raw)
          (o.1, o.2 ||| sigFlag (decodeFloat (mxFmt mf) raw))) ∧
        (t.curWick w).masks = W.masks ∧ (t.curWick w).vstart = 0 ∧ (t.curWick w).th.rctr = rctr ∧ SeenAlike s t ∧ SameRegs s.cur s t ∧
        MovedOn s.cur s t) ∧
    (load = false →
      ∃ t ps, exec (.vst d b f k mf) s = .next t ∧ (t.thread s.cur).pend = (s.thread s.cur).pend ++ ps ∧
        ps.map (·.bytes) = lastBytes ((actives W k).flatMap fun p =>
          let sc := mxScale mf.toNat (blockValues W g k p)
          let v := decodeFloat (floatOf W.et) (cell W (g.getD (p / W.vl.toNat) 0) (p % W.vl.toNat))
          let e := if sc = 255 then 0 else (roundToWith (mxFmt mf) (laneMode W.th p) true (scaleBy v (127 - (sc : Int)))).1
          (if firstOfBlock W k p then [storeBytes [(x.out (BitVec.ofNat 64 (scaleBit s W f p / 8)), 1)] 0 8 sc] else []) ++
            [storeBytes [(x.out (BitVec.ofNat 64 (mxBit s W b mf p / 8)), (mxBit s W b mf p % 8 + memBits W mf + 7) / 8)]
              (mxBit s W b mf p % 8) (memBits W mf) e]) ∧
        (t.curWick w).rows = W.rows ∧ (t.curWick w).vstart = 0 ∧ (t.curWick w).th.rctr = rctr ∧ t.mem = s.mem ∧ SameRegs s.cur s t ∧
        MovedOn s.cur s t)

/-- The scale of an MX block: 255 where an active element is NaN; 0 where the largest finite magnitude is zero; floor(log2 a) - emax + 127 for
another largest finite magnitude a, within 0 to 254 (03 R66). The manual gives none for a block of infinities alone: a free value, which is
not 255 (log 46). -/
def MxScaleRule : Prop :=
  ∀ (m : Nat) (vs : List FVal),
    (FVal.nan false ∈ vs ∨ FVal.nan true ∈ vs → mxScale m vs = 255) ∧
    ((∀ v ∈ vs, v.isNan = false) → (∃ n e, FVal.fin n 0 e ∈ vs) → (∀ n k e, FVal.fin n k e ∈ vs → k = 0) → mxScale m vs = 0) ∧
    (vs ≠ [] → (∀ v ∈ vs, v.isInf = true) → mxScale m vs < 255) ∧
    (∀ n k e, (∀ v ∈ vs, v.isNan = false) → FVal.fin n k e ∈ vs → k ≠ 0 →
      (∀ n' k' e', FVal.fin n' k' e' ∈ vs → k' ≠ 0 → (k'.log2 : Int) + e' ≤ k.log2 + e) →
      (mxScale m vs : Int) = max 0 (min 254 ((k.log2 : Int) + e - (if m = 13 then 8 else if m = 14 then 15 else 2) + 127)))

/-- One byte of an exported group (16 R345, 08 R200). -/
def lanternByte (C : Core) (v : Window) (o : Nat) : Byte :=
  BitVec.ofNat 8 (elemAt (windowRow C v (o / v.rb.toNat)) 8 (o % v.rb.toNat))

/-- What an index of VLDX.P reads in a gang: `m` bits at the offset of the named core's window, or nothing (08 R200). -/
def lanternSpec (s : State) (g ix m : Nat) : Option Nat :=
  let v := (s.core g (ix / 2 ^ 25)).windows[fin8 (ix / 2 ^ 22)]
  if ix / 2 ^ 25 ≤ (s.gang g).desc.ncm1.toNat ∧ v.valid = true ∧ ix / 2 ^ 16 % 64 = 0 ∧ ix % 2 ^ 16 + m / 8 ≤ v.rows.toNat * v.rb.toNat then
    some (leNat ((natsFrom (ix % 2 ^ 16) (m / 8)).map (lanternByte (s.core g (ix / 2 ^ 25)) v)))
  else none

/-- 08 R200: VLDX.P reads windows of its gang; an absent one gives zero and clears the bit of the mask register; a misaligned offset traps
with the index. -/
def LanternResult : Prop :=
  ∀ (s : State) (w : Fin 8) (d f : Reg) (k : BitVec 3) (mf : Reg) (g gi : List Nat), s.cur.who = .wick w →
    let W := s.curWick w
    let i := Instr.vldxP d f k mf
    pairs W mf = true → mxFormat mf = false → 8 ≤ memBits W mf → W.vl.toNat ≤ W.capBits / 32 → W.maskFits k = true →
    W.group? d = some g → W.group? f = some gi → g.Nodup →
    let index (p : Nat) := elemAt (W.reg (gi.getD (p / W.vl.toNat) 0)) 32 (p % W.vl.toNat)
    let found (p : Nat) := lanternSpec s s.cur.gang (index p) (memBits W mf)
    (k = 0 → exec i s = .next (trap s s.cur .illegal (wordOf i))) ∧
    (k ≠ 0 → (∃ n ∈ g, n ∈ gi) → exec i s = .next (trap s s.cur .groupOverlap (wordOf i))) ∧
    (k ≠ 0 → (∀ n ∈ g, n ∉ gi) → W.emptySweep = false → W.vln ≤ W.cap → (∀ p ∈ actives W k, index p % 2 ^ 16 % (memBits W mf / 8) = 0) →
      ∃ t, exec i s = .next t ∧
        Loaded W (t.curWick w) [g] (acts W k) W.positions (fun _ r e =>
          match found (r * W.vl.toNat + e) with
          | some raw => loadValue W mf.toNat (r * W.vl.toNat + e) raw
          | none => (0, 0)) ∧
        (∀ p, p < 32768 → (tabGet 0 (t.curWick w).masks k.toNat).getLsbD p =
          ((tabGet 0 W.masks k.toNat).getLsbD p && !((actives W k).contains p && found p == none))) ∧
        (∀ j, j ≠ k.toNat → tabGet 0 (t.curWick w).masks j = tabGet 0 W.masks j) ∧
        (t.curWick w).vstart = 0 ∧ t.mem = s.mem ∧ SameRegs s.cur s t ∧ OnlyThread s.cur s t ∧ MovedOn s.cur s t)

/-- 08 R204, 12 R295: a prefetch completes whatever its lines come to: it writes no register, no memory and no state of its wick. One whose
length is 0 fetches nothing; a line in an unmapped page is counted as dropped; a line that translates is counted as issued. -/
def PrefetchResult : Prop :=
  ∀ (s : State) (w : Fin 8) (b f : Reg) (i : Instr) (size : Nat), s.cur.who = .wick w →
    let W := s.curWick w
    let base := if b.toNat < 28 then reg s b else W.ap[fin4 b.toNat]
    (i = .prefD b f ∧ size = 256 ∨ i = .prefI b f ∧ size = 64) →
    (∃ t, exec i s = .next t ∧ t.mem = s.mem ∧ SameRegs s.cur s t ∧ MovedOn s.cur s t ∧ (t.curWick w).rows = W.rows ∧
      (t.curWick w).masks = W.masks ∧ (t.curWick w).vstart = W.vstart) ∧
    (reg s f = 0 → exec i s = .next (s.done s.cur)) ∧
    (∀ c p s1, reg s f = 1 →
      translate s (s.pcoreNum s.cur) (s.vfOf s.cur) (BitVec.ofNat 64 (base.toNat / size * size)) .prefetch (size == 64) = (.fail c p, s1) →
      ∃ t, exec i s = .next t ∧ t.curCore.pfdropped = s1.curCore.pfdropped + 1) ∧
    (∀ m s1, reg s f = 1 →
      translate s (s.pcoreNum s.cur) (s.vfOf s.cur) (BitVec.ofNat 64 (base.toNat / size * size)) .prefetch (size == 64) = (.miss m, s1) →
      ∃ t, exec i s = .next t ∧ t.curCore.pfdropped = s1.curCore.pfdropped + 1) ∧
    (∀ x s1, reg s f = 1 →
      translate s (s.pcoreNum s.cur) (s.vfOf s.cur) (BitVec.ofNat 64 (base.toNat / size * size)) .prefetch (size == 64) = (.ok x, s1) →
      ∃ t, exec i s = .next t ∧ t.curCore.pfissued = s1.curCore.pfissued + 1)

end Sys2Proof.Claims
end

