-- ==== Sys2Proof/Claims/MatrixRules.lean ====
section
/-! DEFINITION. Rules of 10 about the accumulator tiles and the matrix array, as propositions of which the statements are made. -/

namespace Sys2Proof.Claims

open Sys2Proof.Machine

/-- Cell (i, j) of a tile of a core. -/
def tileCell (s : State) (g c : Nat) (a : BitVec 2) (i j : Nat) : Nat := ((s.core g c).tiles[a.toFin]).cell i j
/-- Cell (i, j) of a tile of the acting core. -/
abbrev curCell (s : State) (a : BitVec 2) (i j : Nat) : Nat := tileCell s s.cur.gang s.cur.core a i j
/-- The ownership entry of a tile of the acting core. -/
abbrev curEntry (s : State) (a : BitVec 2) : Owner := s.curCore.owners[a.toFin]

/-- The frame of a form on one tile: beside the acting wick and its slot, only that tile, its ownership entry and the resident tile of its
core differ. -/
def OnlyTile (a : BitVec 2) (s t : State) : Prop :=
  t = { s with gangs := t.gangs } ∧
  (∀ g, g ≠ s.cur.gang → tabGet? t.gangs g = tabGet? s.gangs g) ∧
  t.gang s.cur.gang =
    { s.gang s.cur.gang with cores := (t.gang s.cur.gang).cores, progressAt := (t.gang s.cur.gang).progressAt } ∧
  (∀ c, c ≠ s.cur.core → tabGet? (t.gang s.cur.gang).cores c = tabGet? (s.gang s.cur.gang).cores c) ∧
  t.curCore =
    { s.curCore with
      wicks := t.curCore.wicks, issue := t.curCore.issue, tiles := t.curCore.tiles, owners := t.curCore.owners
      resident := t.curCore.resident } ∧
  (∀ w, s.cur.who ≠ .wick w → t.curWick w = s.curWick w) ∧
  (∀ b : Fin 4, b ≠ a.toFin → t.curCore.tiles[b] = s.curCore.tiles[b] ∧ t.curCore.owners[b] = s.curCore.owners[b])

/-- The acting thread is wick `w`, the array is free for it, and it may act on the tile (10 R237, R239). -/
def arrayFree (s : State) (w : Fin 8) : Prop := s.cur.who = .wick w ∧ arrayBusy s s.cur w = false

/-- The acting wick has completed a sweep: vstart 0, registers, vector rows, masks and shape as before, and these flags raised. -/
def sweptPlain (s t : State) (w : Fin 8) (fl : BitVec 7) : Prop :=
  (t.curWick w).vstart = 0 ∧ (t.curWick w).rows = (s.curWick w).rows ∧ (t.curWick w).masks = (s.curWick w).masks ∧
  (t.curWick w).th.fflags = (s.curWick w).th.fflags ||| fl ∧ (t.curWick w).th.rctr = (s.curWick w).th.rctr ∧ SameRegs s.cur s t ∧
  MovedOn s.cur s t

/-- 10 R237, R242, R244, 11 R258: MZERO and MZERO.R clear every cell; the first takes the tile and sets a vigil's counts to 0, the second
frees it. Another wick's tile traps, and so does a pinned one at MZERO.R. -/
def TileCleared : Prop :=
  ∀ (s : State) (w : Fin 8) (a : BitVec 2), arrayFree s w →
    let zero (t : State) := (∀ i j, curCell t a i j = 0) ∧ (t.curCore.tiles[a.toFin]).dirty = true
    (mayOwn s w a = true →
      ∃ t, exec (.mzero a) s = .next t ∧ zero t ∧ curEntry t a = { curEntry s a with owner := some w, tokens := 0, hidx := 0 } ∧
        sweptPlain s t w 0 ∧ OnlyTile a s t) ∧
    (mayOwn s w a = true → (curEntry s a).pinned = false →
      ∃ t, exec (.mzeroR a) s = .next t ∧ zero t ∧ curEntry t a = Owner.free ∧ sweptPlain s t w 0 ∧
        OnlyTile a s t) ∧
    (mayOwn s w a = false → exec (.mzero a) s = .next (trap s s.cur .ownership (BitVec.ofNat 64 a.toNat))) ∧
    (mayOwn s w a = false ∨ (curEntry s a).pinned = true →
      exec (.mzeroR a) s = .next (trap s s.cur .ownership (BitVec.ofNat 64 a.toNat)))

/-- The k-stepped forms on register groups (10 R246, R247): tile, operands, cell mask, and the format codes of 02 R45. -/
def regForm : Instr → Option (BitVec 2 × Reg × Reg × BitVec 3 × Nat × Nat)
  | .mxp a x y m => some (a, x, y, m, 0, 0)
  | .mxpi a x y m v => some (a, x, y, m, (if v.toNat < 4 then 9 else 11) + v.toNat % 2, (if v.toNat < 4 then 9 else 11) + v.toNat / 2 % 2)
  | .mter a x y m v => some (a, x, y, m, 13, if v = 1 then 10 else 9)
  | _ => none

/-- The widths of a register operand's elements and of its k-steps (10 R232, R233). -/
def opWidth (code : Nat) : Nat := if code = 0 then 16 else if code = 13 then 2 else if code = 11 ∨ code = 12 then 4 else 8

/-- An element of a register operand: k-step `k`, lane `i` of `lanes`, of the bit string of its rows (10 R233); past its end a free value
(log 6). -/
def opElem (W : Wick) (regs : List Nat) (lanes code k i : Nat) : Nat :=
  let off := (k * lanes + i) * opWidth code
  if off / W.capBits < regs.length then
    (W.reg (regs.getD (off / W.capBits) 0)).toNat / 2 ^ (off % W.capBits) % 2 ^ opWidth code
  else Config.freeNat off % 2 ^ opWidth code

/-- The number that an element of an integer or T2 code stands for (10 R246, 03 R67). -/
def opNumber (code raw : Nat) : Int :=
  if code = 13 then (if raw = 1 then 1 else if raw = 3 then -1 else 0)
  else if code = 9 ∨ code = 11 then (if 2 ^ (opWidth code - 1) ≤ raw then (raw : Int) - 2 ^ opWidth code else raw)
  else raw

/-- Row `i` and column `j` of the result are enabled (10 R235). -/
def rowOn (W : Wick) (m : BitVec 3) (i : Nat) : Bool := m == 0 || (W.mask m.toNat).getLsbD i
/-- Column `j` of the result is enabled (10 R235). -/
def colOn (W : Wick) (m : BitVec 3) (j : Nat) : Bool := m == 0 || (W.mask m.toNat).getLsbD (128 + j)
/-- The depth that the operands of a wick give (10 R232). -/
def depthOf (W : Wick) (fa fb : Nat) : Nat := W.nrows * W.capBits / (128 * max (opWidth fa) (opWidth fb))
/-- The enabled k-steps from vstart on, up to a depth (10 R236, R245). -/
def stepsOn (W : Wick) (depth : Nat) : List Nat :=
  (List.range depth).filter fun k =>
    W.vstart.toNat ≤ k && (W.mkReg == 0 || (W.mask W.mkReg.toNat).getLsbD ((W.mkBase.toNat + k) % 32768))

/-- A cell after the k-steps in order: BF16 products are each added with one rounding to F32; integer sums wrap (10 R245, R246, 03 R74). -/
def cellAfter (fa fb : Nat) (x y : Nat → Nat) (steps : List Nat) (v : Nat) : Nat :=
  if fa = 0 then
    steps.foldl (fun v k => (roundTo fmtF32 .rne
      (addExact .rne (decodeFloat fmtF32 v) (mulExact (decodeFloat fmtBF16 (x k)) (decodeFloat fmtBF16 (y k))).1).1).1) v
  else (((v : Int) + (steps.map fun k => opNumber fa (x k) * opNumber fb (y k)).sum) % 2 ^ 32).toNat

/-- TR: a T2 operand has a reserved code in some row of some step that is taken, enabled or not (03 R67, R73, 10 R245; log 28). -/
def reservedRead (W : Wick) (fa fb : Nat) (x : Nat → Nat → Nat) : Prop :=
  fa = 13 ∧ ∃ k i, W.vstart.toNat ≤ k ∧ k < depthOf W fa fb ∧ i < 128 ∧ x k i = 2

/-- 10 R232 to R247: a k-stepped form on register groups adds, in every enabled cell, the products of the enabled k-steps; other cells
keep; a reserved T2 code in any row of any step taken raises TR; its checks trap in the order of R243; on a joined tile it waits for the
quad before the checks that follow the agreement of the four (R255). -/
def RegisterProduct : Prop :=
  ∀ (s : State) (w : Fin 8) (i : Instr) (a : BitVec 2) (x y : Reg) (m : BitVec 3) (fa fb : Nat) (ga gb : List Nat), arrayFree s w →
    regForm i = some (a, x, y, m, fa, fb) →
    let W := s.curWick w
    let ready := W.group? x = some ga ∧ W.wide? y = some gb ∧ W.vstart.toNat % 16 = 0
    let A (k r : Nat) := opElem W ga 128 fa k r
    let B (k c : Nat) := opElem W gb 256 fb k c
    (ready → mayOwn s w a = true → isJoined s a = false →
      ∃ t fl, exec i s = .next t ∧
        (∀ r c, r < 128 → c < 256 → curCell t a r c =
          if rowOn W m r && colOn W m c then cellAfter fa fb (fun k => A k r) (fun k => B k c) (stepsOn W (depthOf W fa fb)) (curCell s a r c)
          else curCell s a r c) ∧
        (reservedRead W fa fb A → fl = 64) ∧ (¬reservedRead W fa fb A → fl = 0) ∧ sweptPlain s t w fl ∧
        curEntry t a = { curEntry s a with owner := some w } ∧ t.curCore.resident = a.toFin ∧ OnlyTile a s t) ∧
    (W.vstart.toNat % 16 = 0 → isJoined s a = true → exec i s = .next (s.setWait s.cur (.joint i))) ∧
    (isJoined s a = false → ready → mayOwn s w a = false → exec i s = .next (trap s s.cur .ownership (BitVec.ofNat 64 a.toNat))) ∧
    (W.vstart.toNat % 16 ≠ 0 ∨ (isJoined s a = false ∧ (W.group? x = none ∨ W.wide? y = none)) →
      exec i s = .next (trap s s.cur .illegal (wordOf i)))

/-- Array forms of a wick: they trap in the taper, and do not issue while another wick's instruction holds the array (01 R15, 10 R239,
R242). -/
def arrayForm : Instr → Bool
  | .mzero _ | .mzeroR _ | .mxp .. | .mxpi .. | .mter .. | .mseg .. | .mrd .. | .mwr .. | .mquadJ _ | .mquadL _ | .mxpt .. | .mpin ..
  | .munpin _ | .mdelta .. | .mdeltaQ .. | .mreadq .. | .mspill .. | .mspillR .. | .mfill .. => true
  | _ => false

/-- 01 R15, 10 R239, R242: where an array form may not issue. -/
def ArrayIssue : Prop :=
  ∀ (s : State) (w : Fin 8) (i : Instr), arrayForm i = true →
    (s.cur.who = .taper → exec i s = .next (trap s s.cur .illegal (wordOf i))) ∧
    (s.cur.who = .wick w → arrayBusy s s.cur w = true → exec i s = .next s)

/-- The value that MRD gives: the cell as F32 or as a signed integer, times the factor, clamped below at +0, converted (10 R252). -/
def readSpec (W : Wick) (p : Nat) (int scale clamp : Bool) (factor v : Nat) : Flagged :=
  let n : Int := if 2 ^ 31 ≤ v then (v : Int) - 2 ^ 32 else v
  if int = true ∧ scale = false ∧ isIntEt W.et = true then clampS W.esize (if clamp = true ∧ n < 0 then 0 else n)
  else
    let e := if int then ofInt (if clamp && !scale then max n 0 else n) else decodeFloat fmtF32 v
    let f := if scale then mulExact e (decodeFloat fmtF32 factor) else (e, 0)
    let g := if clamp && (!int || scale) then clampVal f.1 else f.1
    ((convertVal (etFmt W.et) (laneMode W.th p) g).1, f.2 ||| (convertVal (etFmt W.et) (laneMode W.th p) g).2)

/-- 10 R252, 03 R79: MRD reads and MWR writes the cells of a sweep in linear order from the cell that X[xs] names; what both trap on. -/
def TileMoves : Prop :=
  ∀ (s : State) (w : Fin 8) (a : BitVec 2) (x y : Reg) (m : BitVec 3) (n r c : BitVec 1) (g : List Nat), arrayFree s w →
    let W := s.curWick w
    let first := (reg s y).toNat % 128 * 256
    let fits := first + W.positions ≤ 32768 ∧ W.maskFits m = true
    let drawn (t : State) := (t.curWick w).th.rctr = W.th.rctr + (if W.th.rm = 5 then BitVec.ofNat 64 W.positions else 0)
    let both (P : Instr → Prop) := P (.mrd a x y m n r c) ∧ P (.mwr a x y m n)
    (W.group? x = some g → fits → mayOwn s w a = true → W.vln ≤ W.cap → W.emptySweep = false →
      (∃ t, exec (.mrd a x y m n r c) s = .next t ∧
        Swept W (t.curWick w) g m (fun k e =>
          some (readSpec W (k * W.vl.toNat + e) (n == 1) (r == 1) (c == 1) ((reg s y).toNat / 2 ^ 32)
            (curCell s a ((first + (k * W.vl.toNat + e)) / 256) ((first + (k * W.vl.toNat + e)) % 256)))) ∧
        t.curCore.tiles = s.curCore.tiles ∧ curEntry t a = { curEntry s a with owner := some w } ∧ drawn t ∧ SameRegs s.cur s t ∧
        OnlyTile a s t ∧ MovedOn s.cur s t) ∧
      (∃ t, exec (.mwr a x y m n) s = .next t ∧
        (∀ q, q < 32768 → curCell t a (q / 256) (q % 256) =
          if first ≤ q ∧ q < first + W.positions ∧ acts W m (q - first) = true then
            (convert (etFmt W.et) (if n = 1 then .int 32 true else .float fmtF32) (laneMode W.th (q - first))
              (cell W (g.getD ((q - first) / W.vl.toNat) 0) ((q - first) % W.vl.toNat))).1
          else curCell s a (q / 256) (q % 256)) ∧
        (t.curWick w).rows = W.rows ∧ (t.curWick w).vstart = 0 ∧ curEntry t a = { curEntry s a with owner := some w } ∧ drawn t ∧
        SameRegs s.cur s t ∧ OnlyTile a s t ∧ MovedOn s.cur s t)) ∧
    (W.group? x = some g → fits → mayOwn s w a = true → W.emptySweep = true →
      both fun i => ∃ t, exec i s = .next t ∧ (t.curWick w).rows = W.rows ∧ (∀ k e, curCell t a k e = curCell s a k e) ∧
        (t.curWick w).vstart = 0 ∧ drawn t ∧ MovedOn s.cur s t) ∧
    (W.group? x = some g → fits → mayOwn s w a = false →
      both fun i => exec i s = .next (trap s s.cur .ownership (BitVec.ofNat 64 a.toNat))) ∧
    (W.group? x = none ∨ ¬fits → both fun i => exec i s = .next (trap s s.cur .illegal (wordOf i)))

/-- 10 R239, R253: MWAIT completes at once unless another wick's instruction or a tile fetch left behind holds the array, and then when none
does any longer; nothing that issues after it holds the array before it ends, and a second MWAIT does not issue. -/
def ArrayWait : Prop :=
  ∀ (s : State) (w : Fin 8) (t : BitVec 4) (u : Tid),
    let second := ∃ k, k ≠ w ∧ ∃ n, (s.curWick k).th.wait = some (.mwait n)
    (s.cur.who = .wick w → arrayBusy s s.cur w = false →
      ∃ t', exec (.mwait t) s = .next t' ∧ sweptPlain s t' w 0 ∧ OnlyThread s.cur s t') ∧
    (s.cur.who = .wick w → arrayBusy s s.cur w = true → ¬second → exec (.mwait t) s = .next (s.setWait s.cur (.mwait t))) ∧
    (s.cur.who = .wick w → second → exec (.mwait t) s = .next s) ∧
    (s.cur.who = .wick w → (∃ k, k ≠ w ∧ ∃ n, (s.curWick k).th.wait = some (.mwait n)) → arrayBusy s s.cur w = true) ∧
    (s.cur.who = .taper → exec (.mwait t) s = .next (trap s s.cur .illegal (wordOf (.mwait t)))) ∧
    (u.who = .wick w → (s.thread u).wait = some (.mwait t) → arrayBusy s u w = false →
      ∃ t', exec (.mwaitEnd u) s = .next t' ∧ (t'.wick u.gang u.core w).vstart = 0 ∧ SameRegs u s t' ∧ MovedOn u s t' ∧
        OnlyThread u s t') ∧
    (u.who = .wick w → (s.thread u).wait = some (.mwait t) → arrayBusy s u w = true → exec (.mwaitEnd u) s = .next s)

/-- 10 R251: MSEG writes the group that occupies each of 128 rows, 0xFFFFFFFF where none does, and the masks of the occupied rows, with
every column bit set; more than 128 rows trap with their number. -/
def SegmentResult : Prop :=
  ∀ (s : State) (w : Fin 8) (x y : Reg) (m : BitVec 3) (gd gs : List Nat), arrayFree s w →
    let W := s.curWick w
    let i := Instr.mseg x y m
    let per := W.capBits / 32
    let count (k : Nat) := elemAt (W.reg (gs.getD (k / per) 0)) 32 (k % per)
    let before (k : Nat) := ((List.range k).map count).sum
    let total := before W.vl.toNat
    W.group? x = some gd → W.group? y = some gs → m ≠ 0 → W.vl.toNat ≤ per → 128 ≤ W.nrows * per → W.nrows ≠ 0 →
    (total ≤ 128 →
      ∃ t, exec i s = .next t ∧
        (∀ p k, p < 128 → k < W.vl.toNat → before k ≤ p → p < before (k + 1) →
          elemAt ((t.curWick w).reg (gd.getD (p / per) 0)) 32 (p % per) = k) ∧
        (∀ p, p < 128 → total ≤ p → elemAt ((t.curWick w).reg (gd.getD (p / per) 0)) 32 (p % per) = 0xFFFFFFFF) ∧
        (∀ p, (tabGet 0 (t.curWick w).masks m.toNat).getLsbD p =
          if p < 128 then decide (p < total) else if p < 384 then true else (tabGet 0 W.masks m.toNat).getLsbD p) ∧
        (∀ n, n ∉ gd → (t.curWick w).reg n = W.reg n) ∧ (t.curWick w).vstart = 0 ∧ SameRegs s.cur s t ∧ OnlyThread s.cur s t ∧
        MovedOn s.cur s t) ∧
    (128 < total → exec i s = .next (trap s s.cur .illegal (BitVec.ofNat 64 total)))

/-- The cores of gang quad `q`. -/
def quadCore (q k : Nat) : Nat := 4 * q + k

/-- 10 R243, R254, R256: MQUAD.J and MQUAD.L wait for the other cores of the quad; once all four wait on one tile that each may own, each wick
owns it, it is joined, or joined no longer, and all complete; a wick that may not own it traps alone; on different tiles all four trap. -/
def QuadJoin : Prop :=
  ∀ (s : State) (w : Fin 8) (a : BitVec 2) (g q : Nat) (wk : Nat → Fin 8) (jn : Nat → Bool) (tile : Nat → Fin 4),
    let owns (k : Nat) := mayOwnIn s g (quadCore q k) (wk k) (BitVec.ofNat 2 (tile 0).val)
    (arrayFree s w → joinedTile s s.cur.gang s.cur.core = none → (curEntry s a).vigil = false →
      (∀ k, k < 4 → quadCore (s.cur.core / 4) k ≤ (s.gang s.cur.gang).desc.ncm1.toNat ∧
        (s.core s.cur.gang (quadCore (s.cur.core / 4) k)).taper.run = .running) →
      ∃ t, exec (.mquadJ a) s = .next t ∧ (t.thread s.cur).wait = some (.mquad true a.toFin) ∧
        curEntry t a = curEntry s a ∧ SameRegs s.cur s t ∧ OnlyTile a s t) ∧
    (arrayFree s w → (joinedTile s s.cur.gang s.cur.core).isSome = true ∨ (curEntry s a).vigil = true →
      exec (.mquadJ a) s = .next (trap s s.cur .illegal (wordOf (.mquadJ a)))) ∧
    (arrayFree s w → joinedTile s s.cur.gang s.cur.core = some a.toFin →
      ∃ t, exec (.mquadL a) s = .next t ∧ (t.thread s.cur).wait = some (.mquad false a.toFin) ∧
        curEntry t a = curEntry s a ∧ SameRegs s.cur s t ∧ OnlyTile a s t) ∧
    (arrayFree s w → joinedTile s s.cur.gang s.cur.core ≠ some a.toFin →
      exec (.mquadL a) s = .next (trap s s.cur .illegal (wordOf (.mquadL a)))) ∧
    ((∀ k, k < 4 → quadWaiter s g (quadCore q k) = some (wk k, jn k, tile k)) →
      ((∀ k, k < 4 → jn k = jn 0 ∧ tile k = tile 0) → (∀ k, k < 4 → owns k = true) →
        ∃ t, exec (.mquadRendezvous g q) s = .next t ∧ joinedTile t g (4 * q) = (if jn 0 then some (tile 0) else none) ∧
          ∀ k, k < 4 → (t.wick g (quadCore q k) (wk k)).vstart = 0 ∧
            (t.core g (quadCore q k)).owners[tile 0] = { (s.core g (quadCore q k)).owners[tile 0] with owner := some (wk k) } ∧
            MovedOn ⟨g, quadCore q k, .wick (wk k)⟩ s t ∧ SameRegs ⟨g, quadCore q k, .wick (wk k)⟩ s t) ∧
      ((∀ k, k < 4 → jn k = jn 0 ∧ tile k = tile 0) → (∃ k, k < 4 ∧ owns k = false) →
        joinedTile s g (4 * q) = none ∨ joinedTile s g (4 * q) = some (tile 0) →
        ∃ t, exec (.mquadRendezvous g q) s = .next t ∧ ∀ k, k < 4 →
          (owns k = true → t.wick g (quadCore q k) (wk k) = s.wick g (quadCore q k) (wk k)) ∧
          (owns k = false → (t.wick g (quadCore q k) (wk k)).isFaulted = true ∧ (t.wick g (quadCore q k) (wk k)).code = Cause.ownership.code ∧
            (t.wick g (quadCore q k) (wk k)).tval = BitVec.ofNat 64 (tile 0).val)) ∧
      ((∃ k, k < 4 ∧ ¬(jn k = jn 0 ∧ tile k = tile 0)) →
        ∃ t, exec (.mquadRendezvous g q) s = .next t ∧ joinedTile t g (4 * q) = none ∧
          ∀ k, k < 4 → (t.wick g (quadCore q k) (wk k)).isFaulted = true ∧ (t.wick g (quadCore q k) (wk k)).code = 1 ∧
            (t.wick g (quadCore q k) (wk k)).tval =
              wordOf (if jn k then .mquadJ (BitVec.ofNat 2 (tile k).val) else .mquadL (BitVec.ofNat 2 (tile k).val))))

/-- 10 R243, R255, R256: four wicks of a quad wait in the same joint step on register groups, equal in vrows, row capacity, k-step mask and
vstart, and none fails a check of its own: core k multiplies A of core 2 (k div 2) with B of core k mod 2 under its own masks. Four that
differ trap illegal; of four that agree the first that fails a later check traps with that check's cause. -/
def JointProduct : Prop :=
  ∀ (s : State) (g q : Nat) (i : Instr) (a : BitVec 2) (x y : Reg) (m : BitVec 3) (fa fb : Nat) (wk : Nat → Fin 8)
    (ins : Nat → Instr) (ga gb : Nat → List Nat),
    let W (k : Nat) := s.wick g (quadCore q k) (wk k)
    let agree := ∀ k, k < 4 → jointKey (W k) (ins k) = jointKey (W 0) (ins 0)
    (∀ k, k < 4 → jointWaiter s g (quadCore q k) = some (wk k, ins k)) →
    (agree → ins 0 = i → regForm i = some (a, x, y, m, fa, fb) →
      (∀ k, k < 4 → (W k).group? x = some (ga k) ∧ (W k).wide? y = some (gb k) ∧ (W k).fetch = none ∧
        mayOwnIn s g (quadCore q k) (wk k) a = true) →
      ∃ t, exec (.jointStep g q) s = .next t ∧ ∀ k, k < 4 →
        (∀ r c, r < 128 → c < 256 → tileCell t g (quadCore q k) a r c =
          if rowOn (W k) m r && colOn (W k) m c then
            cellAfter fa fb (fun n => opElem (W (k / 2 * 2)) (ga (k / 2 * 2)) 128 fa n r) (fun n => opElem (W (k % 2)) (gb (k % 2)) 256 fb n c)
              (stepsOn (W k) (depthOf (W 0) fa fb)) (tileCell s g (quadCore q k) a r c)
          else tileCell s g (quadCore q k) a r c) ∧
        (t.wick g (quadCore q k) (wk k)).vstart = 0 ∧ MovedOn ⟨g, quadCore q k, .wick (wk k)⟩ s t) ∧
    (¬agree →
      ∃ t, exec (.jointStep g q) s = .next t ∧ joinedTile t g (4 * q) = none ∧
        ∀ k, k < 4 → (t.wick g (quadCore q k) (wk k)).isFaulted = true ∧ (t.wick g (quadCore q k) (wk k)).code = 1) ∧
    (∀ n e v, agree → n < 4 → jointTrap s g (quadCore q n) (wk n) (ins 0) = some (e, v) →
      (∀ k, k < n → jointTrap s g (quadCore q k) (wk k) (ins 0) = none) →
      ∃ t, exec (.jointStep g q) s = .next t ∧ (t.wick g (quadCore q n) (wk n)).isFaulted = true ∧
        (t.wick g (quadCore q n) (wk n)).code = e.code ∧ (t.wick g (quadCore q n) (wk n)).tval = v)

/-- The pairs of formats of MXPT (10 R248): both floating, with BF16 in a register; or both 8-bit or both 4-bit integers; or T2 with 8-bit
integers. -/
def mxptFormats (sel : BitVec 2) (fa fb : Nat) : Bool :=
  (fa ≤ 8 && fb ≤ 8 && (bitOf sel 0 || fa == 0) && (bitOf sel 1 || fb == 0)) ||
  ((fa == 9 || fa == 10) && (fb == 9 || fb == 10)) || ((fa == 11 || fa == 12) && (fb == 11 || fb == 12)) ||
  (fa == 13 && (fb == 9 || fb == 10))

/-- 10 R243, R248 to R250, R255, 09 R221, 12 R277, R288: MXPT's checks; the product of one tile line's depth, from what each operand supplies;
a supply that fails: the wick traps with the cause at the failing address, restarts at that k-step, and its engine leaves a fault record; one
that misses or finds no way to pin: the wick waits in the instruction with the operands that it read at issue; one that the agenda leaves
behind (log 3): the wick goes on and the fetch stays the core's. -/
def TileProductResult : Prop :=
  ∀ (s : State) (w : Fin 8) (a sel : BitVec 2) (x y : Reg) (m : BitVec 3) (f h : BitVec 4) (oa ob : MatOperand), arrayFree s w →
    let W := s.curWick w
    let i := Instr.mxpt a sel x y m f h
    let from_ := W.vstart.toNat
    let formed := mxptFormats sel f.toNat h.toNat = true ∧ from_ % 16 = 0
    let checked := formed ∧ isJoined s a = false ∧ mxptAligned W sel x y = true
    let issued := checked ∧ mayOwn s w a = true ∧ matOperands s s.cur.gang s.cur.core w i = .ok (oa, ob)
    let s0 := flushStores ((takeTile s w a).modCurCore fun C => { C with resident := a.toFin }) s.cur
    let F : TileFetch := { instr := i, a := oa, b := ob, joint := false }
    let s1 := (s0.modCur w fun W => { W with fetch := some F }).endWait s.cur
    let vf := s.vfOf s.cur
    let rd := engineReader (s.pcoreNum s.cur) vf
    let get (r : TileRef) (m kl : Nat) (s' : State) := tileLine s.cur.gang s.cur.core vf r.tid r.bidx r.ten m kl rd s'
    let ua : Supply := { core := s.cur.core, wick := w, op := oa, code := f.toNat, lanes := 128 }
    let ub : Supply := { core := s.cur.core, wick := w, op := ob, code := h.toNat, lanes := 256 }
    let depth := W.depth f.toNat h.toNat
    W.fetch = none →
    (¬formed ∨ (isJoined s a = false ∧ mxptAligned W sel x y = false) → exec i s = .next (trap s s.cur .illegal (wordOf i))) ∧
    (formed → isJoined s a = true → exec i s = .next (s.setWait s.cur (.joint i))) ∧
    (checked → mayOwn s w a = false → exec i s = .next (trap s s.cur .ownership (BitVec.ofNat 64 a.toNat))) ∧
    (∀ c v, checked → mayOwn s w a = true → matOperands s s.cur.gang s.cur.core w i = .error (c, v) →
      exec i s = .next (trap s s.cur c (v.getD (wordOf i)))) ∧
    (∀ A B s2 s3, issued → s.late = false → from_ < depth → depth ≤ from_ + 16 → supplyChunk from_ rd get s1 ua = Fetch.ok A s2 →
      supplyChunk from_ rd get s2 ub = Fetch.ok B s3 →
      ∃ t, exec i s = .next t ∧
        (∀ r c, r < 128 → c < 256 → curCell t a r c =
          if rowOn W m r && colOn W m c then
            (kGroups W.kOn (matGroupSize f.toNat h.toNat) from_ depth).foldl (fun v ks => cellGroup f.toNat h.toNat A B r c v ks)
              (curCell s3 a r c)
          else curCell s3 a r c) ∧
        (t.curWick w).vstart = 0 ∧ (t.curWick w).fetch = none ∧ MovedOn s.cur s t ∧ SameRegs s.cur s0 t ∧ t.mem = s3.mem ∧
        (∀ l ∈ t.l2, l.pins.contains (s.cur.gang, s.cur.core) = false)) ∧
    (∀ c va p s2, issued → s.late = false → from_ < depth → supplyChunk from_ rd get s1 ua = Fetch.fail c va p s2 →
      ∃ t, exec i s = .next t ∧ (t.curWick w).isFaulted = true ∧ (t.curWick w).code = c.code ∧ (t.curWick w).tval = va ∧
        (t.curWick w).vstart = W.vstart ∧ (∀ l ∈ t.l2, l.pins.contains (s.cur.gang, s.cur.core) = false) ∧
        (t.vf vf).faults = (s2.vf vf).faults ++
          [{ va := va, ipa := p.ipa, gtag := (s2.gang s.cur.gang).desc.gtag, core := BitVec.ofNat 8 s.cur.core
             who := whoByte s.cur.who true, cause := c.code, kind := 0, place := p.place }]) ∧
    (∀ e va s2, issued → s.late = false → from_ < depth → supplyChunk from_ rd get s1 ua = Fetch.miss e va s2 →
      ∃ t, exec i s = .next t ∧ (t.thread s.cur).wait = some (.page (raiseMiss s2 vf va .read e).1) ∧ (t.curWick w).vstart = W.vstart ∧
        (t.curWick w).fetch = some F) ∧
    (∀ s2, issued → s.late = false → from_ < depth → supplyChunk from_ rd get s1 ua = Fetch.full s2 →
      ∃ t, exec i s = .next t ∧ (t.thread s.cur).wait = some .tile ∧ (t.curWick w).vstart = W.vstart ∧ (t.curWick w).fetch = some F) ∧
    (issued → s.late = true → leaveFetch s0 s.cur w a m f.toNat h.toNat oa ob ≠ none →
      ∃ t, exec i s = .next t ∧ (∃ J, t.curCore.job = some J ∧ J.wick = w ∧ J.tile = a ∧ J.a = oa ∧ J.b = ob ∧ J.k = from_ ∧ J.depth = depth) ∧
        (∀ r c, curCell t a r c = curCell s0 a r c) ∧ (t.curWick w).vstart = 0 ∧ MovedOn s.cur s t ∧ SameRegs s.cur s0 t)

/-- 10 R249, 12 R277, R281, R282: what a tile operand reads: a row of a tile line is the bytes of the tensor's row from its first k element
on, elements outside the tensor zero. A line in the L2 that is not stale is read from there and pinned for the core, unless it has no pin and
its set holds eight pinned lines already: then the fetch waits. One that is not held is filled from its backing bytes, under the same limit,
and pinned; one that waiting fetches want is filled and pinned by TILE_LINE_FILL. -/
def TileLines : Prop :=
  ∀ (s s1 : State) (ten : Tensor) (p vf bidx m0 k0 r g c tid : Nat) (bs : List Byte) (ps : List Nat) (l : L2Line) (w : Fin 8) (ref : TileRef),
    let bits := matWidth ten.fmt
    let across := if bits = 16 ∨ bits = 6 ∨ bits = 8 then 16 else 32
    let n := min across (ten.dim0 - k0)
    let va : Word := ten.base + BitVec.ofNat 64
      ((m0 + r) * ten.stride1 + bidx % ten.dim2 * ten.stride2 + bidx / ten.dim2 * ten.stride3 + k0 * bits / 8)
    let inside := m0 + r < ten.dim1 ∧ k0 < ten.dim0 ∧ bidx / ten.dim2 < ten.dim3
    let rd := engineReader p vf
    let place := tilePlace tid (tileIndex ten bidx m0 k0)
    let room := mayPin s place.1 place.2 = true
    let held (x : L2Line) := x.tag == .tile vf tid bidx m0 k0 && (!x.stale || x.pins.contains (g, c))
    let pinned (t : State) (d : List Byte) := ∃ x ∈ t.l2, x.tag = .tile vf tid bidx m0 k0 ∧ x.data = d ∧ x.pins.contains (g, c) = true
    (ten.fmt ≤ 13 → inside → rd s va ((n * bits + 7) / 8) = Fetch.ok (bs, ps) s1 →
      ∃ row, fetchTileRow ten bidx m0 k0 rd s r = Fetch.ok (row, ps) s1 ∧ row.length = across * bits / 8 ∧ leNat row = leNat bs % 2 ^ (n * bits)) ∧
    (ten.fmt ≤ 13 → ¬inside →
      ∃ row, fetchTileRow ten bidx m0 k0 rd s r = Fetch.ok (row, []) s ∧ row.length = across * bits / 8 ∧ leNat row = 0) ∧
    (s.l2.find? held = some l → l.pins ≠ [] ∨ room →
      ∃ t, tileLine g c vf tid bidx ten m0 k0 rd s = Fetch.ok l.data t ∧ t.mem = s.mem ∧ pinned t l.data) ∧
    (s.l2.find? held = some l → l.pins = [] → ¬room → tileLine g c vf tid bidx ten m0 k0 rd s = Fetch.full s) ∧
    (s.l2.find? held = none → (s.vf vf).wayMask ≠ 0 →
      (room → (chooseWay s vf place.1 place.2).isSome = true → fetchTileData ten bidx m0 k0 rd s = Fetch.ok (bs, ps) s1 →
        (chooseWay s1 vf place.1 place.2).isSome = true →
        ∃ t, tileLine g c vf tid bidx ten m0 k0 rd s = Fetch.ok bs t ∧ t.mem = s1.mem ∧ pinned t bs) ∧
      (¬room → tileLine g c vf tid bidx ten m0 k0 rd s = Fetch.full s)) ∧
    (∀ G, s.gangs = [(g, G)] → G.vf = vf → G.life = .running → (∃ C, G.cores = [(c, C)]) →
      lineWanted s g c w tid bidx m0 k0 = some ref → (∀ v, v < w → lineWanted s g c v tid bidx m0 k0 = none) →
      tileLine g c vf tid bidx ref.ten m0 k0 (engineReader (G.pcore c) vf) s = Fetch.ok bs s1 → exec (.tileLineFill vf tid bidx m0 k0) s = .next s1)

end Sys2Proof.Claims
end

