-- ==== Sys2Proof/Claims/VigilRules.lean ====
section
/-! DEFINITION. Rules of 11 about vigil tiles and their images, and of 12 about the tensor table, as propositions of which the statements
are made. -/

namespace Sys2Proof.Claims

open Sys2Proof.Machine

/-- A vigil form of the acting wick passes checks 1 and 3 of 11 R261: the tile is not joined, and the array is free. -/
def vigilFree (s : State) (w : Fin 8) (a : BitVec 2) : Prop := arrayFree s w ∧ isJoined s a = false

/-- The tile is a vigil that the acting wick owns (11 R261 checks 4 and 5). -/
abbrev ownVigil (s : State) (w : Fin 8) (a : BitVec 2) : Prop := (curEntry s a).owner = some w ∧ (curEntry s a).vigil = true

/-- 11 R261 to R263: MPIN makes a tile a pinned vigil of the dimensions that X[xs] names, MUNPIN an ordinary tile of its owner; what each
traps on. -/
def VigilPinned : Prop :=
  ∀ (s : State) (w : Fin 8) (a : BitVec 2) (x : Reg), arrayFree s w →
    let v := (reg s x).toNat
    (isJoined s a = false → v < 2 ^ 15 → mayOwn s w a = true → (curEntry s a).vigil = false →
      ∃ t, exec (.mpin a x) s = .next t ∧
        (let o := curEntry t a
         o.owner = some w ∧ o.pinned = true ∧ o.vigil = true ∧ o.dk.toNat = v % 256 + 1 ∧ o.dv.toNat = v / 256 + 1 ∧ o.tokens = 0 ∧
         o.hidx = 0 ∧ o.handle = 0) ∧
        t.curCore.tiles = s.curCore.tiles ∧ sweptPlain s t w 0 ∧ OnlyTile a s t) ∧
    (2 ^ 15 ≤ v → exec (.mpin a x) s = .next (trap s s.cur .illegal (reg s x))) ∧
    (isJoined s a = false → v < 2 ^ 15 → mayOwn s w a = false →
      exec (.mpin a x) s = .next (trap s s.cur .ownership (BitVec.ofNat 64 a.toNat))) ∧
    (isJoined s a = false → v < 2 ^ 15 → mayOwn s w a = true → (curEntry s a).vigil = true →
      exec (.mpin a x) s = .next (trap s s.cur .illegal (wordOf (.mpin a x)))) ∧
    (isJoined s a = false → ownVigil s w a →
      ∃ t, exec (.munpin a) s = .next t ∧
        (let o := curEntry t a
         o.owner = some w ∧ o.pinned = false ∧ o.vigil = false ∧ o.tokens = 0 ∧ o.hidx = 0 ∧ o.handle = 0) ∧
        t.curCore.tiles = s.curCore.tiles ∧ sweptPlain s t w 0 ∧ OnlyTile a s t) ∧
    (isJoined s a = false → mayOwn s w a = false →
      exec (.munpin a) s = .next (trap s s.cur .ownership (BitVec.ofNat 64 a.toNat))) ∧
    (isJoined s a = false → mayOwn s w a = true → (curEntry s a).owner = none ∨ (curEntry s a).vigil = false →
      exec (.munpin a) s = .next (trap s s.cur .illegal (wordOf (.munpin a)))) ∧
    (isJoined s a = true → (v < 2 ^ 15 → exec (.mpin a x) s = .next (trap s s.cur .illegal (wordOf (.mpin a x)))) ∧
      exec (.munpin a) s = .next (trap s s.cur .illegal (wordOf (.munpin a))))

/-- An exact sum of values in order; +0 when there are none (03 R74). -/
def exactSum : List FVal → FVal
  | [] => .fin false 0 0
  | v :: vs => vs.foldl (fun x y => (addExact .rne x y).1) v

/-- An exact value rounded once to F32 (11 R264). -/
def onceF32 (v : FVal) : Nat := (roundTo fmtF32 .rne v).1

/-- A cell of the state after one token (11 R264): u is the rounded product of the row with the key, w the rounded
beta v - alpha beta u, and the cell becomes alpha S + w k, rounded once. -/
def deltaCell (al be : FVal) (dk : Nat) (k : Nat → FVal) (v : FVal) (row : Nat → Nat) (j : Nat) : Nat :=
  let u := decodeFloat fmtF32 (onceF32 (exactSum ((List.range dk).map fun n => (mulExact (decodeFloat fmtF32 (row n)) (k n)).1)))
  let w := decodeFloat fmtF32 (onceF32 (addExact .rne (mulExact be v).1 (mulExact (mulExact al be).1 u).1.negate).1)
  onceF32 (addExact .rne (mulExact al (decodeFloat fmtF32 (row j))).1 (mulExact w (k j)).1).1

/-- The cells after `n` tokens (11 R264): token t takes key elements 256t on and value elements 128t on. -/
def stateAfter (F : FloatFmt) (al be : FVal) (dk dv : Nat) (key val : Nat → Nat) : Nat → (Nat → Nat → Nat) → Nat → Nat → Nat
  | 0, S => S
  | n + 1, S => fun i j =>
    let P := stateAfter F al be dk dv key val n S
    if i < dv ∧ j < dk then
      deltaCell al be dk (fun c => decodeFloat F (key (n * 256 + c))) (decodeFloat F (val (n * 128 + i))) (P i) j
    else P i j

/-- Element `p` of a group, a row capacity of elements from each register. -/
def groupElem (W : Wick) (g : List Nat) (p : Nat) : Nat := cell W (g.getD (p / W.cap) 0) (p % W.cap)

/-- The output of row `i` of a token: the exact product of its state with the query, rounded once to the element type under the mode of its
position (11 R264, R265). -/
def outputOf (W : Wick) (dk n i : Nat) (query : Nat → Nat) (S : Nat → Nat → Nat) : Flagged :=
  roundTo (floatOf W.et) (laneMode W.th (n * 128 + i))
    (exactSum ((List.range dk).map fun j => (mulExact (decodeFloat fmtF32 (S i j)) (decodeFloat (floatOf W.et) (query (n * 256 + j)))).1))

/-- Outputs in a group: token n's row i at position 128n + i, other elements and registers as before, their flags raised, vstart 0,
masks as before, and the draws of all vl × 128 positions (11 R264, R265). -/
def wroteOutputs (W T : Wick) (g : List Nat) (dv : Nat) (out : Nat → Nat → Flagged) (present : Bool) : Prop :=
  (∀ p, p < W.nrows * W.cap →
    groupElem T g p =
      if present = true ∧ p / 128 < W.vl.toNat ∧ p % 128 < dv then (out (p / 128) (p % 128)).1 % 2 ^ W.esize else groupElem W g p) ∧
  (∀ n, n ∉ g → T.reg n = W.reg n) ∧
  (∀ k, bitOf T.th.fflags k = true ↔ bitOf W.th.fflags k = true ∨
    ∃ n i, present = true ∧ n < W.vl.toNat ∧ i < min dv 128 ∧ bitOf (out n i).2 k = true) ∧
  T.masks = W.masks ∧ T.vstart = 0 ∧
  T.th.rctr = W.th.rctr + (if present = true ∧ W.th.rm = 5 then BitVec.ofNat 64 (W.vl.toNat * 128) else 0)

/-- 11 R261, R264, R265: MDELTA applies its tokens in order to the vigil's first dv rows and dk columns, MDELTA.Q gives each token's output
as well, and both count their tokens; what they trap on. -/
def DeltaResult : Prop :=
  ∀ (s : State) (w : Fin 8) (a : BitVec 2) (x y c z : Reg) (q : Bool) (gk gv gq : List Nat), vigilFree s w a →
    let W := s.curWick w
    let i := if q then Instr.mdeltaQ a x y c z else Instr.mdelta a x y c
    let o := curEntry s a
    let al := decodeFloat fmtF32 ((reg s c).toNat % 2 ^ 32)
    let be := decodeFloat fmtF32 ((reg s (c + 1)).toNat % 2 ^ 32)
    let groups := W.wide? x = some gk ∧ W.group? y = some gv ∧ (if q then W.wide? z = some gq else gq = [])
    let formed := isFloatEt W.et = true ∧ W.vl.toNat ≤ W.nrows * W.cap / 128
    let apart := ∀ n ∈ gv, n ∉ gk ∧ n ∉ gq
    let S (n : Nat) := stateAfter (floatOf W.et) al be (min o.dk.toNat 256) o.dv.toNat (groupElem W gk) (groupElem W gv) n (curCell s a)
    (groups → formed → apart → ownVigil s w a → W.cap ≠ 0 →
      ∃ t, exec i s = .next t ∧ (∀ r j, r < 128 → j < 256 → curCell t a r j = S W.vl.toNat r j) ∧
        wroteOutputs W (t.curWick w) gv o.dv.toNat (fun n r => outputOf W (min o.dk.toNat 256) n r (groupElem W gq) (S (n + 1))) q ∧
        curEntry t a =
          { o with tokens := o.tokens + BitVec.ofNat 64 W.vl.toNat, hidx := o.hidx + (if W.vl.toNat = 0 then 0 else 1) } ∧
        t.curCore.resident = a.toFin ∧ SameRegs s.cur s t ∧ OnlyTile a s t ∧ MovedOn s.cur s t) ∧
    (groups → ¬formed → exec i s = .next (trap s s.cur .illegal (wordOf i))) ∧
    (groups → formed → ¬apart → exec i s = .next (trap s s.cur .groupOverlap (wordOf i))) ∧
    (groups → formed → apart → mayOwn s w a = false → exec i s = .next (trap s s.cur .ownership (BitVec.ofNat 64 a.toNat))) ∧
    (groups → formed → apart → mayOwn s w a = true → ¬ownVigil s w a → exec i s = .next (trap s s.cur .illegal (wordOf i)))

/-- 11 R261, R265: MREADQ gives the product of the state with each query and leaves the state; what it traps on. -/
def ReadQueryResult : Prop :=
  ∀ (s : State) (w : Fin 8) (a : BitVec 2) (x y : Reg) (gq go : List Nat), vigilFree s w a →
    let W := s.curWick w
    let i := Instr.mreadq a x y
    let o := curEntry s a
    let groups := W.wide? x = some gq ∧ W.group? y = some go
    let formed := isFloatEt W.et = true ∧ W.vl.toNat ≤ W.nrows * W.cap / 128
    let apart := ∀ n ∈ go, n ∉ gq
    (groups → formed → apart → ownVigil s w a → W.cap ≠ 0 →
      ∃ t, exec i s = .next t ∧ t.curCore.tiles = s.curCore.tiles ∧ t.curCore.owners = s.curCore.owners ∧
        wroteOutputs W (t.curWick w) go o.dv.toNat (fun n r => outputOf W (min o.dk.toNat 256) n r (groupElem W gq) (curCell s a)) true ∧
        t.curCore.resident = a.toFin ∧ SameRegs s.cur s t ∧ OnlyTile a s t ∧ MovedOn s.cur s t) ∧
    (groups → ¬formed → exec i s = .next (trap s s.cur .illegal (wordOf i))) ∧
    (groups → formed → ¬apart → exec i s = .next (trap s s.cur .groupOverlap (wordOf i))) ∧
    (groups → formed → apart → mayOwn s w a = false → exec i s = .next (trap s s.cur .ownership (BitVec.ofNat 64 a.toNat))) ∧
    (groups → formed → apart → mayOwn s w a = true → ¬ownVigil s w a → exec i s = .next (trap s s.cur .illegal (wordOf i)))

/-- `n` bytes from an address that one cached translation serves to the acting thread, with room for their lines at the L2 or on the links,
without a race. -/
def plainRange (s : State) (x : TlbEntry) (va n : Nat) (k : Kind) : Prop :=
  va + n ≤ 2 ^ 64 ∧ servedBy s x va n k ∧
  ∀ j, j < n → l2Room s (s.vfOf s.cur) (under x va + j) = true ∧
    raceAt s s.cur { x.out (BitVec.ofNat 64 va) with pa := under x va + j } = false

/-- Queued bytes from a physical address on. -/
def queuedBytes (pa : Nat) (bs : List Byte) : List PendByte := (bs.zip (List.range bs.length)).map fun b => { pa := pa + b.2, mask := 0xFF, val := b.1 }

/-- 11 R261, R267, R268: MSPILL queues the rows of the image from vstart on and then its header; the tile is the wick's and remembers the
image, or with .R is cleared and free. Another wick's tile, an address off 256 and a vstart past 128 trap. -/
def SpillResult : Prop :=
  ∀ (s : State) (w : Fin 8) (a : BitVec 2) (x : Reg) (rel : Bool) (e : TlbEntry), vigilFree s w a →
    let W := s.curWick w
    let i := if rel then Instr.mspillR a x else Instr.mspill a x
    let b := reg s x
    let v := W.vstart.toNat
    let T := s.curCore.tiles[a.toFin]
    (v ≤ 128 → mayOwn s w a = true → b.toNat % 256 = 0 → plainRange s e b.toNat 131328 .write →
      ∃ t ps, exec i s = .next t ∧ (t.thread s.cur).pend = (s.thread s.cur).pend ++ ps ∧ (∀ p ∈ ps, p.vector = true) ∧
        ps.flatMap (·.bytes) =
          queuedBytes (under e b.toNat + 256 + 1024 * v) (((List.range 128).drop v).flatMap (tileRowBytes T)) ++
          queuedBytes (under e b.toNat) (spillHeader s s.cur.gang s.cur.core a.toFin w false b) ∧
        (rel = false → curEntry t a = { curEntry s a with owner := some w, handle := b } ∧ t.curCore.tiles = s.curCore.tiles) ∧
        (rel = true → curEntry t a = Owner.free ∧ ∀ r c, curCell t a r c = 0) ∧ (t.curWick w).vstart = 0 ∧ SameRegs s.cur s t ∧
        MovedOn s.cur s t ∧ t.mem = s.mem) ∧
    (128 < v → exec i s = .next (trap s s.cur .illegal (wordOf i))) ∧
    (v ≤ 128 → mayOwn s w a = false → exec i s = .next (trap s s.cur .ownership (BitVec.ofNat 64 a.toNat))) ∧
    (v ≤ 128 → mayOwn s w a = true → b.toNat % 256 ≠ 0 → exec i s = .next (trap s s.cur .misaligned b))

/-- 08 R205, 11 R261, R269: MFILL reads the image through its wick's own queued vector stores and replaces the tile and its entry by a verified
image's; one that does not verify traps and changes neither. -/
def FillResult : Prop :=
  ∀ (s : State) (w : Fin 8) (a : BitVec 2) (x : Reg) (e : TlbEntry), vigilFree s w a → noFlights s →
    let i := Instr.mfill a x
    let b := reg s x
    let bs := (natsFrom (under e b.toNat) 131328).map fun k => seenByte (s.thread s.cur).pend k (memByte s.mem k)
    let reads := mayOwn s w a = true ∧ b.toNat % 256 = 0 ∧ plainRange s e b.toNat 131328 .read ∧
      ∀ j, j < 131328 → readable s (under e b.toNat + j)
    (∀ im, reads → readImage bs w b = some im →
      ∃ t, exec i s = .next t ∧ t.curCore.tiles[a.toFin] = im.tile ∧ curEntry t a = im.entry ∧ (t.curWick w).vstart = 0 ∧
        SameRegs s.cur s t ∧ MovedOn s.cur s t ∧ SeenAlike s t) ∧
    (reads → readImage bs w b = none →
      ∃ t, exec i s = .next t ∧ (t.curWick w).isFaulted = true ∧ (t.curWick w).code = 12 ∧ (t.curWick w).tval = b ∧
        t.curCore.tiles = s.curCore.tiles ∧ curEntry t a = curEntry s a ∧ SeenAlike s t) ∧
    (mayOwn s w a = false → exec i s = .next (trap s s.cur .ownership (BitVec.ofNat 64 a.toNat))) ∧
    (mayOwn s w a = true → b.toNat % 256 ≠ 0 → exec i s = .next (trap s s.cur .misaligned b))

/-- 11 R267, R269: the image that a spill writes verifies, and gives back every cell and the vigil's dimensions and counts, for whichever
wick fills it. -/
def ImageRoundTrip : Prop :=
  ∀ (s : State) (g c : Nat) (a : Fin 4) (w v : Fin 8) (evict : Bool) (b h : Word),
    let o := (s.core g c).owners[a]
    let T := (s.core g c).tiles[a]
    o.vigil = o.pinned → (o.vigil = true → 1 ≤ o.dk.toNat ∧ o.dk.toNat ≤ 256 ∧ 1 ≤ o.dv.toNat ∧ o.dv.toNat ≤ 128) →
    ∃ im, readImage (spillHeader s g c a w evict b ++ tileBytes T) v h = some im ∧
      (∀ i j, i < 128 → j < 256 → im.tile.cell i j = T.cell i j) ∧
      im.entry =
        { owner := some v, pinned := o.vigil, vigil := o.vigil, dk := if o.vigil then o.dk else 0, dv := if o.vigil then o.dv else 0
          tokens := if o.vigil then o.tokens else 0, hidx := if o.vigil then o.hidx else 0, handle := h }

/-- A value names a tensor table entry of the acting VF's blocks (12 R287). -/
abbrev namesTensor (s : State) (v : Word) : Prop := v.toNat < 2 ^ 13 ∧ tabGet? s.tensorBlocks (v.toNat / 64) = some (s.vfOf s.cur)

/-- The limits of a descriptor's fields (12 R285). -/
abbrev descriptorKeeps (f : Nat → Nat → Nat) : Prop :=
  let mx := 6 ≤ f 16 1 ∧ f 16 1 ≤ 8
  f 0 8 % 256 = 0 ∧ (mx ∨ f 8 8 = 0) ∧ f 16 1 ≤ 13 ∧ 1 ≤ f 17 1 ∧ f 17 1 ≤ 4 ∧ f 18 6 = 0 ∧
  1 ≤ f 24 4 ∧ f 24 4 ≤ 65536 ∧ 1 ≤ f 28 4 ∧ f 28 4 ≤ 65536 ∧ (2 ≤ f 17 1 ∨ f 28 4 = 1) ∧ 1 ≤ f 32 4 ∧ (3 ≤ f 17 1 ∨ f 32 4 = 1) ∧
  1 ≤ f 36 4 ∧ (4 ≤ f 17 1 ∨ f 36 4 = 1) ∧ f 32 4 * f 36 4 ≤ 65536 ∧
  f 40 8 % 64 = 0 ∧ (2 ≤ f 17 1 ∨ f 40 8 = 0) ∧ f 48 8 % 64 = 0 ∧ (3 ≤ f 17 1 ∨ f 48 8 = 0) ∧
  f 56 8 % 64 = 0 ∧ (4 ≤ f 17 1 ∨ f 56 8 = 0)

/-- After vector stores are performed in `s1`, the tile lines that `hit` names are gone, or stale while a tile fetch pins them; every other
line stays (12 R287). -/
def linesDropped (s1 t : State) (hit : Nat → Nat → Prop) : Prop :=
  ∀ l, l ∈ t.l2 ↔ ∃ k ∈ s1.l2,
    ((∃ vf tid b m n, k.tag = .tile vf tid b m n ∧ hit vf tid) ∧ k.pins ≠ [] ∧ l = { k with stale := true }) ∨
    ((¬∃ vf tid b m n, k.tag = .tile vf tid b m n ∧ hit vf tid) ∧ l = k)

/-- 12 R285, R287: TDEF reads a descriptor, after the wick's own accesses to its bytes, into its entry, performs the wick's vector stores and
drops the entry's tile lines; what it traps on. -/
def TensorDefined : Prop :=
  ∀ (s : State) (w : Fin 8) (x y : Reg) (X : Xlat) (s1 : State), s.cur.who = .wick w →
    let id := reg s y
    let s2 := flushWhere s1 s.cur (·.meets (vectorAt X.pa 64))
    let d := memRead s2.mem X.pa 64
    let f (lo n : Nat) := d / 2 ^ (8 * lo) % 2 ^ (8 * n)
    let reads := namesTensor s id ∧ (reg s x).toNat % 64 = 0 ∧ threadXlat s s.cur (reg s x) .read = .ok X s1 ∧ readable s1 X.pa
    (reads → descriptorKeeps f →
      ∃ t e, exec (.tdef x y) s = .next t ∧ tabGet? t.tensors id.toNat = some e ∧
        e.base.toNat = f 0 8 ∧ e.scalebase.toNat = f 8 8 ∧ e.fmt = f 16 1 ∧ e.rank = f 17 1 ∧ e.dim0 = f 24 4 ∧ e.dim1 = f 28 4 ∧
        e.dim2 = f 32 4 ∧ e.dim3 = f 36 4 ∧ e.stride1 = f 40 8 ∧ e.stride2 = f 48 8 ∧ e.stride3 = f 56 8 ∧
        (∀ k, k ≠ id.toNat → tabGet? t.tensors k = tabGet? s1.tensors k) ∧
        (∀ l ∈ t.l2, ∀ b m n, l.tag = .tile (s.vfOf s.cur) id.toNat b m n → l.stale = true ∧ l.pins ≠ []) ∧
        (∀ p ∈ (t.thread s.cur).pend, p.vector = true → p.load ≠ none) ∧ SameRegs s.cur (flushVector s2 s.cur) t ∧
        MovedOn s.cur s t) ∧
    (reads → ¬descriptorKeeps f →
      ∃ t, exec (.tdef x y) s = .next t ∧ (t.curWick w).isFaulted = true ∧ (t.curWick w).code = 1 ∧ (t.curWick w).tval = reg s x ∧
        t.tensors = s1.tensors) ∧
    (¬namesTensor s id → exec (.tdef x y) s = .next (trap s s.cur .tensorId id)) ∧
    (namesTensor s id → (reg s x).toNat % 64 ≠ 0 → exec (.tdef x y) s = .next (trap s s.cur .misaligned (reg s x)))

/-- The bytes of a tensor, and of its scales, in exact arithmetic (12 R286, R287). -/
def backs (e : Tensor) (a : Nat) : Prop :=
  (∃ k, k < (e.dim1 - 1) * e.stride1 + (e.dim2 - 1) * e.stride2 + (e.dim3 - 1) * e.stride3 + (e.dim0 * matWidth e.fmt + 7) / 8 ∧
    a = e.base.toNat + k) ∨
  (6 ≤ e.fmt ∧ e.fmt ≤ 8 ∧ ∃ k, k < e.dim3 * e.dim2 * e.dim1 * ((e.dim0 + 31) / 32) ∧ a = e.scalebase.toNat + k)

/-- 12 R287: TINV drops the tile lines of one entry, TSYNC those of every entry of the VF's blocks that some byte of the range backs; both
after the wick's vector stores. -/
def TensorLinesDropped : Prop :=
  ∀ (s : State) (w : Fin 8) (x y : Reg), s.cur.who = .wick w →
    let s1 := flushVector s s.cur
    let met (id : Nat) (e : Tensor) := tabGet? s.tensorBlocks (id / 64) = some (s.vfOf s.cur) ∧
      ∃ j, j < (reg s y).toNat ∧ backs e ((reg s x).toNat + j)
    let hit (vf tid : Nat) := vf = s.vfOf s.cur ∧ ∃ e, (tid, e) ∈ s.tensors ∧ met tid e
    (namesTensor s (reg s x) →
      ∃ t, exec (.tinv x) s = .next t ∧ linesDropped s1 t (fun vf tid => vf = s.vfOf s.cur ∧ tid = (reg s x).toNat) ∧
        t.mem = s1.mem ∧ t.tensors = s.tensors ∧ SameRegs s.cur s1 t ∧ MovedOn s.cur s t) ∧
    (¬namesTensor s (reg s x) → exec (.tinv x) s = .next (trap s s.cur .tensorId (reg s x))) ∧
    ((∃ vf tid, hit vf tid) →
      ∃ t, exec (.tsync x y) s = .next t ∧ linesDropped s1 t hit ∧ t.mem = s1.mem ∧ t.tensors = s.tensors ∧ SameRegs s.cur s1 t ∧
        MovedOn s.cur s t) ∧
    ((∀ vf tid, ¬hit vf tid) → exec (.tsync x y) s = .next (s.done s.cur)) ∧
    (∀ p ∈ (s1.thread s.cur).pend, p.vector = true → p.load ≠ none)

/-- 01 R15, 12 R287: the tensor forms trap in the taper. -/
def TensorTaper : Prop :=
  ∀ (s : State) (x y : Reg), s.cur.who = .taper →
    exec (.tdef x y) s = .next (trap s s.cur .illegal (wordOf (.tdef x y))) ∧
    exec (.tinv x) s = .next (trap s s.cur .illegal (wordOf (.tinv x))) ∧
    exec (.tsync x y) s = .next (trap s s.cur .illegal (wordOf (.tsync x y)))

end Sys2Proof.Claims
end

