-- ==== Sys2Proof/Claims/CopyRules.lean ====
section
/-! DEFINITION. Rules of 13 about the copy channels, as propositions of which the statements are made. -/

namespace Sys2Proof.Claims

open Sys2Proof.Machine

/-- A channel of a core. -/
def chanOf (s : State) (g c : Nat) (ch : Fin 4) : Chan := (s.core g c).chans[ch]

/-- 13 R299, R300: copy order: elements of a row first, then fields, records or rows, and the two outer dimensions; where each element's row
stands in the source and in the destination. -/
def CopyOrder : Prop :=
  ∀ (c : CopySetup) (i0 f i1 i2 i3 q : Nat),
    let h := c.shape
    let x : CopyIndex := { i0 := i0, f := f, i1 := i1, i2 := i2, i3 := i3 }
    let ss (n : Fin 4) : Int := (c.str[n].extractLsb' 0 32).toInt
    let ds (n : Fin 4) : Int := (c.str[n].extractLsb' 32 32).toInt
    (h.d0 = c.dim[(0 : Fin 4)].toNat ∧ h.d1 = c.dim[(1 : Fin 4)].toNat ∧ h.d2 = c.dim[(2 : Fin 4)].toNat ∧ h.d3 = c.dim[(3 : Fin 4)].toNat ∧
      h.nf = if bitOf c.xf 0 then (c.xf.extractLsb' 4 3).toNat + 1 else 1) ∧
    (i0 < h.d0 → f < h.nf → i1 < h.d1 → i2 < h.d2 → i3 < h.d3 →
      h.index (i0 + h.d0 * (f + h.nf * (i1 + h.d1 * (i2 + h.d2 * i3)))) = x ∧
      i0 + h.d0 * (f + h.nf * (i1 + h.d1 * (i2 + h.d2 * i3))) < h.total) ∧
    (bitOf c.xf 0 = false →
      c.srcRow x = c.src + BitVec.ofInt 64 (i1 * ss 1 + i2 * ss 2 + i3 * ss 3) ∧
      c.dstRow x q = c.dst + BitVec.ofInt 64 (i1 * ds 1 + i2 * ds 2 + i3 * ds 3)) ∧
    (bitOf c.xf 0 = true → bitOf c.xf 8 = false →
      c.srcRow x = c.src + BitVec.ofInt 64 (f * ss 0 + i1 * ss 1 + i2 * ss 2 + i3 * ss 3) ∧
      c.dstRow x q = c.dst + BitVec.ofInt 64 (f * ds 0 + q * ds 1 + i2 * ds 2 + i3 * ds 3)) ∧
    (bitOf c.xf 0 = true → bitOf c.xf 8 = true →
      c.srcRow x = c.src + BitVec.ofInt 64 (f * ss 0 + i1 * ss 1 + i2 * ss 2) ∧
      c.dstRow x q = c.dst + BitVec.ofInt 64 (f * ds 0 + q * ds 1 + i2 * ds 2))

/-- A copy that has failed: its channel holds its cause and identifier and no copy, and its VF a fault record of its engine (13 R305). -/
def copyFailed (s t : State) (g c : Nat) (ch : Fin 4) (y : Copy) (e : Cause) (va : Word) (k : Kind) (p : FaultPlace) : Prop :=
  (chanOf t g c ch).queue = [] ∧ (chanOf t g c ch).error = some (e.code, y.id) ∧
  (t.vf (s.gang g).vf).faults = (s.vf (s.gang g).vf).faults ++
    [{ va := va, ipa := p.ipa, gtag := (s.gang g).desc.gtag, core := BitVec.ofNat 8 c, who := whoByte y.who true, cause := e.code
       kind := BitVec.ofNat 8 k.num, place := p.place }]

/-- 13 R301, R304, R305: a chunk converts the elements that lie in one granule of each side, writes their bits and no others, raises their
flags at the launching thread, and counts them; the last one of a copy without a flag ends it; a failing access ends the copy and
discards those behind it; one that finds no room at the L2 or on the links waits with nothing written (12 R277). Bytes that are the copy's
own source are left open (log 6). -/
def ChunkCopied : Prop :=
  ∀ (s s1 s2 s3 : State) (g c : Nat) (ch : Fin 4) (y : Copy) (ys : List Copy) (qs bs : List Byte) (X : Xlat),
    let st := y.setup
    let vf := (s.gang g).vf
    let p := (s.gang g).pcore c
    let h := st.shape
    let x := h.index y.done
    let ms := mfmtBits st.sfmt
    let md := mfmtBits st.dfmt
    let n := min (inChunk (st.srcRow x) x.i0 ms (h.d0 - x.i0)) (inChunk (st.dstRow x (leNat qs)) x.i0 md (h.d0 - x.i0))
    let src := rowBytes (st.srcRow x) x.i0 ms n
    let dst := rowBytes (st.dstRow x (leNat qs)) x.i0 md n
    let s0 := s.modHead g c ch fun y => { y with started := true }
    let ready := enginesRun s g = true ∧ (chanOf s g c ch).queue = y :: ys ∧ y.wait = none
    let elem (k : Nat) := leNat bs / 2 ^ src.2.1 / 2 ^ (ms * k) % 2 ^ ms
    let conv (k : Nat) : Flagged :=
      if st.sfmt = 0 ∨ st.dfmtRaw = 0 then (elem k, 0) else convert (mfmtFmt st.sfmt) (mfmtFmt st.dfmt) (modeOf y.rm 0) (elem k)
    let last := y.done + n = h.total ∧ st.flag = 0
    (ready → y.done < h.total → copySlot s0 p vf st x = .ok qs s1 → engineRead s1 p vf src.1 src.2.2 = .ok bs s2 →
      xlatRange p vf .write 3 s2 dst.1 dst.2.2 [] = .ok [(dst.1, X, dst.2.2)] s3 → rangeRoom s3 vf X.pa dst.2.2 = true →
      ∃ t, exec (.copyChunk g c ch) s = .next t ∧
        (∀ b, b < 8 * dst.2.2 → ownSource st (dst.1 + BitVec.ofNat 64 (b / 8)) = false →
          (memByte t.mem (X.pa + b / 8)).getLsbD (b % 8) =
            if dst.2.1 ≤ b ∧ b < dst.2.1 + n * md then ((conv ((b - dst.2.1) / md)).1).testBit ((b - dst.2.1) % md)
            else (memByte s3.mem (X.pa + b / 8)).getLsbD (b % 8)) ∧
        SameMemOutside X.pa dst.2.2 s3 t ∧
        (last → (chanOf t g c ch).queue = (chanOf s3 g c ch).queue.tail) ∧
        (¬last → ∃ z zs, (chanOf s3 g c ch).queue = z :: zs ∧ (chanOf t g c ch).queue = { z with done := z.done + n } :: zs) ∧
        (∀ k, bitOf (t.thread (y.thread g c)).fflags k = true ↔ bitOf (s3.thread (y.thread g c)).fflags k = true ∨
          ∃ j, j < n ∧ bitOf (conv j).2 k = true)) ∧
    (ready → y.done < h.total → copySlot s0 p vf st x = .ok qs s1 →
      (engineRead s1 p vf src.1 src.2.2 = .full s2 → exec (.copyChunk g c ch) s = .next s2) ∧
      (engineRead s1 p vf src.1 src.2.2 = .ok bs s2 →
        xlatRange p vf .write 3 s2 dst.1 dst.2.2 [] = .ok [(dst.1, X, dst.2.2)] s3 → rangeRoom s3 vf X.pa dst.2.2 = false →
        exec (.copyChunk g c ch) s = .next (noRoom s3 vf X.pa))) ∧
    (∀ e va pl, ready → y.done < h.total → copySlot s0 p vf st x = .fail e va pl s1 →
      ∃ t, exec (.copyChunk g c ch) s = .next t ∧ copyFailed s1 t g c ch y e va .read pl) ∧
    (∀ e va pl, ready → y.done < h.total → copySlot s0 p vf st x = .ok qs s1 → engineRead s1 p vf src.1 src.2.2 = .fail e va pl s2 →
      ∃ t, exec (.copyChunk g c ch) s = .next t ∧ copyFailed s2 t g c ch y e va .read pl) ∧
    (∀ e va pl, ready → y.done < h.total → copySlot s0 p vf st x = .ok qs s1 → engineRead s1 p vf src.1 src.2.2 = .ok bs s2 →
      xlatRange p vf .write 3 s2 dst.1 dst.2.2 [] = .fail e va pl s3 →
      ∃ t, exec (.copyChunk g c ch) s = .next t ∧ copyFailed s3 t g c ch y e va .write pl) ∧
    (ready → h.total ≤ y.done → st.flag = 0 → ∃ t, exec (.copyChunk g c ch) s = .next t ∧ (chanOf t g c ch).queue = ys ∧ t.mem = s.mem)

/-- 13 R304, R305: the flag of a copy whose elements are done is stored, or added modulo 2^32, and the copy ends; a flag that fails ends it
with its error, and one that finds no room at the L2 or on the links waits (12 R277). -/
def FlagWritten : Prop :=
  ∀ (s s1 : State) (g c : Nat) (ch : Fin 4) (y : Copy) (ys : List Copy) (X : Xlat),
    let st := y.setup
    let vf := (s.gang g).vf
    let k : Kind := if bitOf st.xf 29 then .rmw else .write
    let s0 := s.modHead g c ch fun y => { y with started := true }
    let ready := enginesRun s g = true ∧ (chanOf s g c ch).queue = y :: ys ∧ y.wait = none ∧ st.shape.total ≤ y.done ∧ st.flag ≠ 0
    (ready → translate s0 ((s.gang g).pcore c) vf st.flag k false = (.ok X, s1) → (bitOf st.xf 29 = true → readable s1 X.pa) →
      (l2Room s1 vf X.pa = false → exec (.copyFlag g c ch) s = .next (noRoom s1 vf X.pa)) ∧
      (l2Room s1 vf X.pa = true → ∃ t, exec (.copyFlag g c ch) s = .next t ∧
        memRead t.mem X.pa 4 =
          (if bitOf st.xf 29 then memRead s1.mem X.pa 4 + (st.xf.extractLsb' 32 32).toNat else (st.xf.extractLsb' 32 32).toNat) % 2 ^ 32 ∧
        SameMemOutside X.pa 4 s1 t ∧ (chanOf t g c ch).queue = (chanOf s1 g c ch).queue.tail)) ∧
    (ready → translate s0 ((s.gang g).pcore c) vf st.flag k false = (.ok X, s1) → bitOf st.xf 29 = true → poisoned s1 X.pa = true →
      ∃ t, exec (.copyFlag g c ch) s = .next t ∧ copyFailed s1 t g c ch y .poison st.flag k { ipa := X.ipa, place := 0 }) ∧
    (ready → translate s0 ((s.gang g).pcore c) vf st.flag k false = (.ok X, s1) → bitOf st.xf 29 = true → poisoned s1 X.pa = false →
      hostRefuses s1 X.pa = true →
      ∃ t, exec (.copyFlag g c ch) s = .next t ∧ copyFailed s1 t g c ch y .protection st.flag k { ipa := X.ipa, place := 0 }) ∧
    (∀ e pl, ready → translate s0 ((s.gang g).pcore c) vf st.flag k false = (.fail e pl, s1) →
      ∃ t, exec (.copyFlag g c ch) s = .next t ∧ copyFailed s1 t g c ch y e st.flag k pl)

/-- The channels that a CPDRAIN names (13 R307). -/
def namedChans (c : Reg) : List (Fin 4) := if c.toNat = 4 then [0, 1, 2, 3] else [fin4 c.toNat]

/-- 13 R307, R308, 04 R101: CPDRAIN waits for the copies that its channels hold, is an acquire, and returns the lowest-numbered channel's
error, which it clears, or 0. -/
def CopiesDrained : Prop :=
  ∀ (s : State) (d c : Reg) (u : Tid) (chans ids : List Nat),
    let returned (s t : State) (v : Tid) (d : Reg) (ns : List (Fin 4)) :=
      (t.pcoreOf (s.pcoreNum v)).dcache = [] ∧ OtherRegs v d s t ∧ MovedOn v s t ∧
      ((∀ n ∈ ns, (chanOf s v.gang v.core n).error = none) → Holds v t d 0) ∧
      (∀ pre n post cause id, ns = pre ++ n :: post → (∀ k ∈ pre, (chanOf s v.gang v.core k).error = none) →
        (chanOf s v.gang v.core n).error = some (cause, id) →
        Holds v t d (BitVec.ofNat 64 (cause.toNat * 2 ^ 32 + n.val * 2 ^ 16 + id.toNat)) ∧ (chanOf t v.gang v.core n).error = none)
    (c.toNat ≤ 4 → (∀ n ∈ namedChans c, (chanOf s s.cur.gang s.cur.core n).queue = []) →
      ∃ t, exec (.cpdrain d c) s = .next t ∧ returned s t s.cur d (namedChans c)) ∧
    (c.toNat ≤ 4 → (∃ n ∈ namedChans c, (chanOf s s.cur.gang s.cur.core n).queue ≠ []) →
      ∃ t held, exec (.cpdrain d c) s = .next t ∧ (t.thread s.cur).wait = some (.cpdrain d ((namedChans c).map (·.val)) held) ∧
        (∀ k, k ∈ held ↔ ∃ n ∈ namedChans c, ∃ y ∈ (chanOf s s.cur.gang s.cur.core n).queue, y.id.toNat = k) ∧ SameRegs s.cur s t) ∧
    (∀ rd, (s.thread u).wait = some (.cpdrain rd chans ids) → (∀ n ∈ chans, n < 4) →
      (∀ n ∈ chans, ∀ y ∈ (chanOf s u.gang u.core (fin4 n)).queue, y.id.toNat ∉ ids) →
      ∃ t, exec (.cpdrainReturn u) s = .next t ∧ returned s t u rd (chans.map fin4)) ∧
    (∀ rd, (s.thread u).wait = some (.cpdrain rd chans ids) →
      (∃ n ∈ chans, ∃ y ∈ (chanOf s u.gang u.core (fin4 n)).queue, y.id.toNat ∈ ids) → exec (.cpdrainReturn u) s = .next s)

/-- 13 R296, R309: CPCANCEL takes a copy out of its channel: rd has bit 62 set for one that waited behind another, bit 63 and the elements
done for the running one, the head of the queue; 0 where there is none. -/
def CopyCancelled : Prop :=
  ∀ (s : State) (d x : Reg) (pre post : List Copy) (y : Copy),
    let id : BitVec 16 := (reg s x).setWidth 16
    let ch := fin4 (id.toNat / 2 ^ 14)
    let q := (chanOf s s.cur.gang s.cur.core ch).queue
    ((∀ z ∈ q, z.id ≠ id) → exec (.cpcancel d x) s = .next (wrote s d 0)) ∧
    (q = pre ++ y :: post → y.id = id → (∀ z ∈ pre ++ post, z.id ≠ id) →
      ∃ t, exec (.cpcancel d x) s = .next t ∧ (chanOf t s.cur.gang s.cur.core ch).queue = pre ++ post ∧
        Holds s.cur t d (if pre = [] then BitVec.ofNat 64 (2 ^ 63 + y.done) else BitVec.ofNat 64 (2 ^ 62)) ∧ OtherRegs s.cur d s t ∧
        MovedOn s.cur s t ∧ t.mem = s.mem)

end Sys2Proof.Claims
end

