-- ==== Sys2Proof/Claims/SyncRules.lean ====
section
/-! DEFINITION. Rules of 14 and 15 about fences, barriers, supersteps, waits on memory, watermark slots and the early trigger, as
propositions of which the statements are made. -/

namespace Sys2Proof.Claims

open Sys2Proof.Machine

/-- A thread has released: its stores are performed and its release count has risen by one (14 R313, R330). -/
def released (u : Tid) (s t : State) : Prop :=
  (t.thread u).pend = [] ∧ (t.thread u).relCount = (s.thread u).relCount + 1

/-- A thread has acquired: the scalar data cache of its core is empty (04 R101, 14 R313). -/
def acquired (u : Tid) (s t : State) : Prop := (t.pcoreOf (s.pcoreNum u)).dcache = []

/-- Only bytes that a queued store of some thread reaches may differ. -/
def memQueued (s t : State) : Prop :=
  ∀ a, (∀ v, ∀ p ∈ (s.thread v).pend, p.load = none → ∀ e ∈ p.bytes, e.pa ≠ a) → memByte t.mem a = memByte s.mem a

/-- Whether a thread has an earlier access of a FENCE's predecessor set still queued: a load with PR, a store with PW (14 R323). -/
def fenceHeld (s : State) (u : Tid) (p : BitVec 2) : Prop :=
  ∃ e ∈ (s.thread u).pend, (e.load ≠ none ∧ bitOf p 1 = true) ∨ (e.load = none ∧ bitOf p 0 = true)

/-- 14 R323 to R325: FENCE waits for the accesses of its predecessor set, is then a release with PW, and an acquire at its scope with SR;
FENCE.I performs the thread's accesses and empties the core's instruction cache; ETRIG is a release that triggers the core (15 R344). -/
def Fences : Prop :=
  ∀ (s : State) (c : BitVec 3) (p q : BitVec 2) (u : Tid),
    let fenced (s t : State) (u : Tid) :=
      let s0 := if bitOf p 0 then release s u else s
      (bitOf p 0 = true → released u s t) ∧ (bitOf p 0 = false → (t.thread u).pend = (s.thread u).pend) ∧
      (bitOf q 1 = true → acquired u s t) ∧ SameRegs u s0 t ∧ MovedOn u s t ∧ s0.mem = s.mem ∧
      t.mem = (if bitOf q 1 then acquire s0 u c else s0).mem
    (¬fenceHeld s s.cur p → ∃ t, exec (.fence c p q) s = .next t ∧ fenced s t s.cur) ∧
    (fenceHeld s s.cur p → exec (.fence c p q) s = .next (s.setWait s.cur (.fence c p q))) ∧
    ((s.thread u).wait = some (.fence c p q) → ¬fenceHeld s u p → ∃ t, exec (.fenceComplete u) s = .next t ∧ fenced s t u) ∧
    ((s.thread u).wait = some (.fence c p q) → fenceHeld s u p → exec (.fenceComplete u) s = .next s) ∧
    (∃ t, exec .fenceI s = .next t ∧ (t.thread s.cur).pend = [] ∧ (t.pcoreOf (s.pcoreNum s.cur)).icache = [] ∧
      SameRegs s.cur (flushStores s s.cur) t ∧ MovedOn s.cur s t ∧ t.mem = (flushStores s s.cur).mem) ∧
    (s.cur.who = .taper →
      ∃ t, exec .etrig s = .next t ∧ t.curCore.triggered = true ∧ released s.cur s t ∧ SameRegs s.cur (flushStores s s.cur) t ∧
        MovedOn s.cur s t ∧ t.mem = (flushStores s s.cur).mem) ∧
    (s.cur.who ≠ .taper → exec .etrig s = .next (trap s s.cur .illegal (wordOf .etrig)))

/-- A barrier has completed: its generation has risen, its arrival set is empty, and every thread of the set that waits in it has returned
with the generation, as an acquire (15 R335, R336). -/
def barrierDone (s t : State) (g : Nat) (qd : Bool) (i b : Nat) (o : Bar) : Prop :=
  (getBar t g qd i b).gen = o.gen + 1 ∧ (getBar t g qd i b).arrived = 0 ∧
  ∀ k rd, k < 36 → bitOf o.arrived k = true → (s.thread (bitThread g qd i k)).wait = some (.bar qd b rd) →
    Holds (bitThread g qd i k) t rd ((o.gen + 1).setWidth 64) ∧ (t.thread (bitThread g qd i k)).wait = none ∧
    acquired (bitThread g qd i k) s t

/-- 15 R334 to R336: BAR is a release and an arrival; the thread waits until every participant that is not absent has arrived, and then all
return with the new generation, as acquires; a mask that leaves the caller out, is too wide or differs from the open one traps. -/
def BarrierArrival : Prop :=
  ∀ (s : State) (d x : Reg) (c : BitVec 3) (b : BitVec 4),
    let qd := c == 2
    let place := if qd then s.cur.core / 4 else s.cur.core
    let bit := threadBit qd s.cur.core s.cur.who
    let o := getBar s s.cur.gang qd place b.toNat
    let m := reg s x
    let free := s.cur.who = .taper → s.curCore.taper.arrival = none
    let legal := m.toNat < 2 ^ (if qd then 36 else 9) ∧ bitOf m bit = true ∧ (o.arrived = 0 ∨ o.mask = m.setWidth 36)
    let there (k : Nat) := k = bit ∨ bitOf o.arrived k = true ∨ absent s (bitThread s.cur.gang qd place k) = true
    (free → ¬legal → exec (.bar d x c b) s = .next (trap s s.cur .illegal m)) ∧
    (free → legal → (∃ k, k < 36 ∧ bitOf m k = true ∧ ¬there k) →
      ∃ t, exec (.bar d x c b) s = .next t ∧ (t.thread s.cur).wait = some (.bar qd b.toNat d) ∧ released s.cur s t ∧
        getBar t s.cur.gang qd place b.toNat = { o with mask := m.setWidth 36, arrived := setBit o.arrived bit true } ∧
        SameRegs s.cur (flushStores s s.cur) t ∧ t.mem = (flushStores s s.cur).mem) ∧
    (free → legal → (∀ k, k < 36 → bitOf m k = true → there k) → (∀ q n r, (s.thread s.cur).wait ≠ some (.bar q n r)) →
      ∃ t, exec (.bar d x c b) s = .next t ∧ Holds s.cur t d ((o.gen + 1).setWidth 64) ∧ acquired s.cur s t ∧ released s.cur s t ∧
        MovedOn s.cur s t ∧ OtherRegs s.cur d (flushStores s s.cur) t ∧ barrierDone s t s.cur.gang qd place b.toNat o ∧ memQueued s t)

/-- 18 R386: a taper that an event took from its BAR does not arrive again: it waits on, or returns with the generation when the barrier
has completed meanwhile; in the handler the form traps. -/
def BarrierResumed : Prop :=
  ∀ (s : State) (d x : Reg) (c : BitVec 3) (b : BitVec 4),
    let qd := c == 2
    let place := if qd then s.cur.core / 4 else s.cur.core
    let o := getBar s s.cur.gang qd place b.toNat
    let T := s.curCore.taper
    (s.cur.who = .taper → T.act = true → T.arrival.isSome = true →
      exec (.bar d x c b) s = .next (trap s s.cur .illegal (wordOf (.bar d x c b))) ∧
      exec (.step d x) s = .next (trap s s.cur .illegal (wordOf (.step d x)))) ∧
    (s.cur.who = .taper → T.act = false → T.arrival = some T.th.pc → bitOf o.arrived (threadBit qd s.cur.core .taper) = true →
      exec (.bar d x c b) s = .next (s.setWait s.cur (.bar qd b.toNat d))) ∧
    (s.cur.who = .taper → T.act = false → T.arrival = some T.th.pc → bitOf o.arrived (threadBit qd s.cur.core .taper) = false →
      ∃ t, exec (.bar d x c b) s = .next t ∧ Holds s.cur t d (o.gen.setWidth 64) ∧ acquired s.cur s t ∧ t.curCore.taper.arrival = none ∧
        OtherRegs s.cur d s t ∧ MovedOn s.cur s t) ∧
    (s.cur.who = .taper → T.act = false → T.arrival = some T.th.pc → s.curCore.stepMask.isSome = true →
      exec (.step d x) s = .next (s.setWait s.cur (.step d))) ∧
    (s.cur.who = .taper → T.act = false → T.arrival = some T.th.pc → s.curCore.stepMask = none →
      ∃ t, exec (.step d x) s = .next t ∧
        Holds s.cur t d ((tabGet (Part.new [] [] []) s.parts (s.partOf s.cur.gang)).stepGen.setWidth 64) ∧ acquired s.cur s t ∧
        t.curCore.taper.arrival = none ∧ OtherRegs s.cur d s t ∧ MovedOn s.cur s t)

/-- 15 R336: the completion event of a barrier of a running gang completes it when its participants have arrived or are absent, and does
nothing before. -/
def BarrierCompletion : Prop :=
  ∀ (s : State) (g : Nat) (qd : Bool) (i b : Nat) (G : Gang), tabGet? s.gangs g = some G → G.life = .running →
    let o := getBar s g qd i b
    let full := o.arrived ≠ 0 ∧ ∀ k, k < 36 → bitOf o.mask k = true →
      bitOf o.arrived k = true ∨ absent s (bitThread g qd i k) = true
    (full → ∃ t, exec (.barCompletion g qd i b) s = .next t ∧ barrierDone s t g qd i b o ∧ memQueued s t) ∧
    (¬full → exec (.barCompletion g qd i b) s = .next s)

/-- 15 R337: a STEP arrives: the gang is a member of its partition's step, the thread's accesses are performed, the copies and SENDs that it
forked are the step's, and the step then completes if it can. A wick held already that the arriving taper's mask leaves out traps illegal
with the mask and is not counted, nor is what it forked; so does one that arrives later. A mask too wide traps, and so does a wick's rs1
other than x0. -/
def StepArrival : Prop :=
  ∀ (s : State) (d x : Reg) (w : Fin 8),
    let m := reg s x
    let g := s.cur.gang
    let c := s.cur.core
    let holds (t : State) (who : Who) (v : Bool) := (∀ n : Fin 4, ∀ y ∈ t.curCore.chans[n].queue, y.who = who → y.hold = v) ∧
      ∀ y ∈ t.curCore.sends, y.who = who → y.hold = v
    let waiting (t : State) :=
      (t.thread s.cur).wait = some (.step d) ∧ released s.cur s t ∧ (t.gang g).stepMember = true ∧
      SameRegs s.cur (flushStores s s.cur) t ∧ t.mem = (flushStores s s.cur).mem ∧ holds t s.cur.who true
    let arrives (t : State) := exec (.step d x) s = exec (.stepCompletion (s.partOf g)) t ∧ waiting t
    let out (k : Fin 8) := bitOf s.curCore.stepWicks k.val = true ∧ bitOf m k.val = false
    (s.cur.who = .taper → s.curCore.taper.arrival = none → m.toNat < 2 ^ 9 → (∀ k, out k → holdsJoined s g c k = false) →
      ∃ t, arrives t ∧ t.curCore.stepMask = some (m.setWidth 9) ∧
        (∀ k : Fin 8, bitOf t.curCore.stepWicks k.val = (bitOf s.curCore.stepWicks k.val && bitOf m k.val)) ∧
        (∀ k, out k → holds t (.wick k) false ∧
          t.wick g c k =
            { s.wick g c k with
              tepc := (s.wick g c k).pc, code := Cause.illegal.code, tval := m, reported := false, state := .faulted (s.wick g c k).isFree
              vmem := none, fetch := none, th := { (s.wick g c k).th with wait := none } }) ∧
        (∀ k, ¬out k → t.wick g c k = s.wick g c k)) ∧
    (s.cur.who = .taper → s.curCore.taper.arrival = none → 2 ^ 9 ≤ m.toNat →
      exec (.step d x) s = .next (trap s s.cur .illegal (wordOf (.step d x)))) ∧
    (s.cur.who = .wick w → x = 0 → (∃ k, s.curCore.stepMask = some k ∧ bitOf k w.val = true) →
      ∃ t, arrives t ∧ t.curCore.stepWicks = setBit s.curCore.stepWicks w.val true) ∧
    (s.cur.who = .wick w → x = 0 → s.curCore.stepMask = none →
      ∃ t, exec (.step d x) s = .next t ∧ waiting t ∧ t.curCore.stepWicks = setBit s.curCore.stepWicks w.val true) ∧
    (∀ k, s.cur.who = .wick w → x = 0 → s.curCore.stepMask = some k → bitOf k w.val = false →
      exec (.step d x) s = .next (trap s s.cur .illegal (k.setWidth 64))) ∧
    (s.cur.who = .wick w → x ≠ 0 → exec (.step d x) s = .next (trap s s.cur .illegal (wordOf (.step d x))))

/-- 14 R315, 15 R337 to R339: a partition's step completes when every member gang runs and each of its cores has halted or has its taper and
the wicks of its mask arrived, with no copy, SEND or tile fetch of the step left to end: the generation rises, and each waiting thread
returns with it, as an acquire. -/
def StepCompletion : Prop :=
  ∀ (s : State) (part : Nat),
    let member (g : Nat) (G : Gang) := (g, G) ∈ s.gangs ∧ G.stepMember = true ∧ (s.vf G.vf).part = part
    let there (g c : Nat) :=
      ((s.core g c).taper.run ≠ .running ∨
        ∃ m, (s.core g c).stepMask = some m ∧ ∀ w : Fin 8, bitOf m w.val = true → bitOf (s.core g c).stepWicks w.val = true) ∧
      (∀ n : Fin 4, ∀ y ∈ (s.core g c).chans[n].queue, y.hold = false) ∧ (∀ y ∈ (s.core g c).sends, y.hold = false) ∧
      ∀ j, (s.core g c).job = some j → bitOf (s.core g c).stepWicks j.wick.val = false
    let full := (∃ g G, member g G) ∧ ∀ g G, member g G → G.life = .running ∧ ∀ c, c ≤ G.desc.ncm1.toNat → there g c
    let gen := (tabGet (Part.new [] [] []) s.parts part).stepGen + 1
    (full →
      ∃ t, exec (.stepCompletion part) s = .next t ∧ (tabGet (Part.new [] [] []) t.parts part).stepGen = gen ∧ memQueued s t ∧
        ∀ g G c who rd, member g G → c ≤ G.desc.ncm1.toNat → (s.thread ⟨g, c, who⟩).wait = some (.step rd) →
          Holds ⟨g, c, who⟩ t rd (gen.setWidth 64) ∧ (t.thread ⟨g, c, who⟩).wait = none ∧ acquired ⟨g, c, who⟩ s t ∧
          (t.core g c).stepMask = none ∧ (t.core g c).stepWicks = 0) ∧
    (¬full → exec (.stepCompletion part) s = .next s)

/-- The condition of a wait on a word of `n` bytes: six of WAITMEM, and WAITGEN's (15 R340). -/
def waitMet (cond n : Nat) (w v : Word) : Prop :=
  let v := v.toNat % 2 ^ (8 * n)
  match cond with
  | 0 => w.toNat = v | 1 => w.toNat ≠ v | 2 => w.toNat < v | 3 => v ≤ w.toNat
  | 4 => ∀ k, v.testBit k = true → w.getLsbD k = true | 5 => ∃ k, v.testBit k = true ∧ w.getLsbD k = true
  | _ => (w.toNat + 2 ^ 64 - v) % 2 ^ 32 < 2 ^ 31

/-- The waiting forms: destination, address, comparand, width, condition and scope (15 R340). -/
def waitForm : Instr → Option (Reg × Reg × Reg × Nat × Nat × BitVec 3)
  | .waitgen d x y c => some (d, x, y, 4, 6, c)
  | .waitmem d x y c w q => some (d, x, y, if w = 1 then 8 else 4, q.toNat, c)
  | _ => none

/-- 15 R340, R341, 04 R101: WAITGEN and WAITMEM read their word at the L2 after the thread's scalar accesses; a word that meets the
condition is returned, as an acquire at their scope, and else the thread waits; each poll, and the return event, does the same. Misaligned
addresses trap, and so do a poisoned word and one that the host refuses. -/
def MemoryWait : Prop :=
  ∀ (s s1 : State) (i : Instr) (d x y : Reg) (n cond : Nat) (c : BitVec 3) (X : Xlat) (u : Tid) (va v : Word) (pa at0 : Nat),
    let s2 := flushScalar s1 s.cur
    let word (s : State) (pa : Nat) := BitVec.ofNat 64 (memRead s.mem pa n)
    let returned (s t : State) (u : Tid) (w : Word) := Holds u t d w ∧ acquired u s t ∧ OtherRegs u d s t ∧ memQueued s t
    (waitForm i = some (d, x, y, n, cond, c) → cond ≤ 6 → (reg s x).toNat % n = 0 → threadXlat s s.cur (reg s x) .read = .ok X s1 →
      (readable s2 X.pa → waitMet cond n (word s2 X.pa) (reg s y) →
        ∃ t, exec i s = .next t ∧ returned s2 t s.cur (word s2 X.pa) ∧ MovedOn s.cur s t) ∧
      (readable s2 X.pa → ¬waitMet cond n (word s2 X.pa) (reg s y) →
        ∃ t, exec i s = .next t ∧ (t.thread s.cur).wait = some (.word (reg s x) X.pa n cond (reg s y) d c s1.ac) ∧
          SameRegs s.cur s2 t ∧ t.mem = s2.mem) ∧
      (hostRefuses s2 X.pa = false → poisoned s2 X.pa = true →
        exec i s = .next (trap (l2Touch s2 (s2.vfOf s.cur) X.pa .read X.cmp none) s.cur .poison (reg s x)))) ∧
    (waitForm i = some (d, x, y, n, cond, c) → (reg s x).toNat % n ≠ 0 → exec i s = .next (trap s s.cur .misaligned (reg s x))) ∧
    ((s.thread u).wait = some (.word va pa n cond v d c at0) → n = 4 ∨ n = 8 → cond ≤ 6 →
      (readable s pa → waitMet cond n (word s pa) v →
        (∃ t, exec (.waitPoll u) s = .next t ∧ returned s t u (word s pa) ∧ MovedOn u s t) ∧
        ∃ t, exec (.waitmemReturn u) s = .next t ∧ returned s t u (word s pa) ∧ MovedOn u s t) ∧
      (readable s pa → ¬waitMet cond n (word s pa) v →
        exec (.waitPoll u) s = .next (s.setWait u (.word va pa n cond v d c s.ac)) ∧ exec (.waitmemReturn u) s = .next s) ∧
      (hostRefuses s pa = true →
        exec (.waitPoll u) s = .next (trapXlat s u .protection va .read { ipa := ipaOf s u va, place := 0 }) ∧
        exec (.waitmemReturn u) s = .next s) ∧
      (hostRefuses s pa = false → poisoned s pa = true → exec (.waitPoll u) s = .next (trap s u .poison va) ∧ exec (.waitmemReturn u) s = .next s))

/-- 15 R342, R343: WMPUB is a release that adds to its slot, or raises it to a value that is ahead of it, gives the old value, and changes no
other slot; a slot that the VF does not hold traps. -/
def MarkPublished : Prop :=
  ∀ (s : State) (d x y : Reg) (c : BitVec 3) (o : BitVec 1),
    let slot := (reg s x).toNat
    let old := tabGet 0 s.marks slot
    let held := slot < 4096 ∧ tabGet? s.markBlocks (slot / 64) = some (s.vfOf s.cur)
    let ahead := ((reg s y).toNat + 2 ^ 64 - old.toNat) % 2 ^ 64
    (held →
      ∃ t, exec (.wmpub d x y c o) s = .next t ∧
        tabGet 0 t.marks slot = (if o = 1 then old + reg s y else if 1 ≤ ahead ∧ ahead ≤ 2 ^ 63 - 1 then reg s y else old) ∧
        (∀ k, k ≠ slot → tabGet? t.marks k = tabGet? s.marks k) ∧ Holds s.cur t d old ∧ OtherRegs s.cur d (flushStores s s.cur) t ∧ released s.cur s t ∧
        MovedOn s.cur s t ∧ t.mem = (flushStores s s.cur).mem) ∧
    (¬held → exec (.wmpub d x y c o) s = .next (trap s s.cur .protection (reg s x)))

end Sys2Proof.Claims
end

