-- ==== Sys2Proof/Claims/PeerRules.lean ====
section
/-! DEFINITION. Rules of 16 about lantern windows, SEND, landings and the Wapin ports, as propositions of which the statements are made. -/

namespace Sys2Proof.Claims

open Sys2Proof.Machine

/-- What a WEXPORT's argument names: the window, whether it is a landing window, and its tag; and whether the argument is well formed
(16 R346). -/
def exportLegal (v : Word) : Prop :=
  (∀ k, k < 64 → v.getLsbD k = true → k < 3 ∨ k = 8 ∨ (16 ≤ k ∧ k < 32)) ∧ (v.getLsbD 8 = true ↔ v.extractLsb' 16 16 ≠ 0)

/-- 16 R345 to R350: once what the landing buffer holds has landed, WEXPORT makes a window of its wick's group: a snapshot of its rows, or the rows themselves for a landing window; the
generation rises by one. WREVOKE ends it. Another wick's window traps. -/
def WindowExported : Prop :=
  ∀ (s : State) (d f x : Reg) (w : Fin 8) (g : List Nat), s.cur.who = .wick w →
    let v := reg s x
    let k : Fin 8 := (v.extractLsb' 0 3).toFin
    let W := s.curWick w
    let old := s.curCore.windows[k]
    let tag : BitVec 16 := v.extractLsb' 16 16
    let i := Instr.wexport d f x
    let s1 := drainLandings s
    let clash := (v.getLsbD 8 = true ∧ tagHeld s k tag = true) ∨ windowClash s.curCore k w (v.getLsbD 8) W.split g = true
    (exportLegal v → W.group? f = some g → (old.valid = false ∨ old.owner = w) → ¬clash →
      ∃ t, exec i s = .next t ∧
        t.curCore.windows[k] =
          { valid := true, owner := w, landing := v.getLsbD 8, tag := tag, rows := W.vrows, rb := BitVec.ofNat 14 (W.capBits / 8)
            gen := old.gen + 1, first := g.headD 0, split := W.split, snap := if v.getLsbD 8 then [] else g.map (s1.curWick w).reg } ∧
        (∀ n : Fin 8, n ≠ k → t.curCore.windows[n] = s.curCore.windows[n]) ∧ Holds s.cur t d ((old.gen + 1).setWidth 64) ∧
        OtherRegs s.cur d s t ∧ (t.curWick w).rows = (s1.curWick w).rows ∧ (t.curWick w).vstart = 0 ∧ t.landing = [] ∧
        MovedOn s.cur s t ∧ t.mem = s.mem) ∧
    (¬exportLegal v → exec i s = .next (trap s s.cur .illegal v)) ∧
    (exportLegal v → W.group? f = none → exec i s = .next (trap s s.cur .illegal (wordOf i))) ∧
    (exportLegal v → W.group? f = some g → old.valid = true → old.owner ≠ w →
      exec i s = .next (trap s s.cur .ownership (BitVec.ofNat 64 k.val))) ∧
    (exportLegal v → W.group? f = some g → (old.valid = false ∨ old.owner = w) → clash →
      exec i s = .next (trap s s.cur .illegal (tag.setWidth 64))) ∧
    (v.toNat < 8 → old.valid = true → old.owner = w →
      ∃ t, exec (.wrevoke d x) s = .next t ∧ t.curCore.windows[k] = { old with valid := false, snap := [] } ∧
        (∀ n : Fin 8, n ≠ k → t.curCore.windows[n] = s.curCore.windows[n]) ∧ Holds s.cur t d (old.gen.setWidth 64) ∧
        OtherRegs s.cur d s t ∧ MovedOn s.cur s t ∧ t.mem = s.mem) ∧
    (v.toNat < 8 → old.valid = false →
      ∃ t, exec (.wrevoke d x) s = .next t ∧ t.curCore.windows = s.curCore.windows ∧ Holds s.cur t d (old.gen.setWidth 64) ∧
        MovedOn s.cur s t) ∧
    (v.toNat < 8 → old.valid = true → old.owner ≠ w →
      exec (.wrevoke d x) s = .next (trap s s.cur .ownership (BitVec.ofNat 64 k.val))) ∧
    (8 ≤ v.toNat → exec (.wrevoke d x) s = .next (trap s s.cur .illegal (wordOf (.wrevoke d x))))

/-- 01 R15, 16 R346, R350, R353: the window forms and SEND trap in the taper. -/
def PeerTaper : Prop :=
  ∀ (s : State) (d f x : Reg), s.cur.who = .taper →
    exec (.wexport d f x) s = .next (trap s s.cur .illegal (wordOf (.wexport d f x))) ∧
    exec (.wrevoke d x) s = .next (trap s s.cur .illegal (wordOf (.wrevoke d x))) ∧
    exec (.send f x) s = .next (trap s s.cur .illegal (wordOf (.send f x)))

/-- The bit of a group in sweep order: element after element, row after row (16 R353). -/
def sweepBit (W : Wick) (g : List Nat) (b : Nat) : Bool :=
  (W.reg (g.getD (b / (W.vl.toNat * W.esize)) 0)).getLsbD (b % (W.vl.toNat * W.esize))

/-- 16 R352 to R354: SEND queues the bits of its sweep with the destination, flag and back-off set-up as they stand, after its thread's
earlier accesses; a full queue holds it up before anything else; what it traps on. -/
def SendQueued : Prop :=
  ∀ (s : State) (f x : Reg) (w : Fin 8) (g : List Nat), s.cur.who = .wick w →
    let W := s.curWick w
    let v := reg s x
    let i := Instr.send f x
    let landing := W.th.pscfg.getLsbD 16
    let bits := W.positions * W.esize
    let formed := bits % 8 = 0 ∧ (landing = true → v.extractLsb' 32 13 = 0 ∧ v.extractLsb' 16 16 ≠ 0)
    let place := if landing then v.toNat % 2 ^ 16 else v.toNat
    let aligned := place % 64 = 0 ∧ W.th.psflag.toNat % 4 = 0
    let room := s.curCore.sends.length < 32
    (room → formed → W.group? f = some g → aligned → bits ≠ 0 →
      ∃ t y, exec i s = .next t ∧ t.curCore.sends = s.curCore.sends ++ [y] ∧ y.who = .wick w ∧ y.data.length = bits / 8 ∧
        (∀ b, b < bits → (y.data.getD (b / 8) 0).getLsbD (b % 8) = sweepBit W g b) ∧ y.landing = landing ∧ y.dest = v ∧
        y.psflag = W.th.psflag ∧ y.pscfg = W.th.pscfg ∧ y.count = s.curCore.psCount.toNat ∧ y.limit = s.curCore.psLimit.toNat ∧
        y.sent = 0 ∧ y.refusals = 0 ∧ y.refusedAt = none ∧ y.wait = none ∧ (t.thread s.cur).pend = [] ∧
        SameRegs s.cur (flushStores s s.cur) t ∧ (t.curWick w).rows = ((flushStores s s.cur).curWick w).rows ∧ MovedOn s.cur s t ∧
        t.mem = (flushStores s s.cur).mem) ∧
    (room → formed → W.group? f = some g → aligned → bits = 0 →
      ∃ t, exec i s = .next t ∧
        (W.th.psflag = 0 → t.curCore.sends = s.curCore.sends) ∧
        (W.th.psflag ≠ 0 → ∃ y, t.curCore.sends = s.curCore.sends ++ [y] ∧ y.data = [] ∧ y.psflag = W.th.psflag) ∧ MovedOn s.cur s t) ∧
    (¬room → exec i s = .next s) ∧
    (room → ¬formed ∨ W.group? f = none → exec i s = .next (trap s s.cur .illegal (wordOf i))) ∧
    (room → formed → W.group? f = some g → place % 64 ≠ 0 → exec i s = .next (trap s s.cur .misaligned (BitVec.ofNat 64 place))) ∧
    (room → formed → W.group? f = some g → place % 64 = 0 → W.th.psflag.toNat % 4 ≠ 0 →
      exec i s = .next (trap s s.cur .misaligned W.th.psflag))

/-- Entry `k` of a core's SEND queue is abandoned with a code: it is gone, its flag is not written, and its thread's psstat has counted it
(16 R355). -/
def sendAbandoned (s t : State) (g c k : Nat) (y : Send) (code : BitVec 4) : Prop :=
  (t.core g c).sends = (s.core g c).sends.eraseIdx k ∧
  (t.thread ⟨g, c, y.who⟩).psFails = (s.thread ⟨g, c, y.who⟩).psFails + 1 ∧
  (t.thread ⟨g, c, y.who⟩).psCode = if (s.thread ⟨g, c, y.who⟩).psCode = 0 then code else (s.thread ⟨g, c, y.who⟩).psCode

/-- Entry `k` of a core's SEND queue has `n` more bytes sent, its back-off over; with its last byte it goes unless it has a flag to write
(16 R354). -/
def sendAdvanced (s t : State) (g c k : Nat) (y : Send) (n : Nat) : Prop :=
  (y.sent + n < y.data.length ∨ y.psflag ≠ 0 → (t.core g c).sends[k]? = some { y with sent := y.sent + n, refusedAt := none, movedAt := s.ac }) ∧
  (y.data.length ≤ y.sent + n → y.psflag = 0 → (t.core g c).sends = (s.core g c).sends.eraseIdx k)

/-- What the answer to a landing flit makes of its SEND (16 R355). -/
def sendAnswered (s t : State) (g c k : Nat) (y : Send) (a : FlitAnswer) : Prop :=
  (a = .accepted → sendAdvanced s t g c k y (min 128 (y.data.length - y.sent))) ∧
  (a = .refused → (y.limit = 0 ∨ y.refusals + 1 < y.limit) →
    (t.core g c).sends[k]? = some { y with refusals := y.refusals + 1, refusedAt := some s.ac, movedAt := s.ac }) ∧
  (a = .refused → y.limit ≠ 0 → y.limit ≤ y.refusals + 1 → sendAbandoned s t g c k y 2) ∧
  (a = .rangeExceeded → sendAbandoned s t g c k y 3) ∧ (a = .notPermitted → sendAbandoned s t g c k y 4)

/-- 01 R30, 16 R354 to R356, R358: the next flit of a SEND that nothing holds up. To memory it writes up to 128 bytes within a granule; to a
landing window of this device or, through a port, of another, it takes the answer; a refusal waits for its back-off, and one that reaches
psback.limit abandons it (log 34); a failing translation abandons it with code 1 and a fault record. A flit that this device accepts joins
its landing buffer, and the last one of a SEND has landed with all before it. A SEND behind another to the same device, or whose port has no
room, waits. The flit's virtual channel and its ciphertext are those of log 41 and log 6. -/
def SendDelivered : Prop :=
  ∀ (s s1 : State) (g c k : Nat) (y : Send) (ans : FlitAnswer) (X : Xlat),
    let vf := (s.gang g).vf
    let live := enginesRun s g = true ∧ (s.core g c).sends[k]? = some y ∧ y.wait = none ∧ y.refusedAt = none ∧ y.sent < y.data.length
    let va := y.dest + BitVec.ofNat 64 y.sent
    let n := min (y.data.length - y.sent) (min 128 (4096 - va.toNat % 4096))
    let dev := y.dest.toNat / 2 ^ 50
    let free := sendBehind s g c k [dev] = false
    let away := inDomain s (s.vf vf).part dev = true ∧ dev ≠ s.coord.toNat
    let piece := (y.data.drop y.sent).take 128
    let here : LandingFlit :=
      { senderKey := (s.vf vf).policy.key, sameDomain := true, part := y.dest.toNat / 2 ^ 45 % 32, tag := y.dest.extractLsb' 16 16
        offset := y.dest.toNat % 2 ^ 16 + y.sent, total := y.data.length - y.sent, bytes := piece }
    (live → y.landing = false → translate s ((s.gang g).pcore c) vf va .peer false = (.ok X, s1) → sendBehind s g c k [paCoord X.pa] = false →
      rangeRoom s1 vf X.pa n = true →
      ∃ t, exec (.sendFlit g c k ans) s = .next t ∧ memBytes t.mem X.pa n = (y.data.drop y.sent).take n ∧ SameMemOutside X.pa n s1 t ∧
        sendAdvanced s1 t g c k y n) ∧
    (live → y.landing = false → translate s ((s.gang g).pcore c) vf va .peer false = (.ok X, s1) →
      (sendBehind s g c k [paCoord X.pa] = true → exec (.sendFlit g c k ans) s = .next s) ∧
      (sendBehind s g c k [paCoord X.pa] = false → rangeRoom s1 vf X.pa n = false →
        exec (.sendFlit g c k ans) s = .next (noRoom s1 vf X.pa))) ∧
    (∀ e p, live → y.landing = false → translate s ((s.gang g).pcore c) vf va .peer false = (.fail e p, s1) →
      ∃ t, exec (.sendFlit g c k ans) s = .next t ∧ sendAbandoned s1 t g c k y 1 ∧ t.mem = s1.mem ∧
        (t.vf vf).faults = (s1.vf vf).faults ++
          [{ va := va, ipa := p.ipa, gtag := (s1.gang g).desc.gtag, core := BitVec.ofNat 8 c, who := whoByte y.who true, cause := e.code
             kind := 5, place := p.place }]) ∧
    (live → y.landing = true → free → inDomain s (s.vf vf).part dev = false →
      ∃ t, exec (.sendFlit g c k ans) s = .next t ∧ sendAbandoned s t g c k y 4 ∧ t.mem = s.mem) ∧
    (live → y.landing = true → ¬free → exec (.sendFlit g c k ans) s = .next s) ∧
    (live → y.landing = true → free → away → reachable s dev = false →
      exec (.sendFlit g c k ans) s = .next (noteRequest s (s.vf vf).part dev)) ∧
    (live → y.landing = true → free → away → reachable s dev = true → linkRoom s dev = false → exec (.sendFlit g c k ans) s = .next s) ∧
    (live → y.landing = true → free → away → reachable s dev = true → linkRoom s dev = true →
      ∃ t, exec (.sendFlit g c k ans) s = .next t ∧ t.mem = s.mem ∧ sendAnswered s t g c k y ans ∧
        ∀ port, portTo s.coord.toNat dev = some port →
          (t.ports[port]).txSeq = (s.ports[port]).txSeq + 1 ∧
          (t.ports[port]).replay = (s.ports[port]).replay ++
            [{ dest := dev, reply := false, vc := hopVc s.coord.toNat port false, seq := (s.ports[port]).txSeq, ack := (s.ports[port]).rxSeq
               crcOk := true, tagOk := true, payload := (sealFlit s port (s.vf vf).part piece).1 }] ∧
          (partConf s (s.vf vf).part = false → (sealFlit s port (s.vf vf).part piece).1 = piece)) ∧
    (live → y.landing = true → free → dev = s.coord.toNat →
      ∃ t, exec (.sendFlit g c k ans) s = .next t ∧ t.mem = s.mem ∧ sendAnswered s t g c k y (landingAnswer s here) ∧
        (landingAnswer s here ≠ .accepted → t.landing = s.landing) ∧
        (landingAnswer s here = .accepted → y.sent + piece.length < y.data.length → t.landing = s.landing ++ [here]) ∧
        (landingAnswer s here = .accepted → y.data.length ≤ y.sent + piece.length → t.landing = [] ∧
          ∀ (g' c' : Nat) (w : Fin 8), t.wick g' c' w = (drainLandings { s with landing := s.landing ++ [here] }).wick g' c' w)) ∧
    (enginesRun s g = true → (s.core g c).sends[k]? = some y → ∀ a, y.refusedAt = some a →
      (y.count + 1 ≤ s.ac - a → ∃ t, exec (.sendReplay g c k) s = .next t ∧ (t.core g c).sends[k]? = some { y with refusedAt := none } ∧
        t.mem = s.mem) ∧
      (s.ac - a < y.count + 1 → exec (.sendReplay g c k) s = .next s))

/-- 16 R354, R356: once its bytes are sent a SEND's flag is stored, or added modulo 2^32, and the SEND ends; a failing flag, or one to add to
that cannot be read, abandons it; one that an earlier SEND must precede, or that finds no room, waits. -/
def SendFlagged : Prop :=
  ∀ (s s1 : State) (g c k : Nat) (y : Send) (X : Xlat),
    let vf := (s.gang g).vf
    let add := y.pscfg.getLsbD 29
    let kind : Kind := if add then .rmw else .write
    let ready := enginesRun s g = true ∧ (s.core g c).sends[k]? = some y ∧ y.wait = none ∧ y.data.length ≤ y.sent ∧ y.psflag ≠ 0
    (ready → translate s ((s.gang g).pcore c) vf y.psflag kind false = (.ok X, s1) →
      sendBehind s g c k (paCoord X.pa :: (sendDevs s vf { y with psflag := 0 } 0).getD []) = false →
      (add = true → readable s1 X.pa) →
      (l2Room s1 vf X.pa = false → exec (.sendFlag g c k) s = .next (noRoom s1 vf X.pa)) ∧
      (l2Room s1 vf X.pa = true → ∃ t, exec (.sendFlag g c k) s = .next t ∧
        memRead t.mem X.pa 4 = (if add then memRead s1.mem X.pa 4 + y.pscfg.toNat / 2 ^ 32 else y.pscfg.toNat / 2 ^ 32) % 2 ^ 32 ∧
        SameMemOutside X.pa 4 s1 t ∧ (t.core g c).sends = (s1.core g c).sends.eraseIdx k)) ∧
    (ready → translate s ((s.gang g).pcore c) vf y.psflag kind false = (.ok X, s1) →
      let behind := sendBehind s g c k (paCoord X.pa :: (sendDevs s vf { y with psflag := 0 } 0).getD [])
      (behind = true → exec (.sendFlag g c k) s = .next s) ∧
      (behind = false → add = true → ¬readable s1 X.pa → ∃ t, exec (.sendFlag g c k) s = .next t ∧ sendAbandoned s1 t g c k y 1 ∧ t.mem = s1.mem)) ∧
    (∀ e p, ready → translate s ((s.gang g).pcore c) vf y.psflag kind false = (.fail e p, s1) →
      ∃ t, exec (.sendFlag g c k) s = .next t ∧ sendAbandoned s1 t g c k y 1 ∧ t.mem = s1.mem)

/-- 16 R346, R349, R355, 01 R31: a flit from another device joins the landing buffer when its sender is accepted, its window is there, its
range fits and the buffer has room; else the device is unchanged. What the buffer holds lands in the window's rows, where its bytes say,
and sets its owner's event flag. -/
def LandingTaken : Prop :=
  ∀ (s : State) (f : LandingFlit) (g c k : Nat) (v : Window) (P : Part),
    let known := f.sameDomain = true ∧ tabGet? s.parts f.part = some P ∧ f.senderKey ∈ P.peers
    let fits := landingWindow s f.part f.tag = some (g, c, k, v) ∧ f.offset + f.total ≤ v.rows.toNat * v.rb.toNat ∧ s.landing.length < 256
    (known → fits → exec (.landing f) s = .next { s with landing := s.landing ++ [f] }) ∧
    (¬(f.sameDomain = true ∧ ∃ P, tabGet? s.parts f.part = some P ∧ f.senderKey ∈ P.peers) → exec (.landing f) s = .next s) ∧
    (landingWindow s f.part f.tag = none → exec (.landing f) s = .next s) ∧
    (landingWindow s f.part f.tag = some (g, c, k, v) →
      v.rows.toNat * v.rb.toNat < f.offset + f.total ∨ 256 ≤ s.landing.length → exec (.landing f) s = .next s) ∧
    (s.landing = [f] → landingWindow s f.part f.tag = some (g, c, k, v) → f.offset + f.bytes.length ≤ v.rows.toNat * v.rb.toNat →
      (v.rb.toNat * 8 ≤ if v.split then 32768 else 65536) → (s.wick g c v.owner).split = v.split → v.rb ≠ 0 →
      let t := drainLandings s
      (t.wick g c v.owner).th.event = true ∧ t.landing = [] ∧ t.mem = s.mem ∧
      (∀ o, o < v.rows.toNat * v.rb.toNat →
        elemAt ((t.wick g c v.owner).reg (v.first + o / v.rb.toNat)) 8 (o % v.rb.toNat) =
          if f.offset ≤ o ∧ o < f.offset + f.bytes.length then (f.bytes.getD (o - f.offset) 0).toNat
          else elemAt ((s.wick g c v.owner).reg (v.first + o / v.rb.toNat)) 8 (o % v.rb.toNat)) ∧
      ∀ n, n < v.first ∨ v.first + v.rows.toNat ≤ n → (t.wick g c v.owner).reg n = (s.wick g c v.owner).reg n)

/-- The completion record of a gang that ends (17 R367). -/
def recordOf (G : Gang) (status : Nat) (code : BitVec 8) : List Byte :=
  leBytes 2 G.desc.gtag.toNat ++ [BitVec.ofNat 8 status, code] ++ leBytes 4 G.seq.toNat ++ leBytes 8 G.tokens.toNat ++
    [G.wcause, G.wcore, G.wwick, G.nfault, G.dcode, G.dcause, G.dcore, G.ndouble] ++ List.replicate 8 0

/-- A device fault in some partitions (18 R394, 17 R376): each placed gang of theirs is gone, its completion record of status 2 with the
cause waits in its ring, every other gang stays, and a layout commit in progress is abandoned. -/
def deviceFaulted (s t : State) (parts : List Nat) (cause : Cause) : Prop :=
  (∀ g G, (g, G) ∈ s.gangs → G.life ≠ .saved → (s.vf G.vf).part ∈ parts → tabGet? t.gangs g = none) ∧
  (∀ g G, tabGet? s.gangs g = some G → G.life ≠ .saved → (s.vf G.vf).part ∈ parts →
    ∃ x ∈ ((t.vf G.vf).rings[G.ring]).compl, x.gtag = G.desc.gtag ∧ x.bytes = recordOf G 2 cause.code) ∧
  (∀ g, (∀ G, (g, G) ∈ s.gangs → G.life = .saved ∨ (s.vf G.vf).part ∉ parts) →
    (tabGet? t.gangs g).isSome = (tabGet? s.gangs g).isSome) ∧
  t.shadow = none ∧ (∀ seq l, s.shadow = some (seq, l) → ({ seq := seq, status := 5 } : CmdDone) ∈ t.root.completions)

/-- 16 R359, 18 R397, 19 R405: a port takes the flit that it expects, acknowledges, and refuses a failed CRC, a flit out of order and one
that finds the buffer of its class and channel full; failed tags are counted, the sixteenth in a row loses the port; a replay sends what is unacknowledged again; a
lane failure takes the spare lane of its direction, and a second one in that direction, or a link loss, loses the port and faults the partitions that use it. -/
def PortRules : Prop :=
  ∀ (s : State) (port : Fin 6) (f : LinkFlit),
    let p := s.ports[port]
    let set (q : Port) : Host.Outcome State Fault Refusal := .next { s with ports := s.ports.set port q }
    let lost (o : Host.Outcome State Fault Refusal) :=
      ∃ t, o = .next t ∧ (t.ports[port]).up = false ∧ (t.ports[port]).replay = [] ∧ (t.ports[port]).buffer = [] ∧
        (∀ q : Fin 6, q ≠ port →
          t.ports[q] = { s.ports[q] with txSeq := (t.ports[q]).txSeq, replay := (t.ports[q]).replay, keys := (t.ports[q]).keys }) ∧
        ∃ parts, deviceFaulted s t parts .linkLoss ∧
          ∀ n, n ∈ parts ↔ ∃ P, (n, P) ∈ s.parts ∧ ∃ d ∈ P.domain, portTo s.coord.toNat d = some port
    let held := (p.buffer.filter fun x => x.reply == f.reply && x.vc == f.vc).length
    (p.up = true → f.crcOk = true → f.tagOk = true → f.seq = p.rxSeq → held < bufferRoom →
      exec (.flitReceive port f) s =
        set { p with rxSeq := p.rxSeq + 1, buffer := p.buffer ++ [f], tagFails := 0, replay := p.replay.filter fun x => f.ack ≤ x.seq }) ∧
    (p.up = false ∨ f.crcOk = false ∨ (f.tagOk = true ∧ (f.seq ≠ p.rxSeq ∨ bufferRoom ≤ held)) →
      exec (.flitReceive port f) s = .next s) ∧
    (p.up = true → f.crcOk = true → f.tagOk = false → p.tagFails < 15 →
      exec (.flitReceive port f) s = set { p with tagFails := p.tagFails + 1 }) ∧
    (p.up = true → f.crcOk = true → f.tagOk = false → 15 ≤ p.tagFails → lost (exec (.flitReceive port f) s)) ∧
    exec (.linkReplay port) s = set { p with replay := p.replay.map fun x => { x with ack := p.rxSeq } } ∧
    (p.up = true → p.spareTx = false → exec (.laneFailure ⟨port, true⟩) s = set { p with spareTx := true }) ∧
    (p.up = true → p.spareTx = true → lost (exec (.laneFailure ⟨port, true⟩) s)) ∧
    (p.up = true → p.spareRx = false → exec (.laneFailure ⟨port, false⟩) s = set { p with spareRx := true }) ∧
    (p.up = true → p.spareRx = true → lost (exec (.laneFailure ⟨port, false⟩) s)) ∧
    (p.up = true → lost (exec (.linkLoss port) s)) ∧ (p.up = false → exec (.linkLoss port) s = .next s)

end Sys2Proof.Claims
end

