-- ==== Sys2Proof/Claims/PagingRules.lean ====
section
/-! DEFINITION. Rules of 09 about translation, page requests, invalidation and fault records, of 17 about the dirty log, and of 12 and 04 about
events of the caches and of main memory, as propositions of which the statements are made. -/

namespace Sys2Proof.Claims

open Sys2Proof.Machine

/-- A page-table entry that is valid and well formed at a level (09 R210, R213 to R215): a leaf below level 0 with its reserved bits clear
and its address aligned, or a table above level 3. -/
def entryFormed (stage1 : Bool) (level e : Nat) : Prop :=
  e.testBit 0 = true ∧ e / 2 ^ 60 % 16 = 0 ∧ (stage1 = true → e / 2 ^ 48 % 2 ^ 12 = 0) ∧
  (e.testBit 1 = true →
    level ≠ 0 ∧ e / 4 % 4 = 0 ∧ e.testBit 7 = false ∧ (stage1 = true → e.testBit 11 = false ∧ e.testBit 8 = false) ∧
    (stage1 = false → e.testBit 10 = false) ∧ (e.testBit 9 = true → level = 3) ∧
    (level = 1 → e / 2 ^ 12 % 2 ^ 18 = 0) ∧ (level = 2 → e / 2 ^ 12 % 2 ^ 9 = 0)) ∧
  (e.testBit 1 = false → level ≠ 3 ∧ e / 4 % 2 ^ 10 = 0)

/-- The size of a leaf's page as a power of two (09 R214, R215). -/
def pageLg (level : Nat) : Nat := if level = 1 then 30 else if level = 2 then 21 else 12

/-- The size of the page for which a leaf is cached: an entry of a 64 KiB page that lies where its place in the page asks has that size
(09 R214, R215; DEDUCED, log 7). -/
def leafSize (level e a : Nat) : Nat := if e.testBit 9 = true ∧ e / 2 ^ 12 % 16 = a / 4096 % 16 then 16 else pageLg level

/-- What a walk reads of one table entry: nothing at the L2 where a walker of the die keeps it, and else the entry, which may be kept if it
is valid and well formed (09 R219, R220). -/
def entryRead (kept : Option Nat) (stage1 : Bool) (level a e : Nat) (rs : List WalkRead) : Prop :=
  (kept ≠ none → rs = []) ∧ (kept = none → ∃ b, rs = [{ pa := a, entry := e, keep := b }] ∧ (b = true ↔ entryFormed stage1 level e))

/-- 09 R211 to R215, R218, R219: one level of the stage-2 walk: an entry that does not exist, that the host refuses, that is poisoned, absent
or malformed, a leaf, a table. -/
def TableStep : Prop :=
  ∀ (s : State) (die : Fin 4) (vf ipa level table : Nat) (rest : List Nat) (tr : List WalkRead),
    let a := table + 8 * (ipa / 2 ^ (39 - 9 * level) % 512)
    let kept := keptEntry s die vf a
    let e := kept.getD (memRead s.mem a 8)
    let base := e / 2 ^ 12 % 2 ^ 48 * 4096
    let out := walk2From s die vf ipa (level :: rest) table tr
    let ok := physOk s (s.vf vf).part a = true
    (¬ok → out = (.protection level, tr)) ∧
    (ok → hostRefuses s a = true → out = (.refused, tr)) ∧
    (ok → hostRefuses s a = false → kept = none → poisoned s a = true → out = (.poison level, tr)) ∧
    (ok → hostRefuses s a = false → kept ≠ none ∨ poisoned s a = false →
      ∃ rs, entryRead kept false level a e rs ∧
        (¬entryFormed false level e → out = (.miss level, tr ++ rs)) ∧
        (entryFormed false level e → e.testBit 1 = false → out = walk2From s die vf ipa rest base (tr ++ rs)) ∧
        (entryFormed false level e → e.testBit 1 = true →
          ∃ l, out = (.ok l, tr ++ rs) ∧ l.pa = base / 2 ^ pageLg level * 2 ^ pageLg level + ipa % 2 ^ pageLg level ∧
            l.lg = leafSize level e ipa ∧ l.r = e.testBit 4 ∧ l.w = e.testBit 5 ∧ l.x = e.testBit 6 ∧ l.d = e.testBit 8 ∧
            l.cmp = e.testBit 11 ∧ l.entry = a))

/-- 09 R212 to R215, R218 step 2, R221: one level of the stage-1 walk. Its table's entry lies at an intermediate address, which walks stage 2
first: a stage-2 miss or failure there is the walk's, with where saying that it stood on a stage-1 table; then the entry's own checks, a
leaf, a table. -/
def Stage1Step : Prop :=
  ∀ (s : State) (die : Fin 4) (vf va level table : Nat) (rest ts : List Nat) (tr : List WalkRead),
    let a := table + 8 * (va / 2 ^ (39 - 9 * level) % 512)
    let w := walk2 s die vf a
    let trw := tr ++ w.2
    let out := walk1From s die vf va (level :: rest) table ts tr
    let at_ (poison : Bool) : FaultPlace := { ipa := table, place := placeByte level true poison true }
    let missed : Stop := .miss { region := a / 65536 * 65536, granule := a / 4096 % 16, kind := .read, place := at_ false }
    (∀ lv, w.1 = .miss lv → out = (.error missed, trw)) ∧
    (∀ lv, w.1 = .protection lv → out = (.error (.fail .protection (at_ false)), trw)) ∧
    (w.1 = .refused → out = (.error (.fail .protection { ipa := table, place := 0 }), trw)) ∧
    (∀ lv, w.1 = .poison lv → out = (.error (.fail .poison (at_ true)), trw)) ∧
    (∀ l, w.1 = .ok l →
      let kept := keptEntry s die vf l.pa
      let e := kept.getD (memRead s.mem l.pa 8)
      let base := e / 2 ^ 12 % 2 ^ 48 * 4096
      let ok := l.r = true ∧ physOk s (s.vf vf).part l.pa = true
      (l.r = false → out = (.error missed, trw)) ∧
      (l.r = true → physOk s (s.vf vf).part l.pa = false → out = (.error (.fail .protection (at_ false)), trw)) ∧
      (ok → hostRefuses s l.pa = true → out = (.error (.fail .protection { ipa := 0, place := 0 }), trw)) ∧
      (ok → hostRefuses s l.pa = false → kept = none → poisoned s l.pa = true →
        out = (.error (.fail .poison { ipa := 0, place := placeByte level false true false }), trw)) ∧
      (ok → hostRefuses s l.pa = false → kept ≠ none ∨ poisoned s l.pa = false →
        ∃ rs, entryRead kept true level l.pa e rs ∧
          (¬entryFormed true level e → out = (.error (.fail .stage1 { ipa := 0, place := placeByte level false false false }), trw ++ rs)) ∧
          (entryFormed true level e → e.testBit 1 = false → out = walk1From s die vf va rest base (a :: ts) (trw ++ rs)) ∧
          (entryFormed true level e → e.testBit 1 = true →
            ∃ l1, out = (.ok l1, trw ++ rs) ∧ l1.ipa = base / 2 ^ pageLg level * 2 ^ pageLg level + va % 2 ^ pageLg level ∧
              l1.lg = leafSize level e va ∧ l1.level = level ∧ l1.tables = a :: ts ∧ l1.r = e.testBit 4 ∧ l1.w = e.testBit 5 ∧
              l1.x = e.testBit 6 ∧ l1.wch = e.testBit 10)))

/-- 09 R210, R216 to R219, 17 R381: a translation that no cache serves: an address that is not canonical, the stage-1 walk and its failures,
the stage-1 permissions, the stage-2 walk and permissions, the physical check, and a write's D bit, set in memory and noted for the dirty
log, in that order; its physical address is that of the stage-2 leaf; and what the core's TLB, or else the die's, serves. -/
def TranslationOrder : Prop :=
  ∀ (s : State) (p vf : Nat) (va : Word) (k : Kind) (f : Bool),
    let n := needOf k f
    let die := fin4 (p / 24)
    let own := (s.pcoreOf p).tlb.find? (·.grants vf va n true)
    let shared := s.dieTlb[die].find? (·.grants vf va n true)
    let uncached := own = none ∧ shared = none
    let canonical := ∀ b, 47 ≤ b → b < 64 → va.getLsbD b = va.getLsbD 47
    let t := translate s p vf va k f
    let S := stage1 s die vf va
    let hit (e : TlbEntry) : Xres := .ok { pa := e.pa + va.toNat % 2 ^ e.lg, ipa := e.ipa + va.toNat % 2 ^ e.lg, wch := e.wch, cmp := e.cmp }
    let at_ (ipa lv : Nat) (poison : Bool) : FaultPlace := { ipa := ipa, place := placeByte lv true poison false }
    let missed (ipa lv : Nat) : Xres :=
      .miss { region := ipa / 65536 * 65536, granule := ipa / 4096 % 16, kind := k, place := at_ ipa lv false }
    (∀ e, own = some e → t = (hit e, s)) ∧
    (∀ e, own = none → shared = some e → t.1 = hit e ∧ e ∈ (t.2.pcoreOf p).tlb ∧ t.2.mem = s.mem ∧ t.2.gangs = s.gangs ∧ t.2.vfs = s.vfs) ∧
    (uncached → ¬canonical → t = (.fail .stage1 { ipa := 0, place := 0 }, s)) ∧
    (∀ e pl, uncached → canonical → S.1 = .error (.fail e pl) → t = (.fail e pl, noteWalk s die vf S.2)) ∧
    (∀ m, uncached → canonical → S.1 = .error (.miss m) → t = (.miss m, noteWalk s die vf S.2)) ∧
    (∀ l1, uncached → canonical → S.1 = .ok l1 →
      (n.within l1.r l1.w l1.x = false →
        t = (.fail .protection { ipa := l1.ipa, place := placeByte l1.level false false false }, noteWalk s die vf S.2)) ∧
      (n.within l1.r l1.w l1.x = true →
        let w := walk2 s die vf l1.ipa
        let after := noteWalk s die vf (S.2 ++ w.2)
        (∀ lv, w.1 = .miss lv → t = (missed l1.ipa lv, after)) ∧
        (∀ lv, w.1 = .protection lv → t = (.fail .protection (at_ l1.ipa lv false), after)) ∧
        (w.1 = .refused → t = (.fail .protection { ipa := l1.ipa, place := 0 }, after)) ∧
        (∀ lv, w.1 = .poison lv → t = (.fail .poison (at_ l1.ipa lv true), after)) ∧
        (∀ l2, w.1 = .ok l2 →
          let lv := if l2.lg = 30 then 1 else if l2.lg = 21 then 2 else 3
          let done := ∃ x, t.1 = .ok x ∧ x.pa = l2.pa ∧ x.ipa = l1.ipa ∧ x.wch = l1.wch ∧ x.cmp = l2.cmp ∧
            ∀ u, t.2.thread u = s.thread u
          (n.within l2.r l2.w l2.x = false → t = (missed l1.ipa lv, after)) ∧
          (n.within l2.r l2.w l2.x = true → physOk s (s.vf vf).part l2.pa = false →
            t = (.fail .protection (at_ l1.ipa lv false), after)) ∧
          (n.within l2.r l2.w l2.x = true → physOk s (s.vf vf).part l2.pa = true → n.w = false ∨ l2.d = true →
            done ∧ t.2.mem = s.mem ∧ (t.2.vf vf).dlogWait = (s.vf vf).dlogWait) ∧
          (n.within l2.r l2.w l2.x = true → physOk s (s.vf vf).part l2.pa = true → n.w = true → l2.d = false →
            (dlogRoom (s.vf vf) = false → t = (.logFull, after)) ∧
            (dlogRoom (s.vf vf) = true →
              done ∧ memByte t.2.mem (l2.entry + 1) = memByte s.mem (l2.entry + 1) ||| 1 ∧ SameMemOutside (l2.entry + 1) 1 s t.2 ∧
              ∀ lg, (s.vf vf).dlogLg = some lg →
                (t.2.vf vf).dlogWait = (s.vf vf).dlogWait ++ [BitVec.ofNat 64 (l2.base + l2.sizeCode)])))))

/-- 09 R212, R214: without stage 1 an address is its own intermediate address, and a leaf of stage 2 gives its physical address. -/
def PlainTranslation : Prop :=
  ∀ (s : State) (p vf : Nat) (va : Word) (k : Kind) (f : Bool) (l2 : Leaf2),
    let n := needOf k f
    (s.pcoreOf p).tlb.find? (·.grants vf va n true) = none → s.dieTlb[fin4 (p / 24)].find? (·.grants vf va n true) = none →
    bitOf (s.vf vf).s1root 0 = false → (∀ b, 47 ≤ b → b < 64 → va.getLsbD b = va.getLsbD 47) →
    (walk2 s (fin4 (p / 24)) vf (va.toNat % 2 ^ 48)).1 = .ok l2 → n.within l2.r l2.w l2.x = true → physOk s (s.vf vf).part l2.pa = true →
    n.w = false ∨ l2.d = true →
    (translate s p vf va k f).1 = .ok { pa := l2.pa, ipa := va.toNat % 2 ^ 48, wch := false, cmp := l2.cmp }

/-- 09 R222, 19 R404: a stage-2 miss attaches to the outstanding request of its 64 KiB region, or makes one under the lowest free identifier,
which the physical function's request ring delivers, or waits while the queue of 64 is full. -/
def PageRequested : Prop :=
  ∀ (s : State) (vf : Nat) (va : Word) (k : Kind) (m : Miss) (q : PageReq),
    let w := raiseMiss s vf va k m
    ((∀ r ∈ (s.vf vf).reqs, r.region ≠ m.region) → (∃ i, i < 64 ∧ ∀ r ∈ (s.vf vf).reqs, r.id ≠ i) →
      ∃ i, i < 64 ∧ (∀ r ∈ (s.vf vf).reqs, r.id ≠ i) ∧ (∀ j, j < i → ∃ r ∈ (s.vf vf).reqs, r.id = j) ∧ w.1.id = some i ∧
        (w.2.vf vf).reqs = (s.vf vf).reqs ++
          [{ id := i, region := m.region, mask := setBit 0 m.granule true, kinds := setBit 0 m.kind.num true, since := s.ac }] ∧
        ∃ bs, w.2.root.requests = s.root.requests ++ [bs] ∧
          bs = leBytes 2 vf ++ leBytes 1 i ++ leBytes 1 (2 ^ m.kind.num) ++ leBytes 2 (2 ^ m.granule % 65536) ++ leBytes 2 0 ++ leBytes 8 m.region) ∧
    ((∀ r ∈ (s.vf vf).reqs, r.region ≠ m.region) → (∀ i, i < 64 → ∃ r ∈ (s.vf vf).reqs, r.id = i) → 
      w.1.id = none ∧ w.1.refusedAt = s.ac ∧ w.2 = s) ∧
    (q ∈ (s.vf vf).reqs → q.region = m.region → (∀ r ∈ (s.vf vf).reqs, r.region = m.region ∨ r.id = q.id → r = q) →
      w.1.id = some q.id ∧ ∀ r, r ∈ (w.2.vf vf).reqs ↔
        (r ∈ (s.vf vf).reqs ∧ r.id ≠ q.id) ∨ r = { q with mask := setBit q.mask m.granule true, kinds := setBit q.kinds m.kind.num true })

/-- 09 R222, R223, 13 R305, 16 R354, 18 R385, 19 R404: an answer ends its request. With code 0 every thread, copy and SEND that waits for it
walks again. With code 1 each wick that waits in one plain access traps with cause stage-2 at its address, each taper traps, into its handler
or doubly, each copy fails with its channel's error, and each SEND is abandoned with code 1. An answer that names no request, or another
code, is counted. A resend lets the accesses that a full queue refused at least 256 ac ago walk again. -/
def PageAnswered : Prop :=
  ∀ (s : State) (vf id code : Nat) (u : Tid) (w : PageWait) (g c : Nat),
    let known := code ≤ 1 ∧ ∃ r ∈ (s.vf vf).reqs, r.id = id
    let waits := u ∈ vfThreads s vf ∧ (s.thread u).wait = some (.page w)
    let on (w : Option PageWait) : Bool := w.any fun x => x.id == some id
    let here := (g, c) ∈ vfCores s vf
    let T := (s.core u.gang u.core).taper
    (vfExists s vf = true → known →
      ∃ t, exec (.pageRequestAnswer vf id code) s = .next t ∧
        ((∀ v ∈ vfThreads s vf, (s.thread v).wait ≠ some .vmem) → (t.vf vf).reqs = (s.vf vf).reqs.filter fun r => r.id != id) ∧
        (waits → w.id = some id → code = 0 → (t.thread u).wait = none) ∧
        (∀ k, waits → w.id = some id → code = 1 → u.who = .wick k → (s.wick u.gang u.core k).vmem = none →
          (s.wick u.gang u.core k).fetch = none → (∀ x, T.th.wait = some (.page x) → x.id ≠ some id) →
          (t.wick u.gang u.core k).isFaulted = true ∧ (t.wick u.gang u.core k).code = 5 ∧ (t.wick u.gang u.core k).tval = w.va) ∧
        (waits → w.id = some id → code = 1 → u.who = .taper → T.act = false → T.tvec ≠ 0 →
          let V := (t.core u.gang u.core).taper
          V.act = true ∧ V.code = 5 ∧ V.tval = w.va ∧ V.tepc = T.th.pc ∧ V.th.pc = BitVec.ofNat 64 (T.tvec.toNat * 4) ∧ V.th.wait = none) ∧
        (waits → w.id = some id → code = 1 → u.who = .taper → T.act = true ∨ T.tvec = 0 → (t.core u.gang u.core).taper.run = .halted) ∧
        (here → code = 0 →
          (∀ ch : Fin 4, (chanOf t g c ch).queue = (chanOf s g c ch).queue.map fun y => if on y.wait then { y with wait := none } else y) ∧
          (t.core g c).sends = (s.core g c).sends.map fun y => if on y.wait then { y with wait := none } else y) ∧
        (here → code = 1 →
          (∀ (ch : Fin 4) (y : Copy) (ys : List Copy), (chanOf s g c ch).queue = y :: ys → on y.wait = true →
            (chanOf t g c ch).queue = [] ∧ (chanOf t g c ch).error = some (5, y.id)) ∧
          (t.core g c).sends = (s.core g c).sends.filter (fun y => !on y.wait) ∧
          ∀ who, (∃ y ∈ (s.core g c).sends, y.who = who ∧ on y.wait = true) → (s.thread ⟨g, c, who⟩).psCode = 0 →
            (t.thread ⟨g, c, who⟩).psCode = 1)) ∧
    (vfExists s vf = true → ¬known →
      exec (.pageRequestAnswer vf id code) s = .next (s.modVf vf fun v =>
        { v with errAnswers := if v.errAnswers = 0xFFFF then 0xFFFF else v.errAnswers + 1 })) ∧
    (vfExists s vf = true →
      ∃ t, exec (.pageRequestResend vf) s = .next t ∧
        (waits → w.id = none → w.room = false → w.refusedAt + 256 ≤ s.ac → (t.thread u).wait = none) ∧
        (waits → s.ac < w.refusedAt + 256 → (∀ k, u.who = .wick k → (s.wick u.gang u.core k).fetch = none) →
          (t.thread u).wait = (s.thread u).wait)) ∧
    (vfExists s vf = false → exec (.pageRequestAnswer vf id code) s = .next s ∧ exec (.pageRequestResend vf) s = .next s)

/-- 09 R221, 19 R412: the first fault record of a VF is written as 32 bytes at the queue's head, which advances, and vector 4 is raised; with
the queue off or full it is dropped and counted; a line of it that finds no room at the L2 waits. -/
def FaultRecorded : Prop :=
  ∀ (s s1 : State) (vf : Nat) (r : FaultRec) (rs : List FaultRec) (X : Xlat),
    let v := s.vf vf
    let va : Word := v.fqbase + BitVec.ofNat 64 (32 * (v.fqhead.toNat % 2 ^ v.fqLg.toNat))
    let room := v.fqEn = true ∧ (v.fqhead - v.fqtail).toNat < 2 ^ v.fqLg.toNat
    let counted := if v.fqovf = BitVec.allOnes 64 then v.fqovf else v.fqovf + 1
    vfExists s vf = true → v.faultWait = none → v.faults = r :: rs →
    (room → walkXlat s vf va .write = (.ok X, s1) → rangeRoom s1 vf X.pa 32 = false → exec (.faultRecord vf) s = .next (noRoom s1 vf X.pa)) ∧
    (room → walkXlat s vf va .write = (.ok X, s1) → rangeRoom s1 vf X.pa 32 = true →
      ∃ t, exec (.faultRecord vf) s = .next t ∧ memRead t.mem X.pa 8 = r.va.toNat ∧ memRead t.mem (X.pa + 8) 8 = r.ipa % 2 ^ 64 ∧
        memRead t.mem (X.pa + 16) 2 = r.gtag.toNat ∧ memByte t.mem (X.pa + 18) = r.core ∧ memByte t.mem (X.pa + 19) = r.who ∧
        memByte t.mem (X.pa + 20) = r.cause ∧ memByte t.mem (X.pa + 21) = r.kind ∧ memByte t.mem (X.pa + 22) = r.place ∧
        (∀ j, 23 ≤ j → j < 32 → memByte t.mem (X.pa + j) = 0) ∧ SameMemOutside X.pa 32 s1 t ∧ (t.vf vf).faults = (s1.vf vf).faults.tail ∧
        (t.vf vf).fqhead = v.fqhead + 1 ∧ t.msi = s1.msi ++ [(vf, 4)]) ∧
    (¬room → exec (.faultRecord vf) s = .next (s.modVf vf fun v => { v with faults := rs, faultWait := none, fqovf := counted }))

/-- 17 R381: a waiting entry goes to the dirty log's head while the log has room; the hypervisor's consumption makes room and lets writes that
waited for it go on. -/
def DirtyLogged : Prop :=
  ∀ (s : State) (vf n lg : Nat) (e : Word) (es : List Word) (u : Tid),
    let v := s.vf vf
    vfExists s vf = true →
    (v.dlogWait = e :: es → v.dlogLg = some lg → v.dlogHead - v.dlogTail < 2 ^ lg →
      ∃ t, exec (.dirtyLogAppend vf) s = .next t ∧
        memRead t.mem (s.coord.toNat * 2 ^ 46 + 2 ^ 45 + (v.dlogBase + 8 * (v.dlogHead % 2 ^ lg)) % 2 ^ 44) 8 = e.toNat ∧
        (t.vf vf).dlogHead = v.dlogHead + 1 ∧ (t.vf vf).dlogWait = es) ∧
    (v.dlogLg = some lg → 2 ^ lg ≤ v.dlogHead - v.dlogTail → exec (.dirtyLogAppend vf) s = .next s) ∧
    (∃ t, exec (.dirtyLogConsumed vf n) s = .next t ∧ (t.vf vf).dlogTail = min v.dlogHead (v.dlogTail + n) ∧
      (u ∈ vfThreads s vf → (s.thread u).wait = some .dirtyLog → (t.thread u).wait = none))

/-- Whether an invalidation names a byte among `n` from `lo` on. -/
def namesOf (i : Inval) (lo n : Nat) : Prop :=
  i.all = true ∨ ∃ a, lo ≤ a ∧ a < lo + n ∧ i.lo % 2 ^ 36 * 4096 ≤ a ∧ a < (i.lo % 2 ^ 36 + i.pages) * 4096

/-- A cached translation of a VF derives from an entry in an invalidated range: of stage 1, its virtual page; of stage 2, its intermediate
page or a page of the stage-1 tables that gave it (09 R227). -/
abbrev inRange (stage2 : Bool) (i : Inval) (e : TlbEntry) : Prop :=
  if stage2 then namesOf i e.ipa (2 ^ e.lg) ∨ ∃ p ∈ e.tables, namesOf i (p * 4096) 4096 else namesOf i (e.va % 2 ^ 48) (2 ^ e.lg)

/-- 04 R101, 09 R227, R228, 12 R283, 19 R402: an invalidation completes once every translated access of the VF is performed: no cached
translation in its range is left, nor a table entry that a walker keeps for the VF, others stay, and the request is answered. Of stage 2 the
tile lines whose backing bytes it covers go, the scalar data caches of the partition are emptied, and the granules given up are to be zeroed.
Before that nothing happens. -/
def Invalidated : Prop :=
  ∀ (s : State) (vf : Nat) (stage2 : Bool) (i : Inval) (is : List Inval), vfExists s vf = true → 1 ≤ i.pages →
    (if stage2 then (s.vf vf).inval2 else (s.vf vf).inval1) = i :: is →
    let covered (l : L2Line) : Prop := l.isTile (fun v _ => v == vf) = true ∧ ∃ p ∈ l.backing, namesOf i (p * 4096) 4096
    (accessesDone s vf stage2 i = true →
      ∃ t, exec (.invalidationComplete vf stage2) s = .next t ∧ t.mem = s.mem ∧
        (∀ k P, (k, P) ∈ s.pcores → (∀ Q, (k, Q) ∈ s.pcores → Q = P) →
          ∀ e, e ∈ (t.pcoreOf k).tlb ↔ e ∈ (s.pcoreOf k).tlb ∧ ¬(e.vf = vf ∧ inRange stage2 i e)) ∧
        (∀ d : Fin 4, ∀ e, e ∈ t.dieTlb[d] ↔ e ∈ s.dieTlb[d] ∧ ¬(e.vf = vf ∧ inRange stage2 i e)) ∧
        (∀ d : Fin 4, ∀ e, e ∈ t.walkers[d] ↔ e ∈ s.walkers[d] ∧ e.vf ≠ vf) ∧
        (stage2 = false → (t.vf vf).inval1 = is ∧ (t.vf vf).s1done = (s.vf vf).s1done + 1 ∧ t.l2 = s.l2) ∧
        (stage2 = true → (t.vf vf).inval2 = is ∧ (∀ l, l ∈ t.l2 ↔ l ∈ s.l2 ∧ ¬covered l) ∧
          (∀ n ∈ i.zero, tabGet? t.root.granules n = some .zeroing) ∧
          (∀ P q k, tabGet? s.parts (s.vf vf).part = some P → q ∈ P.quads → 4 * q ≤ k → k < 4 * q + 4 → (t.pcoreOf k).dcache = []) ∧
          t.root.completions = s.root.completions ++ (match i.seq with | some q => [{ seq := q, status := 0 }] | none => []))) ∧
    (accessesDone s vf stage2 i = false → exec (.invalidationComplete vf stage2) s = .next s)

/-- 04 R101, 12 R275, R279, R289, R294: the events of the caches and of main memory. A sector that HBM cannot correct is poisoned where the L2
does not serve it whole; a stale line of a scalar data cache goes; each 32 us the activation counters start anew, and what was held is served
and counted; a line that a VF may hold no longer leaves its way. -/
def MemoryEvents : Prop :=
  ∀ (s : State) (pa pcore line vf : Nat) (bad : Bool) (P : PCore) (h : Nat × Nat) (hs : List (Nat × Nat)),
    (∃ t, exec (.sectorFill pa bad) s = .next t ∧ t.mem = s.mem ∧
      (bad = true → localHbm s pa = true → sectorWhole s pa = false → poisoned t pa = true) ∧
      (∀ k, k ≠ pa / 64 → t.poison.contains k = s.poison.contains k) ∧
      (bad = false ∨ localHbm s pa = false ∨ sectorWhole s pa = true → t.poison = s.poison)) ∧
    (tabGet? s.pcores pcore = some P →
      ∃ t, exec (.cacheLineExpiry pcore line) s = .next t ∧ t.mem = s.mem ∧ t.gangs = s.gangs ∧
        ∀ l, l ∈ (t.pcoreOf pcore).dcache ↔ l ∈ P.dcache ∧ (l.line = line → s.ac - l.filled < 4096)) ∧
    (s.time < s.actAt + actPeriod → exec .activationCounterReset s = .next s) ∧
    (s.actAt + actPeriod ≤ s.time →
      ∃ t, exec .activationCounterReset s = .next t ∧ t.held = [] ∧ t.actAt = s.actAt + actPeriod ∧ t.mem = s.mem ∧
        ∀ row, tabGet 0 t.activations row = (s.held.filter fun x => rowOfLine s x.1 == row).length) ∧
    (s.held = h :: hs →
      ∃ t, exec .heldRowServe s = .next t ∧ t.held = hs ∧
        tabGet 0 t.activations (rowOfLine s h.1) = tabGet 0 s.activations (rowOfLine s h.1) + 1 ∧ t.mem = s.mem) ∧
    (s.held = [] → exec .heldRowServe s = .next s) ∧
    (vfExists s vf = true → (s.vf vf).wayGone ≠ 0 →
      ∃ t, exec (.wayRemovalComplete vf) s = .next t ∧ t.mem = s.mem ∧ (t.vf vf).wayGone = 0 ∧ (t.vf vf).waySeq = none ∧
        (∀ l ∈ t.l2, l.vf = vf → bitOf (s.vf vf).wayGone l.way = true → l.stale = true ∧ l.pins ≠ []) ∧
        (∀ q, (s.vf vf).waySeq = some q → ({ seq := q, status := 0 } : CmdDone) ∈ t.root.completions))

/-- 12 R289, R294: where a line of main memory lies: its logical bank is L mod 127, its logical channel (L div 127) mod 3 of that bank, its
place there L div 381; the channel map gives the physical channel, so lines of different physical channels never share a row. -/
def LinePlace : Prop :=
  ∀ (s : State) (l m : Nat),
    logicalChannel l = l % 127 * 3 + l / 127 % 3 ∧ channelLine l = l / 381 ∧
    (channelOf s l ≠ channelOf s m → rowOfLine s l ≠ rowOfLine s m) ∧
    (channelOf s l = channelOf s m → channelLine l = channelLine m → rowOfLine s l = rowOfLine s m)

/-- 09 R229, 12 R295: a run-ahead fetch asks for the line after the one that a thread executes in: it counts as issued, or as dropped where
the line cannot be translated, and changes no register, no memory and no wick. -/
def RunAhead : Prop :=
  ∀ (s s1 : State) (u : Tid) (x : Xres),
    let C := s.core u.gang u.core
    let line : Word := BitVec.ofNat 64 ((s.pcOf u).toNat / 64 * 64 + 64)
    (runnable s u = true → s.blockDriven u = false → translate s (s.pcoreNum u) (s.vfOf u) line .prefetch true = (x, s1) →
      ∃ t, exec (.runAheadFetch u) s = .next t ∧ t.thread u = s.thread u ∧ t.mem = s.mem ∧ (t.core u.gang u.core).wicks = C.wicks ∧
        ((∃ X, x = .ok X) → (t.core u.gang u.core).pfissued = C.pfissued + 1 ∧ (t.core u.gang u.core).pfdropped = C.pfdropped) ∧
        ((∀ X, x ≠ .ok X) → (t.core u.gang u.core).pfdropped = C.pfdropped + 1 ∧ (t.core u.gang u.core).pfissued = C.pfissued)) ∧
    (runnable s u = false ∨ s.blockDriven u = true → exec (.runAheadFetch u) s = .next s)

end Sys2Proof.Claims
end

