-- ==== Sys2Proof/Claims/LaunchRules.lean ====
section
/-! DEFINITION. Rules of 17 about the register block of a VF, its launch rings and its completion records, as propositions of which the
statements are made. -/

namespace Sys2Proof.Claims

open Sys2Proof.Machine

/-- A ring of a VF. -/
def ringOf (s : State) (vf : Nat) (n : Fin 4) : Ring := (s.vf vf).rings[n]

/-- Of a state only one ring of one VF differs, and what it has become. -/
def RingIs (s t : State) (vf : Nat) (n : Fin 4) (r : Ring) : Prop :=
  ringOf t vf n = r ∧ (∀ k, k ≠ n → ringOf t vf k = ringOf s vf k) ∧ t.vf vf = { s.vf vf with rings := (t.vf vf).rings } ∧
  (∀ k, k ≠ vf → tabGet? t.vfs k = tabGet? s.vfs k) ∧ t = { s with vfs := t.vfs }

/-- 17 R363: what a write pointer does to a ring that is enabled and runs: its descriptors become pending, none when it equals the read
pointer, or more than the ring holds stop it with err 1. -/
def rung (r : Ring) (live : Bool) : Ring :=
  if live = true ∧ r.en = true ∧ r.stopped = false then
    (if (r.wp - r.rp).toNat ≤ 2 ^ r.lgsize.toNat then { r with avail := r.wp, head := if r.wp = r.rp then none else r.head }
     else { r with err := 1, stopped := true, head := none, avail := r.rp })
  else r

/-- 17 R362, R363, R366: a ring after a write of its control register: reset, irq, size while it is not enabled, and enable. -/
def controlled (r : Ring) (v : Word) (live : Bool) : Ring :=
  let r := if v.getLsbD 10 then { r with rp := r.wp, avail := r.wp, err := 0, stopped := false, head := none, last := none } else r
  let r := { r with
    irq := v.getLsbD 9, lgsize := if r.en = false ∧ 4 ≤ v.toNat % 32 ∧ v.toNat % 32 ≤ 16 then v.setWidth 5 else r.lgsize }
  if v.getLsbD 8 then (if r.en then r else rung { r with en := true, last := none, head := none, avail := r.rp } live)
  else { r with en := false, head := none, avail := r.rp }

/-- 17 R361 to R363, R366, R380, 09 R227: the registers of a VF as its guest writes and reads them: doorbell, reset, enable, the write-one-to-clear
error byte, stage-1 invalidation, and the counters that a read clears. A VF that does not exist answers nothing. -/
def RingRegisters : Prop :=
  ∀ (s : State) (vf : Nat) (n : Fin 4) (wp : BitVec 32) (b : BitVec 8) (v : Word),
    let r := ringOf s vf n
    let live := (s.vf vf).state == 0
    let becomes (i : Instr) (q : Ring) := ∃ t, exec i s = .next t ∧ RingIs s t vf n q
    (vfExists s vf = true →
      becomes (.ringwpDoorbell vf n wp) (rung { r with wp := wp } live) ∧
      becomes (.ringReset vf n) { r with rp := r.wp, avail := r.wp, err := 0, stopped := false, head := none, last := none } ∧
      (r.en = false → becomes (.ringEnable vf n) (rung { r with en := true, last := none, head := none, avail := r.rp } live)) ∧
      (r.en = true → becomes (.ringEnable vf n) r) ∧ becomes (.ringstatErrClear vf n b) { r with err := r.err &&& ~~~b } ∧
      exec (.s1inv vf v) s = .next (s.modVf vf fun x => { x with
        inval1 := x.inval1 ++ [{ lo := v.toNat / 4096, pages := 2 ^ (v.toNat % 64), all := v.getLsbD 6, seq := none, zero := [] }] }) ∧
      exec (.fqovfRead vf) s = .next (s.modVf vf fun x => { x with fqovf := 0 }) ∧
      exec (.vferrRead vf) s = .next (s.modVf vf fun x => { x with errAnswers := 0, errCompl := 0 })) ∧
    (vfExists s vf = false → ∀ i, i = .ringwpDoorbell vf n wp ∨ i = .ringReset vf n ∨ i = .ringEnable vf n ∨
      i = .ringstatErrClear vf n b ∨ i = .s1inv vf v ∨ i = .fqovfRead vf ∨ i = .vferrRead vf → exec i s = .next s)

/-- 17 R361, R362, 09 R212, R221: a write of a VF register by its offset: ring base, control and pointers, the fault queue, the stage-1 root;
read-only registers and offsets that are not listed ignore it. -/
def VfRegisterWritten : Prop :=
  ∀ (s : State) (vf off : Nat) (v : Word) (n : Fin 4), vfExists s vf = true →
    let r := ringOf s vf n
    let w (off : Nat) := exec (.vfRegisterWrite vf off v) s
    let at_ (o : Nat) := 0x100 + 0x20 * n.val + o
    (r.en = false → ∃ t, w (at_ 0) = .next t ∧ RingIs s t vf n { r with base := BitVec.ofNat 64 (v.toNat / 4096 * 4096) }) ∧
    (r.en = true → ∃ t, w (at_ 0) = .next t ∧ RingIs s t vf n r) ∧
    (∃ t, w (at_ 8) = .next t ∧ RingIs s t vf n (controlled r v ((s.vf vf).state == 0))) ∧
    w (at_ 0x10) = exec (.ringwpDoorbell vf n (v.setWidth 32)) s ∧ w (at_ 0x18) = exec (.ringstatErrClear vf n (v.setWidth 8)) s ∧
    w 0x200 = .next (s.modVf vf fun x => { x with fqbase := BitVec.ofNat 64 (v.toNat / 4096 * 4096) }) ∧
    w 0x208 = .next (s.modVf vf fun x => { x with
      fqEn := v.getLsbD 8, fqLg := if 5 ≤ v.toNat % 32 ∧ v.toNat % 32 ≤ 20 then v.setWidth 5 else x.fqLg }) ∧
    w 0x214 = .next (s.modVf vf fun x => { x with fqtail := v.setWidth 32 }) ∧
    w 0x300 = .next (s.modVf vf fun x => { x with s1root := v &&& 0x0FFFFFFFFFFFF001 }) ∧ w 0x308 = exec (.s1inv vf v) s ∧
    (off < 0x100 ∨ 0x180 ≤ off → off ∉ [0x200, 0x208, 0x214, 0x300, 0x308] → w off = .next s)

/-- A descriptor's fields by their places in its 64 bytes at `a` (17 R364). -/
def descriptorAt (m : Mem) (a : Nat) (d : Desc) : Prop :=
  d.entry.toNat = memRead m a 8 ∧ d.args.toNat = memRead m (a + 8) 8 ∧ d.gtag.toNat = memRead m (a + 16) 2 ∧
  d.ncm1.toNat = (memByte m (a + 18)).toNat % 128 ∧ d.nsm1.toNat = (memByte m (a + 19)).toNat % 16 ∧
  d.prio.toNat = (memByte m (a + 19)).toNat / 16 % 4 ∧ d.dep.toNat = (memByte m (a + 19)).toNat / 64 ∧
  d.lg.toNat = (memByte m (a + 20)).toNat % 16 ∧ d.wmen = (memByte m (a + 21)).getLsbD 0 ∧ d.stages.toNat = memRead m (a + 24) 12 ∧
  d.wmslot.toNat = memRead m (a + 36) 2 % 4096 ∧ d.wmbound.toNat = memRead m (a + 40) 8 ∧ d.crec.toNat = memRead m (a + 48) 8

/-- The first check that a descriptor breaks, by its code; 0 when it breaks none (17 R365): its cores and stages, vlcap.lg, the priority cap,
reserved fields, the watermark slot, its alignments. -/
def launchCode (s : State) (vf : Nat) (m : Mem) (a : Nat) (d : Desc) : Nat :=
  let quads := d.ncm1.toNat / 4 + 1
  let stage (q : Nat) := d.stages.toNat / 2 ^ (4 * q) % 16
  let byte (k : Nat) := (memByte m (a + k)).toNat
  if 4 * (tabGet (Part.new [] [] []) s.parts (s.vf vf).part).quads.length < d.ncm1.toNat + 1 ∨ 96 < d.ncm1.toNat + 1 ∨
      (List.range quads).any (fun q => decide (d.nsm1.toNat < stage q)) ∨
      (List.range (d.nsm1.toNat + 1)).any (fun k => (List.range quads).all fun q => stage q != k) then 1
  else if d.lg.toNat < 6 ∨ 11 < d.lg.toNat then 2
  else if (s.vf vf).prioCap.toNat < d.prio.toNat then 3
  else if 128 ≤ byte 18 ∨ 16 ≤ byte 20 ∨ 2 ≤ byte 21 ∨ memRead m (a + 22) 2 ≠ 0 ∨ 4096 ≤ memRead m (a + 36) 2 ∨
      memRead m (a + 38) 2 ≠ 0 ∨ memRead m (a + 56) 8 ≠ 0 ∨ d.dep.toNat = 3 ∨
      (List.range 24).any (fun q => decide (quads ≤ q) && stage q != 0) then 4
  else if d.wmen = true ∧ tabGet? s.markBlocks (d.wmslot.toNat / 64) ≠ some vf then 5
  else if d.entry.toNat % 4 ≠ 0 ∨ d.crec.toNat % 32 ≠ 0 then 6
  else 0

/-- 17 R363 to R367: the descriptor at rp is read at its place in the ring; one that breaks no check becomes the ring's head; one that breaks a
check is rejected with status 1 and the check's code, and rp passes it; a failed or poisoned read stops the ring with err 2. -/
def DescriptorTaken : Prop :=
  ∀ (s : State) (vf : Nat) (n : Fin 4) (fails : Bool),
    let v := s.vf vf
    let r := ringOf s vf n
    let a := s.coord.toNat * 2 ^ 46 + 2 ^ 45 + (r.base.toNat + 64 * (r.rp.toNat % 2 ^ r.lgsize.toNat)) % 2 ^ 44
    let pending := vfExists s vf = true ∧ v.state = 0 ∧ v.part < 24 ∧ r.en = true ∧ r.stopped = false ∧ r.head = none ∧ r.rp ≠ r.avail
    (pending → fails = false → poisoned s a = false →
      ∃ t d, exec (.launchDescriptor vf n fails) s = .next t ∧ descriptorAt s.mem a d ∧
        (launchCode s vf s.mem a d = 0 → (∃ c, (ringOf t vf n).head = some { desc := d, candAt := c }) ∧ (ringOf t vf n).rp = r.rp) ∧
        (launchCode s vf s.mem a d ≠ 0 → (ringOf t vf n).rp = r.rp + 1 ∧ (ringOf t vf n).last = none ∧
          ∃ c, (ringOf t vf n).compl = r.compl ++ [c] ∧
            c.bytes.take 8 = leBytes 2 d.gtag.toNat ++ [1, BitVec.ofNat 8 (launchCode s vf s.mem a d)] ++ leBytes 4 r.rp.toNat)) ∧
    (pending → fails = true ∨ poisoned s a = true →
      ∃ t, exec (.launchDescriptor vf n fails) s = .next t ∧
        RingIs s t vf n { r with err := 2, stopped := true, head := none, avail := r.rp }) ∧
    (¬pending → exec (.launchDescriptor vf n fails) s = .next s)

/-- 17 R367, 09 R221, 19 R412: a ring's first completion record is written at its address, or not at all where the launch names none; done
counts it and its vector is raised where irq asks; one that cannot be written is dropped, counted and reported; one whose line finds no
room at the L2 waits (12 R277). -/
def CompletionWritten : Prop :=
  ∀ (s s1 : State) (vf : Nat) (n : Fin 4) (c : Compl) (cs : List Compl) (X : Xlat),
    let r := ringOf s vf n
    let due := vfExists s vf = true ∧ r.compl = c :: cs ∧ c.wait = none
    let counted (s t : State) := (ringOf t vf n).compl = cs ∧ (ringOf t vf n).done = r.done + 1 ∧
      t.msi = s.msi ++ (if r.irq then [(vf, n.val)] else [])
    (due → c.crec = 0 → ∃ t, exec (.completionRecord vf n) s = .next t ∧ counted s t ∧ t.mem = s.mem) ∧
    (due → c.crec ≠ 0 → walkXlat s vf c.crec .write = (.ok X, s1) → rangeRoom s1 vf X.pa 32 = false →
      exec (.completionRecord vf n) s = .next (noRoom s1 vf X.pa)) ∧
    (due → c.crec ≠ 0 → walkXlat s vf c.crec .write = (.ok X, s1) → rangeRoom s1 vf X.pa 32 = true →
      ∃ t, exec (.completionRecord vf n) s = .next t ∧ counted s1 t ∧ memBytes t.mem X.pa c.bytes.length = c.bytes ∧
        SameMemOutside X.pa c.bytes.length s1 t) ∧
    (∀ e p, due → c.crec ≠ 0 → walkXlat s vf c.crec .write = (.fail e p, s1) →
      ∃ t, exec (.completionRecord vf n) s = .next t ∧ (ringOf t vf n).compl = cs ∧ (ringOf t vf n).done = r.done + 1 ∧ t.msi = s1.msi ∧
        t.mem = s1.mem ∧ (t.vf vf).errCompl = (if (s.vf vf).errCompl = 0xFFFF then 0xFFFF else (s.vf vf).errCompl + 1) ∧
        (t.vf vf).faults = (s1.vf vf).faults ++
          [{ va := c.crec, ipa := p.ipa, gtag := c.gtag, core := 0xFF, who := 0x20, cause := e.code, kind := 1, place := p.place }])

end Sys2Proof.Claims
end

