-- ==== Sys2Proof/Claims/ModuleRules.lean ====
section
/-! DEFINITION. Rules of 12, 18 and 19 about device faults, storage errors and the clock's limits, as propositions of which the statements are
made. -/

namespace Sys2Proof.Claims

open Sys2Proof.Machine

/-- 18 R395: a gang that runs and has made no progress for 2^24 ac is a device fault of its partition; before that nothing happens. -/
def WatchdogTrips : Prop :=
  ∀ (s : State) (g : Nat) (G : Gang), tabGet? s.gangs g = some G →
    (G.life = .running → 2 ^ 24 ≤ s.ac - G.progressAt →
      ∃ t, exec (.watchdog g) s = .next t ∧ deviceFaulted s t [(s.vf G.vf).part] .watchdog) ∧
    (G.life ≠ .running ∨ s.ac - G.progressAt < 2 ^ 24 → exec (.watchdog g) s = .next s)

/-- A unit of a partition has held a request for 2^24 ac, as the model sees units (18 R395, log 33): a channel that has moved no byte of its
head copy, a SEND entry, the dispatcher with a gang that it saves or restores, a page request. -/
def heldLong (s : State) (part : Nat) : Prop :=
  (∃ g G c C, (g, G) ∈ s.gangs ∧ s.partOf g = part ∧ G.life = .running ∧ (c, C) ∈ G.cores ∧
    ((∃ ch : Fin 4, C.chans[ch].queue ≠ [] ∧ 2 ^ 24 ≤ s.ac - C.chans[ch].movedAt) ∨ ∃ y ∈ C.sends, 2 ^ 24 ≤ s.ac - y.movedAt)) ∨
  (∃ g G, (g, G) ∈ s.gangs ∧ s.partOf g = part ∧ (G.life = .stopping ∨ G.life = .restoring) ∧ 2 ^ 24 ≤ s.ac - G.progressAt) ∨
  ∃ k v q, (k, v) ∈ s.vfs ∧ v.part = part ∧ q ∈ v.reqs ∧ 2 ^ 24 ≤ s.ac - q.since

/-- 18 R395: the watchdog trips for a unit that has held a request for 2^24 ac, its partition's count starting anew at each trip (log 33): a
device fault of that partition. -/
def UnitWatchdog : Prop :=
  ∀ (s : State),
    let ripe (part : Nat) := ∃ P, tabGet? s.parts part = some P ∧ 2 ^ 24 ≤ s.ac - P.trippedAt
    (∀ part, heldTooLong s = some part → ripe part ∧ heldLong s part) ∧ (∀ part, ripe part → heldLong s part → heldTooLong s ≠ none) ∧
    ∀ part, ∃ t, dueOutcome (.unit part) s = .next t ∧ deviceFaulted s t [part] .watchdog ∧
      (tabGet (Part.new [] [] []) t.parts part).trippedAt = s.ac

/-- Whether a partition uses, or owns, a structure whose error is a device fault (18 R396): of the L2 tags those with lines in it, of the
tensor table and of the watermark slots those with blocks, of a core's own registers and tables the owner of its quad. -/
def usesStorage (s : State) (st : Storage) (core part : Nat) : Prop :=
  match st with
  | .l2Tags => ∃ l ∈ s.l2, vfExists s l.vf = true ∧ (s.vf l.vf).part = part
  | .tensorTable => ∃ b v, (b, v) ∈ s.tensorBlocks ∧ vfExists s v = true ∧ (s.vf v).part = part
  | .watermarks => ∃ b v, (b, v) ∈ s.markBlocks ∧ vfExists s v = true ∧ (s.vf v).part = part
  | _ => part = tabGet 31 s.quadMap (core / 4)

/-- 12 R275, 18 R396: an error that cannot be corrected: in the structures that it names a device fault of the partitions that use or own
them, in HBM and in L2 data a poisoned sector where the data is served from there, on a link the loss of its port. A corrected one is
counted, and one of a translation cache or of a core's cache drops its entry or its line. -/
def StorageErrors : Prop :=
  ∀ (s : State) (st : Storage) (place k : Nat) (port : Fin 6),
    let counted (t : State) := tabGet 0 t.root.corrected (storageIndex st) = tabGet 0 s.root.corrected (storageIndex st) + 1 ∧
      ∀ q, q ≠ st → tabGet 0 t.root.corrected (storageIndex q) = tabGet 0 s.root.corrected (storageIndex q)
    let same (t u : State) := t = { u with root := { s.root with corrected := t.root.corrected } }
    let poisoning (i : Instr) := ∃ t, exec i s = .next t ∧ t = { s with poison := t.poison } ∧ poisoned t place = true ∧
      ∀ n, n ≠ place / 64 → t.poison.contains n = s.poison.contains n
    (st ∈ [.l2Tags, .tensorTable, .ownershipTables, .watermarks, .vectorRegs, .accumulators, .scalarSets] →
      ∃ t parts, exec (.uncorrectableError st place) s = .next t ∧ deviceFaulted s t parts .uncorrectable ∧
        ∀ n, n ∈ parts ↔ usesStorage s st place n) ∧
    (localHbm s place = true → sectorWhole s place = false → poisoning (.uncorrectableError .hbm place)) ∧
    (localHbm s place = false ∨ sectorWhole s place = true → exec (.uncorrectableError .hbm place) s = .next s) ∧
    (localHbm s place = true → sectorHeld s place = true → poisoning (.uncorrectableError .l2Data place)) ∧
    (localHbm s place = false ∨ sectorHeld s place = false → exec (.uncorrectableError .l2Data place) s = .next s) ∧
    exec (.uncorrectableError .links port.val) s = exec (.linkLoss port) s ∧
    (6 ≤ place → exec (.uncorrectableError .links place) s = .next s) ∧
    exec (.uncorrectableError .tlbs place) s = .next s ∧ exec (.uncorrectableError .caches place) s = .next s ∧
    (∃ t, exec (.correctedError ⟨st, place, k⟩) s = .next t ∧ counted t ∧ (st ≠ .tlbs → st ≠ .caches → same t s) ∧
      (st = .tlbs → place < 96 → (tabGet? s.pcores place).isSome = true →
        (t.pcoreOf place).tlb = (s.pcoreOf place).tlb.eraseIdx k ∧ same t { s with pcores := t.pcores } ∧
        ∀ q, q ≠ place → t.pcoreOf q = s.pcoreOf q) ∧
      (∀ d : Fin 4, st = .tlbs → place = 96 + d.val → t.dieTlb[d] = s.dieTlb[d].eraseIdx k ∧ same t { s with dieTlb := t.dieTlb }) ∧
      (∀ d : Fin 4, st = .tlbs → place = 100 + d.val → t.walkers[d] = s.walkers[d].eraseIdx k ∧ same t { s with walkers := t.walkers }) ∧
      (st = .caches → (tabGet? s.pcores place).isSome = true →
        (t.pcoreOf place).icache = (s.pcoreOf place).icache.eraseIdx k ∧
        (t.pcoreOf place).dcache =
          (if k < (s.pcoreOf place).icache.length then (s.pcoreOf place).dcache
           else (s.pcoreOf place).dcache.eraseIdx (k - (s.pcoreOf place).icache.length)) ∧
        same t { s with pcores := t.pcores } ∧ ∀ q, q ≠ place → t.pcoreOf q = s.pcoreOf q))

/-- 12 R290, 18 R397, 19 R414: a channel that fails, a junction above 125 degrees, and a reply that has not come for 2^20 ac are device faults; a failed
channel keeps its place in the channel map until the next reset, and a module that is too hot stops. -/
def ModuleFaults : Prop :=
  ∀ (s : State) (channel part : Nat),
    (channel < 384 →
      ∃ t, exec (.channelFailure channel) s = .next t ∧ deviceFaulted s t (s.parts.map (·.1)) .uncorrectable ∧ t.chanMap = s.chanMap ∧
        ∀ c, c ∈ t.chanFailed ↔ c ∈ s.chanFailed ∨ c = channel) ∧
    (384 ≤ channel → exec (.channelFailure channel) s = .next s) ∧
    (∃ t, exec .overTemperature s = .next t ∧ deviceFaulted s t (s.parts.map (·.1)) .overTemperature ∧
      t.power = { s.power with stopped := true }) ∧
    let waiting := ∃ q ∈ s.linkReqs, q.part = part ∧ 2 ^ 20 ≤ s.ac - q.since
    (waiting → ∃ t, exec (.remoteReplyTimeout part) s = .next t ∧ deviceFaulted s t [part] .linkLoss ∧ ∀ q ∈ t.linkReqs, q.part ≠ part) ∧
    (¬waiting → exec (.remoteReplyTimeout part) s = .next s)

/-- A module that has stopped steps no further: only a reset of the agenda happens, and no time passes (19 R413, R414; log 1). -/
def StoppedModule : Prop :=
  ∀ (s : State) (turn : Turn) (rest : List Turn), s.power.stopped = true ∨ s.ready = false → s.agenda = turn :: rest →
    ∃ s1, s1.agenda = rest ∧ s1.ac = s.ac ∧ s1.mem = s.mem ∧ s1.gangs = s.gangs ∧
      (∀ u, turn.move = .thread u → step s = .next s1) ∧
      (∀ i, turn.move = .event i → encode i = none →
        threadOnly i = false →
        (isReset i = true → step s = exec i s1) ∧ (isReset i = false → step s = .next s1))

end Sys2Proof.Claims
end

