-- ==== Sys2Proof/Claims/DispatchRules.lean ====
section
/-! DEFINITION. Rules of 17 about candidates, placement, token budgets and layout commits, as propositions of which the statements are made. -/

namespace Sys2Proof.Claims

open Sys2Proof.Machine

/-- A VF is funded: a positive balance, or it may borrow and the pool has something it can draw (17 R368). -/
def isFunded (s : State) (vf : Nat) : Prop :=
  0 < (s.vf vf).bal ∨
    ((s.vf vf).borrow = true ∧ 0 < poolOf s (s.vf vf).part ∧ (s.vf vf).debt < 4 * (s.vf vf).quota)

/-- The first two keys of 17 R368, which alone count for pre-emption (17 R369): one VF's work at a priority outranks another's. -/
def outranks (s : State) (vf prio vf' prio' : Nat) : Prop :=
  (isFunded s vf ∧ ¬isFunded s vf') ∨ ((isFunded s vf ↔ isFunded s vf') ∧ prio' < prio)

/-- One candidate ranks strictly before another: class, priority, age, number (17 R368). -/
def ranksBefore (s : State) (a b : Cand) : Prop :=
  outranks s a.vf a.prio b.vf b.prio ∨
    (¬outranks s b.vf b.prio a.vf a.prio ∧
      (a.age < b.age ∨ (a.age = b.age ∧ (a.vf < b.vf ∨ (a.vf = b.vf ∧ a.ring < b.ring)))))

/-- The state in which a partition's dispatcher decides: a commit that can end has ended, launches whose waits are met are candidates,
idleness is judged, and reservations of what is no candidate are gone. -/
def judged (s : State) (part : Nat) : State :=
  let s1 := settleIdle (noteCandidates (finishLayout s)) part
  pruneServed s1 part (rankedCands s1 part)

/-- A quad of a partition that a candidate could be placed on: no gang holds it, no commit moves it, no other candidate has it reserved
(17 R369, R376). -/
def quadFree (s : State) (part : Nat) (id : CandId) (q : Nat) : Prop :=
  q ∈ (s.part part).quads ∧ (∀ e ∈ s.gangs, q ∉ e.2.quads) ∧ quadMoves s q = false ∧ ∀ r ∈ (s.part part).reserved, r.1 = q → r.2 = id

/-- A candidate finds enough free quads. -/
def fits (s : State) (part : Nat) (c : Cand) : Prop :=
  ∃ M : List Nat, M.Nodup ∧ M.length = c.need ∧ ∀ q ∈ M, quadFree s part c.id q

/-- A gang core as 01 R10 to R13 and 06 R133 start it: its taper at the entry address with the argument in x10, every other register zero,
its wicks idle. -/
def coreStarts (t : State) (g k : Nat) (d : Desc) : Prop :=
  (t.core g k).taper.run = .running ∧ (t.core g k).taper.th.pc = d.entry ∧
  (∀ r : Reg, t.getX { gang := g, core := k, who := .taper } r = if r = 10 then d.args else 0) ∧
  ∀ w : Fin 8, (t.wick g k w).state = .idle ∧ (t.wick g k w).vlcapLg = d.lg ∧
    ∀ r : Reg, t.getX { gang := g, core := k, who := .wick w } r = 0

/-- 17 R363, R368, R369, 01 R9 to R13: a candidate has been placed: it holds the lowest-numbered free quads, their cores' caches are empty, a
launch is a new gang and its descriptor is passed, a saved gang waits for its restore; no other gang and no memory is changed. -/
def placedAs (s t : State) (part : Nat) (c : Cand) : Prop :=
  ∃ L : List Nat, L.length = c.need ∧ (∀ q ∈ L, quadFree s part c.id q) ∧
    (∀ q ∈ L, ∀ p, quadFree s part c.id p → p ∉ L → q < p) ∧
    (∀ q ∈ L, ∀ k, k < 4 → (t.pcoreOf (4 * q + k)).dcache = [] ∧ (t.pcoreOf (4 * q + k)).icache = []) ∧ t.mem = s.mem ∧
    (∀ vf n h, c.id = .head vf n → (ringOf s vf n).head = some h →
      let g := s.nextGang
      t.nextGang = g + 1 ∧ ringOf t vf n = { ringOf s vf n with rp := (ringOf s vf n).rp + 1, head := none, last := some g } ∧
      (∃ G, tabGet? t.gangs g = some G ∧ G.vf = vf ∧ G.ring = n ∧ G.seq = (ringOf s vf n).rp ∧ G.desc = h.desc ∧ G.life = .running ∧
        G.quads = L ∧ G.slots = [] ∧ G.tokens = 0 ∧ G.candAt = c.age) ∧
      (∀ k, k ≤ h.desc.ncm1.toNat → coreStarts t g k h.desc) ∧ ∀ j, j ≠ g → tabGet? t.gangs j = tabGet? s.gangs j) ∧
    (∀ g G, c.id = .gang g → tabGet? s.gangs g = some G →
      tabGet? t.gangs g = some { G with life := .restoring, quads := L, placedAt := s.ac, progressAt := s.ac } ∧
      ∀ j, j ≠ g → tabGet? t.gangs j = tabGet? s.gangs j)

/-- 17 R368, R369: the first-ranked candidate is placed when it fits; when it does not, and nothing of lower rank runs, the first-ranked of
those that fit is placed in its stead, until the first has waited 262,144 ac; then nothing is placed. -/
def CandidatePlaced : Prop :=
  ∀ (s : State) (part : Nat) (c d : Cand), (tabGet? s.parts part).isSome = true →
    let s1 := judged s part
    (s1.part part).quads.Pairwise (· < ·) → (s1.part part).hold = none → (s1.part part).reserved = [] → c ∈ partCands s1 part →
    (∀ e ∈ partCands s1 part, e ≠ c → ranksBefore s1 c e ∧ e.id ≠ c.id) →
    (fits s1 part c → ∃ t, exec (.placement part) s = .next t ∧ placedAs s1 t part c) ∧
    (¬fits s1 part c → (∀ e ∈ s1.gangs, (s1.vf e.2.vf).part = part → e.2.life = .running →
        ¬outranks s1 c.vf c.prio e.2.vf e.2.desc.prio.toNat) →
      (s1.ac - c.since < 262144 → d ∈ partCands s1 part → fits s1 part d →
        (∀ e ∈ partCands s1 part, fits s1 part e → e ≠ d → ranksBefore s1 d e) →
        ∃ t, exec (.placement part) s = .next t ∧ placedAs s1 t part d) ∧
      (262144 ≤ s1.ac - c.since → ∃ t, exec (.placement part) s = .next t ∧ t.gangs = s1.gangs ∧ t.nextGang = s1.nextGang))

/-- 17 R369, R377: a gang that a placement chooses for pre-emption runs in the partition, is of strictly lower rank than some candidate there,
and holds context slots or finds as many as it needs free; it takes none before its save. Nothing is pre-empted for age or number. -/
def LowerRankChosen : Prop :=
  ∀ (s t : State) (part g : Nat) (G H : Gang), exec (.placement part) s = .next t → tabGet? s.gangs g = some G →
    (∀ K, (g, K) ∈ s.gangs → K = G) → G.preempt = false → tabGet? t.gangs g = some H → H.preempt = true →
    let s1 := judged s part
    G.life = .running ∧ (s1.vf G.vf).part = part ∧ H.slots = G.slots ∧
      (G.slots = [] → G.desc.quadCount ≤ (freeSlots s1 G.vf).length) ∧
      ∃ c ∈ partCands s1 part, outranks s1 c.vf c.prio G.vf G.desc.prio.toNat

/-- A running gang of a partition that a candidate may pre-empt: of strictly lower rank, not chosen yet, on no quad that a commit moves
(17 R369, R376). -/
def lowerRanked (s : State) (part : Nat) (c : Cand) (G : Gang) : Prop :=
  G.life = .running ∧ G.preempt = false ∧ (s.vf G.vf).part = part ∧ outranks s c.vf c.prio G.vf G.desc.prio.toNat ∧
    ∀ q ∈ G.quads, quadMoves s q = false

/-- One gang is pre-empted no later than another: it ranks lower, or they rank alike and it was placed no earlier (17 R369). -/
def goesFirst (s : State) (G H : Gang) : Prop :=
  let above (A B : Gang) := outranks s A.vf A.desc.prio.toNat B.vf B.desc.prio.toNat
  above H G ∨ (¬above G H ∧ H.placedAt ≤ G.placedAt)

/-- 17 R369: when the first-ranked candidate does not fit, and running gangs of strictly lower rank, which hold context slots, hold enough quads to
close the gap, the dispatcher chooses enough of them for pre-emption: the lowest rank first, and then the most recently placed; their quads are
reserved for that candidate, and nothing is placed. -/
def RoomMade : Prop :=
  ∀ (s : State) (part : Nat) (c : Cand), (tabGet? s.parts part).isSome = true →
    let s1 := judged s part
    let free := (freeQuads s1 part c.id).length
    let lower (e : Nat × Gang) := lowerRanked s1 part c e.2
    (s1.part part).quads.Nodup → (s1.part part).hold = none → (s1.part part).reserved = [] → c ∈ partCands s1 part →
    (∀ e ∈ partCands s1 part, e ≠ c → ranksBefore s1 c e ∧ e.id ≠ c.id) → ¬fits s1 part c →
    (s1.gangs.map (·.1)).Nodup → (∀ e ∈ s1.gangs, lower e → e.2.slots ≠ []) →
    ∀ L : List (Nat × Gang), L.Nodup → (∀ e, e ∈ L ↔ e ∈ s1.gangs ∧ lower e) →
      c.need ≤ free + (L.map fun e => e.2.quads.length).sum →
      ∃ (t : State) (V : List (Nat × Gang)), exec (.placement part) s = .next t ∧ t.nextGang = s1.nextGang ∧ V.Nodup ∧ (∀ e ∈ V, e ∈ L) ∧
        c.need ≤ free + (V.map fun e => e.2.quads.length).sum ∧ (∀ e ∈ V, ∀ h ∈ L, h ∉ V → goesFirst s1 e.2 h.2) ∧
        (∀ e ∈ V, (t.gang e.1) = { e.2 with preempt := true, forLayout := false } ∧ ∀ q ∈ e.2.quads, (q, c.id) ∈ (t.part part).reserved) ∧
        ∀ e ∈ s1.gangs, e ∉ V → t.gang e.1 = e.2

/-- 17 R369: the first-ranked candidate that has waited 262,144 ac and does not fit blocks its partition, and while it does not fit nothing is
placed there. -/
def PlacementBlocked : Prop :=
  ∀ (s : State) (part : Nat) (c : Cand) (cs : List Cand), (tabGet? s.parts part).isSome = true →
    let s1 := judged s part
    (rankedCands s part = c :: cs → 262144 ≤ s.ac - c.since → (s.part part).quads.Nodup → ¬fits s part c → (s.part part).hold = none →
      ∃ t, exec (.placementHold part) s = .next t ∧ (t.part part).hold = some c.id ∧ t = { s with parts := t.parts } ∧
        ∀ p, p ≠ part → tabGet? t.parts p = tabGet? s.parts p) ∧
    (rankedCands s part = c :: cs → s.ac - c.since < 262144 ∨ fits s part c ∨ (s.part part).hold ≠ none →
      exec (.placementHold part) s = .next s) ∧
    (rankedCands s part = [] → exec (.placementHold part) s = .next s) ∧
    ((s1.part part).hold = some c.id → c ∈ partCands s1 part → (∀ e ∈ partCands s1 part, e.id = c.id → e = c) →
      (s1.part part).quads.Nodup → ¬fits s1 part c →
      ∃ t, exec (.placement part) s = .next t ∧ t.nextGang = s1.nextGang ∧
        ∀ j H, tabGet? t.gangs j = some H → ∃ K, tabGet? s1.gangs j = some K ∧ H.life = K.life ∧ H.quads = K.quads)

/-- The sum of one quantity over VFs. -/
def sumVfs (f : Vf → Nat) (vs : List (Nat × Vf)) : Nat := (vs.map fun e => f e.2).sum

/-- 17 R370, R372: a period starts after 262,144 ac: in each partition balances and contributions are set anew from the new quotas, debts repay
min(debt, Q div 4), the total goes to creditors in ascending VF number, and idle VFs contribute their balances. -/
def PeriodStarted : Prop :=
  ∀ (s : State) (part k : Nat) (v : Vf) (pre post : List (Nat × Vf)),
    (s.ac - s.periodAt < 262144 → exec .periodStart s = .next s) ∧
    (262144 ≤ s.ac - s.periodAt → (s.vfs.map (·.1)).Pairwise (· < ·) → partVfs s part = pre ++ (k, v) :: post →
      let repays (v : Vf) : Nat := min v.debt (v.nextQuota / 4)
      let got := min v.cred (sumVfs repays (partVfs s part) - sumVfs (·.cred) pre)
      let new := v.nextQuota - repays v + got
      ∃ t, exec .periodStart s = .next t ∧ t.periodAt = s.periodAt + 262144 ∧ t.gangs = s.gangs ∧ t.mem = s.mem ∧
        t.vf k = { v with
          bal := if vfIdle s k v then 0 else new
          contrib := if vfIdle s k v then new else 0
          debt := v.debt - repays v, cred := v.cred - got, owing := 0, quota := v.nextQuota, borrow := v.nextBorrow })

/-- 17 R371, R373: what a balance does not cover is drawn from the pool up to the cap on the debt: lenders' contributions go in ascending VF
number, each lender's credit rises by what was taken of it and the debt by all of it; the rest is taken from nothing. -/
def BalanceDrawn : Prop :=
  ∀ (s : State) (vf k : Nat) (v w : Vf) (pre post : List (Nat × Vf)), (s.vfs.map (·.1)).Pairwise (· < ·) → (vf, v) ∈ s.vfs →
    let pool := sumVfs (·.contrib) (partVfs s v.part)
    let d := min v.owing (if v.borrow then min pool (4 * v.quota - v.debt) else 0)
    ∃ t, exec (.balanceExhausted vf) s = .next t ∧ t = { s with vfs := t.vfs } ∧ (t.vf vf).debt = v.debt + d ∧ (t.vf vf).owing = 0 ∧
      (partVfs s v.part = pre ++ (k, w) :: post →
        let taken := min w.contrib (d - sumVfs (·.contrib) pre)
        (t.vf k).contrib = w.contrib - taken ∧ (t.vf k).cred = w.cred + taken ∧ (t.vf k).bal = w.bal ∧
        (k ≠ vf → (t.vf k).debt = w.debt)) ∧
      sumVfs (·.contrib) (partVfs t v.part) + d = pool ∧
      sumVfs (·.cred) (partVfs t v.part) = sumVfs (·.cred) (partVfs s v.part) + d ∧
      sumVfs (·.debt) (partVfs t v.part) = sumVfs (·.debt) (partVfs s v.part) + d ∧
      ∀ j, (s.vf j).part ≠ v.part → t.vf j = s.vf j

/-- 17 R371, R373: a VF that can draw no more owes nothing for what it still runs, and its partition's dispatcher ranks anew. -/
def DrawingStopped : Prop :=
  ∀ (s : State) (vf : Nat), vfExists s vf = true →
    let v := s.vf vf
    (v.borrow = false ∨ poolOf s v.part = 0 ∨ 4 * v.quota ≤ v.debt →
      (∃ t, exec (.debtAtCap vf) s = .next t) ∧
      exec (.debtAtCap vf) s = exec (.placement v.part) (s.modVf vf fun v => { v with owing := 0 })) ∧
    (v.borrow = true → 0 < poolOf s v.part → v.debt < 4 * v.quota → exec (.debtAtCap vf) s = .next s)

/-- New tables are well formed (17 R375): quads, VFs and partitions in range, and every partition that they name holds a quad. -/
def layoutFormed (l : LayoutTables) : Prop :=
  let hasQuad (p : Nat) := ∃ e ∈ l.quadMap, e.2 = p
  (∀ e ∈ l.quadMap, e.1 < 24 ∧ e.2 < 24) ∧ (∀ e ∈ l.vfMap, 1 ≤ e.1 ∧ e.1 ≤ 512 ∧ e.2 < 24 ∧ hasQuad e.2) ∧
    (∀ e ∈ l.peerAccept, hasQuad e.1) ∧ ∀ e ∈ l.domain, hasQuad e.1

/-- New tables keep apart the tenants whose policies ask it, and accept no sender whom the policy of a tenant there leaves out (19 R401). -/
def layoutAllowed (s : State) (l : LayoutTables) : Prop :=
  (∀ a ∈ s.vfs, a.2.policy.cotenant = false → ∀ b ∈ s.vfs, b.1 ≠ a.1 → b.2.policy.key ≠ a.2.policy.key →
    tableVf l a.1 < 24 → tableVf l b.1 ≠ tableVf l a.1) ∧
  ∀ e ∈ l.peerAccept, ∀ a ∈ s.vfs, tableVf l a.1 = e.1 → ∀ key ∈ e.2, key ∈ a.2.policy.peers

/-- A gang that runs on a quad that new tables move (17 R376 step 3). -/
def onMovedQuad (s : State) (l : LayoutTables) (G : Gang) : Prop := ∃ q ∈ G.quads, tableQuad l q ≠ quadPart s q

/-- 17 R376: at one point all tables take their new values, the layout version rises, and a partition that the commit creates starts with step
generation 0. -/
def committedAs (s t : State) (cmd : Cmd) (l : LayoutTables) : Prop :=
  t.shadow = none ∧ t.layoutVer = s.layoutVer + 1 ∧ ({ seq := cmd.seq, status := 0 } : CmdDone) ∈ t.root.completions ∧
  (∀ q, q < 24 → quadPart t q = if tableQuad l q < 24 then tableQuad l q else 31) ∧
  (∀ k, vfExists s k = true → (t.vf k).part = tableVf l k) ∧
  ∀ p, p < 24 →
    ((∀ q, q < 24 → tableQuad l q ≠ p) → tabGet? t.parts p = none) ∧
    ((∃ q, q < 24 ∧ tableQuad l q = p) →
      (∀ q, q ∈ (t.part p).quads ↔ q < 24 ∧ tableQuad l q = p) ∧
      (t.part p).stepGen = (if (tabGet? s.parts p).isSome then (s.part p).stepGen else 0))

/-- 17 R376, R404, 19 R400: a layout command: refused when it is malformed, when a policy forbids it, or when a gang that it would save lacks
slots; committed at once when no gang holds a quad that it moves; else every running gang there is chosen for a save, one whose restore has not begun
gives its quads back, and the tables wait. -/
def LayoutCommitted : Prop :=
  ∀ (s : State) (cmd : Cmd) (l : LayoutTables) (ok : Bool), s.root.mcpUp = true → s.shadow = none →
    let o := exec (.layout cmd l ok) s
    let formed := cmd.formed = true ∧ layoutFormed l
    let legal := formed ∧ ok = true ∧ layoutAllowed s l
    (¬formed → o = .next (complete s cmd.seq 2)) ∧
    (formed → ok = false ∨ ¬layoutAllowed s l → o = .next (complete s cmd.seq 1)) ∧
    (legal → (∀ e ∈ s.gangs, ¬onMovedQuad s l e.2) → ∃ t, o = .next t ∧ committedAs s t cmd l ∧ t.gangs = s.gangs ∧ t.mem = s.mem) ∧
    (∀ e ∈ s.gangs, legal → e.2.life = .running → e.2.preempt = false → onMovedQuad s l e.2 → e.2.slots = [] →
      (freeSlots s e.2.vf).length < e.2.desc.quadCount → o = .next (complete s cmd.seq 4)) ∧
    (∀ e ∈ s.gangs, legal → e.2.life = .running → onMovedQuad s l e.2 → (s.gangs.map (·.1)).Nodup →
      (∀ x ∈ s.gangs, x.2.life = .running → onMovedQuad s l x.2 → x.2.slots ≠ []) →
      ∃ t, o = .next t ∧ t.shadow = some (cmd.seq, l) ∧ t.quadMap = s.quadMap ∧ t.parts = s.parts ∧ t.layoutVer = s.layoutVer ∧
        (∀ x ∈ s.gangs, x.2.life = .running → onMovedQuad s l x.2 → (t.gang x.1).preempt = true) ∧
        (∀ x ∈ s.gangs, x.2.life = .restoring → onMovedQuad s l x.2 → (t.gang x.1).life = .saved ∧ (t.gang x.1).quads = []) ∧
        (∀ x ∈ s.gangs, ¬onMovedQuad s l x.2 → t.gang x.1 = x.2))

/-- 19 R399, R400: without its management processor the module takes no layout, and while one commit is under way no other begins. -/
def LayoutWaits : Prop :=
  ∀ (s : State) (cmd : Cmd) (l : LayoutTables) (ok : Bool), s.root.mcpUp = false ∨ s.shadow ≠ none →
    exec (.layout cmd l ok) s = .next s

end Sys2Proof.Claims
end

