-- ==== Sys2Proof/Claims/ContextRules.lean ====
section
/-! DEFINITION. Rules of 01, 11 and 17 about the pre-emption, the saved context, the restore and the end of a gang, as propositions of which the
statements are made. -/

namespace Sys2Proof.Claims

open Sys2Proof.Machine

/-- A wait that a pre-emption gives up: the instruction is executed again from its restart point (06 R148, 08 R197, 09 R226, 10 R249,
15 R341). -/
def givenUp : Wait → Bool
  | .page _ | .dirtyLog | .word .. | .stripW .. | .tile | .vmem => true
  | _ => false

/-- 01 R22, 17 R378 steps 1 and 2: a gang chosen for pre-emption stops: its threads' accesses are performed, an access that waits is given up,
every other wait stands, engines stop, and no pin of a tile fetch is left; the gang keeps its quads until its context is saved. -/
def GangStopped : Prop :=
  ∀ (s : State) (g : Nat) (G : Gang) (u : Tid), tabGet? s.gangs g = some G →
    (G.life = .running → G.preempt = true →
      ∃ t H, exec (.preEmption g) s = .next t ∧ tabGet? t.gangs g = some H ∧ H.life = .stopping ∧ H.quads = G.quads ∧ H.slots = G.slots ∧
        H.desc = G.desc ∧ H.tokens = G.tokens ∧
        (u.gang = g → u.core ≤ G.desc.ncm1.toNat →
          (t.thread u).pend = [] ∧ t.pcOf u = s.pcOf u ∧
          (∀ r : Reg, (∀ p ∈ (s.thread u).pend, ∀ n sg, p.load ≠ some (.x r n sg)) → t.getX u r = s.getX u r) ∧
          (t.thread u).wait = (if (s.thread u).wait.any givenUp then none else (s.thread u).wait)) ∧
        (∀ c, c ≤ G.desc.ncm1.toNat → (∀ l ∈ t.l2, (g, c) ∉ l.pins) ∧ (∀ y ∈ (t.core g c).sends, y.wait = none) ∧
          ∀ ch : Fin 4, ∀ y ∈ ((t.core g c).chans[ch]).queue, y.wait = none)) ∧
    (G.life ≠ .running ∨ G.preempt = false → exec (.preEmption g) s = .next s)

/-- Where a gang core's 4 MiB of context lie (17 R377). -/
def contextBase (s : State) (G : Gang) (c : Nat) : Nat :=
  (s.vf G.vf).ctxBase + 2 ^ 24 * G.slots.getD (c / 4) 0 + 2 ^ 22 * (c % 4)

/-- Where the scalar register of a thread lies in its core's context (04 R82, 17 R377). -/
def scalarPlace (base : Nat) (who : Who) (r : Reg) : Nat :=
  base + 0x338400 + 256 * (match who with | .taper => 0 | .wick w => w.val + 1) + 8 * r.toNat

/-- 17 R377, R378: a stopped gang's context is saved at its slots, which it takes, the lowest free ones of its VF, at its first save: scalar sets,
dirty rows up to their extents, masks; its quads are released, and the save is counted. -/
def ContextSaved : Prop :=
  ∀ (s : State) (g : Nat) (G : Gang), tabGet? s.gangs g = some G →
    (G.life = .stopping →
      ∃ t H, exec (.contextSave g) s = .next t ∧ tabGet? t.gangs g = some H ∧ H.life = .saved ∧ H.quads = [] ∧ H.preempt = false ∧
        H.saves = G.saves + 1 ∧ H.slots = (if G.slots = [] then (freeSlots s G.vf).take G.desc.quadCount else G.slots) ∧
        H.desc = G.desc ∧ H.tokens = G.tokens ∧ (t.vf G.vf).saveCount = (s.vf G.vf).saveCount + 1 ∧
        (isSealed s g = false → s.landing = [] → H.slots.Nodup → G.desc.ncm1.toNat / 4 < H.slots.length →
          (∀ c, ∀ k : Fin 8, ((s.core g c).windows[k]).snap.length ≤ 8) →
          ∀ c, c ≤ G.desc.ncm1.toNat →
            let base := contextBase s H c
            (∀ who (r : Reg), r ≠ 0 →
              memRead t.mem (scalarPlace base who r) 8 = (s.getX { gang := g, core := c, who := who } r).toNat) ∧
            ((∀ n (w : Fin 8) j, tabGet 0 (s.wick g n w).extent j ≤ 128) → ∀ (w : Fin 8) j, j < 32 →
              (bitOf (s.wick g c w).dirty j = true →
                memRead t.mem (base + 0x40000 * w.val + 0x2000 * j) (64 * tabGet 0 (s.wick g c w).extent j) =
                  (tabGet 0 (s.wick g c w).rows j).toNat % 2 ^ (512 * tabGet 0 (s.wick g c w).extent j)) ∧
              ∀ k, 1 ≤ k → k ≤ 7 →
                memRead t.mem (base + 0x280000 + 0x7000 * w.val + 0x1000 * (k - 1)) 4096 = ((s.wick g c w).mask k).toNat))) ∧
    (G.life ≠ .stopping → exec (.contextSave g) s = .next s)

/-- A gang has ended with a status and a code (01 R27, 17 R367): nothing of it is left but its completion record, which waits in its ring; every
other gang is there as before. -/
def endedAs (s t : State) (g : Nat) (G : Gang) (status : Nat) (code : BitVec 8) : Prop :=
  tabGet? t.gangs g = none ∧ (∀ j, j ≠ g → (tabGet? t.gangs j).isSome = (tabGet? s.gangs j).isSome) ∧
  (∀ l ∈ t.l2, ∀ c, c ≤ G.desc.ncm1.toNat → (g, c) ∉ l.pins) ∧
  ∃ x, ((t.vf G.vf).rings[G.ring]).compl = ((s.vf G.vf).rings[G.ring]).compl ++ [x] ∧ x.gtag = G.desc.gtag ∧
    x.bytes = recordOf G status code ∧ x.crec = (if G.desc.crec.toNat % 32 = 0 then G.desc.crec else 0)

/-- 11 R272, 17 R378, 19 R406: a gang that waits for its restore gets its registers, rows and masks from an image that passes its check, and
runs again, each of its vigils waiting for its own refill; an image that fails ends the gang with status 2 and code 12. -/
def GangRestored : Prop :=
  ∀ (s : State) (g : Nat) (G : Gang), tabGet? s.gangs g = some G →
    (G.life = .restoring → imageGood s g = true →
      ∃ t H, exec (.restore g) s = .next t ∧ tabGet? t.gangs g = some H ∧ H.life = .running ∧ H.preempt = false ∧ H.quads = G.quads ∧
        H.slots = G.slots ∧ H.progressAt = s.ac ∧ t.mem = s.mem ∧ t.vfs = s.vfs ∧
        ∀ c, c ≤ G.desc.ncm1.toNat →
          let base := contextBase s G c
          (∀ a : Fin 4, ((s.core g c).owners[a]).vigil = true → (t.core g c).refill[a] = some (base + 0x2B8000 + 0x20100 * a.val)) ∧
          (∀ a : Fin 4, ((s.core g c).owners[a]).vigil = false → (t.core g c).refill[a] = none) ∧
          (∀ who, t.pcOf { gang := g, core := c, who := who } = s.pcOf { gang := g, core := c, who := who }) ∧
          (isSealed s g = false → ∀ who (r : Reg), r ≠ 0 →
            (t.getX { gang := g, core := c, who := who } r).toNat = memRead s.mem (scalarPlace base who r) 8) ∧
          (isSealed s g = false → ∀ (w : Fin 8) j, j < 32 → tabGet 0 (s.wick g c w).extent j ≤ 128 →
            (tabGet 0 (t.wick g c w).rows j).toNat =
              memRead s.mem (base + 0x40000 * w.val + 0x2000 * j) (64 * tabGet 0 (s.wick g c w).extent j)) ∧
          (isSealed s g = false → ∀ (w : Fin 8) k, 1 ≤ k → k ≤ 7 →
            if bitOf (s.wick g c w).smode (k - 1) = true then
              tabGet 0 (t.wick g c w).masks k = tabGet 0 (s.wick g c w).masks k
            else
              (tabGet 0 (t.wick g c w).masks k).toNat =
                memRead s.mem (base + 0x280000 + 0x7000 * w.val + 0x1000 * (k - 1)) 4096)) ∧
    (G.life = .restoring → imageGood s g = false → ∃ t, exec (.restore g) s = .next t ∧ endedAs s t g G 2 12) ∧
    (G.life ≠ .restoring → exec (.restore g) s = .next s)

/-- 11 R272, 18 R394: a vigil comes back from its image once the image verifies; an image that is poisoned, that the host refuses to read or
that fails ends the gang with code 12; without a refill due nothing happens. -/
def VigilRefilled : Prop :=
  ∀ (s : State) (g c pa : Nat) (a : Fin 4) (G : Gang) (im : SpillImage), tabGet? s.gangs g = some G → isSealed s g = false →
    let C := s.core g c
    let image := readImage (memBytes s.mem pa 131328) (((C.owners[a]).owner).getD 0) (C.owners[a]).handle
    let clean := ∀ b, b < 131328 → readable s (pa + b)
    (G.life = .running → C.refill[a] = some pa → clean → image = some im →
      ∃ t, exec (.vigilRefill g c a) s = .next t ∧ (t.core g c).refill[a] = none ∧
        (∀ i j, ((t.core g c).tiles[a]).cell i j = im.tile.cell i j) ∧ t.mem = s.mem ∧ (t.core g c).owners = C.owners ∧
        ∀ b : Fin 4, b ≠ a → (t.core g c).tiles[b] = C.tiles[b] ∧ (t.core g c).refill[b] = C.refill[b]) ∧
    (G.life = .running → C.refill[a] = some pa → ¬clean ∨ image = none →
      ∃ t, exec (.vigilRefill g c a) s = .next t ∧ endedAs s t g G 2 12) ∧
    (G.life ≠ .running ∨ C.refill[a] = none → exec (.vigilRefill g c a) s = .next s)

/-- 01 R27, 17 R367: a gang ends once every taper of it has halted and no copy, SEND or flag write of it is left, with status 0 and code 0. -/
def GangEnded : Prop :=
  ∀ (s : State) (g : Nat) (G : Gang), tabGet? s.gangs g = some G →
    let done := ∀ c, c ≤ G.desc.ncm1.toNat →
      (s.core g c).taper.run = .halted ∧ (s.core g c).sends = [] ∧ ∀ ch : Fin 4, ((s.core g c).chans[ch]).queue = []
    (G.life = .running → done → ∃ t, exec (.gangEnd g) s = .next t ∧ endedAs s t g G 0 0) ∧
    (G.life ≠ .running ∨ ¬done → exec (.gangEnd g) s = .next s)

end Sys2Proof.Claims
end

