-- ==== Sys2Proof/Claims/HostRules.lean ====
section
/-! DEFINITION. Rules of 17 and 19 about host commands: their path and their statuses, the limits that they set, pauses, the life of a VF, stage-2
mappings and granules, as propositions of which the statements are made. -/

namespace Sys2Proof.Claims

open Sys2Proof.Machine

/-- A command names a VF that exists, by its index and its present generation (19 R403). -/
def names (s : State) (cmd : Cmd) (vf : Nat) (v : Vf) : Prop :=
  cmd.handle.toNat % 2 ^ 32 = vf ∧ tabGet? s.vfs vf = some v ∧ v.gen = cmd.handle.extractLsb' 32 32

/-- A command whose form is right names a VF, and no layout commit in progress concerns the VF's partition (17 R376, 19 R400, R404). -/
def takes (s : State) (cmd : Cmd) (vf : Nat) (v : Vf) : Prop :=
  s.root.mcpUp = true ∧ cmd.formed = true ∧ names s cmd vf v ∧ (v.part < 24 → layoutTouches s v.part = false)

/-- 17 R376, 19 R399, R400, R403, R404: no command takes effect while the management processor is down; one of a wrong form completes with status 2,
one whose handle is unknown or stale with status 3, and changes nothing; one on a partition that a validated layout concerns waits for it. -/
def CommandPath : Prop :=
  ∀ (s : State) (cmd : Cmd) (n m : Nat) (b : Bool) (w : BitVec 16) (l : List Nat) (M : Stage2Mapping) (p : Policy) (i : Instr),
    let byHandle := i ∈ [Instr.setQuota cmd n b, .setPriorityCap cmd n, .setContextArea cmd n m, .setStage2Root cmd n, .setWayMask cmd w,
      .allotBlocks cmd b l, .takeBackBlocks cmd b l, .setDirtyLog cmd n m, .pause cmd, .evict cmd, .resume cmd, .discard cmd,
      .vfDestroy cmd, .stage2Map cmd M, .stage2Unmap cmd n m, .stage2Invalidate cmd n m b, .setContextKeys cmd]
    let other := i = .vfCreate cmd n p ∨ i = .setPeerAccept cmd n l
    (s.root.mcpUp = false → byHandle ∨ other → exec i s = .next s) ∧
    (s.root.mcpUp = true → cmd.formed = false → byHandle ∨ other → exec i s = .next (complete s cmd.seq 2)) ∧
    (s.root.mcpUp = true → cmd.formed = true → byHandle → (∀ vf v, ¬names s cmd vf v) → exec i s = .next (complete s cmd.seq 3)) ∧
    (s.root.mcpUp = true → cmd.formed = true → byHandle →
      (∃ vf v, names s cmd vf v ∧ v.part < 24 ∧ layoutTouches s v.part = true) → exec i s = .next s) ∧
    (s.root.mcpUp = true → cmd.formed = true → layoutTouches s n = true → exec (.setPeerAccept cmd n l) s = .next s)

/-- 17 R377, R379, 19 R400, R401: the commands that set a VF's limits: what each sets, and its refusals, in the order that the root checks
them. -/
def LimitsSet : Prop :=
  ∀ (s : State) (cmd : Cmd) (vf : Nat) (v : Vf) (n m : Nat) (b : Bool), takes s cmd vf v →
    let set (f : Vf → Vf) : Host.Outcome State Fault Refusal := .next (complete (s.modVf vf f) cmd.seq 0)
    let no (status : Nat) : Host.Outcome State Fault Refusal := .next (complete s cmd.seq status)
    let size := m * 2 ^ 24
    let place := n < 2 ^ 60 ∧ isRemote s n = false ∧
      ((localHbm s n = true ∧ n % 2 ^ 44 + size ≤ hbmBytes) ∨ (isHost n = true ∧ n % 2 ^ 44 + size ≤ 2 ^ 44))
    let covered (base slots g : Nat) := localHbm s base = true ∧ base / 4096 ≤ g ∧ g < base / 4096 + slots * 2 ^ 12
    let foreign := ∃ g w gen k, covered n m g ∧ tabGet? s.root.granules g = some (.owned w gen k) ∧ (w ≠ vf ∨ gen ≠ v.gen)
    let dirty := ∃ g, covered n m g ∧ tabGet? s.root.granules g ∈ [some .leaving, some .zeroing]
    let idle := heldSlots s vf = [] ∧ promisedSlots s vf = 0
    (n ≤ 2 ^ 40 → v.policy.qmin ≤ n → exec (.setQuota cmd n b) s = set fun v => { v with nextQuota := n, nextBorrow := b }) ∧
    (2 ^ 40 < n → exec (.setQuota cmd n b) s = no 2) ∧ (n ≤ 2 ^ 40 → n < v.policy.qmin → exec (.setQuota cmd n b) s = no 1) ∧
    (n ≤ 3 → v.policy.pmin ≤ n → exec (.setPriorityCap cmd n) s = set fun v => { v with prioCap := BitVec.ofNat 2 n }) ∧
    (3 < n → exec (.setPriorityCap cmd n) s = no 2) ∧ (n ≤ 3 → n < v.policy.pmin → exec (.setPriorityCap cmd n) s = no 1) ∧
    (¬place → exec (.setContextArea cmd n m) s = no 2) ∧ (place → ¬idle → exec (.setContextArea cmd n m) s = no 5) ∧
    (place → idle → foreign → exec (.setContextArea cmd n m) s = no 1) ∧
    (place → idle → ¬foreign → dirty → exec (.setContextArea cmd n m) s = .next s) ∧
    (place → idle → ¬foreign → ¬dirty → v.policy.conf = false →
      exec (.setContextArea cmd n m) s = set fun v => { v with ctxBase := n, ctxSlots := m }) ∧
    (place → idle → ¬foreign → ¬dirty → v.policy.conf = true →
      ∃ t, exec (.setContextArea cmd n m) s = .next t ∧ t.vf vf = { v with ctxBase := n, ctxSlots := m } ∧ t.mem = s.mem ∧
        t.root.completions = s.root.completions ++ [{ seq := cmd.seq, status := 0 }] ∧
        ∀ g, (covered n m g → ∃ k, tabGet? t.root.granules g = some (.owned vf v.gen k)) ∧
          (¬covered n m g → covered v.ctxBase v.ctxSlots g → ∀ w gen, tabGet? s.root.granules g = some (.owned w gen 1) →
            tabGet? t.root.granules g = some .zeroing) ∧
          (¬covered n m g → ¬covered v.ctxBase v.ctxSlots g → tabGet? t.root.granules g = tabGet? s.root.granules g)) ∧
    (n % 4096 = 0 → n < 2 ^ 60 → v.state = 2 ∨ v.everRan = false →
      exec (.setStage2Root cmd n) s = set fun v => { v with s2root := n }) ∧
    (n % 4096 ≠ 0 ∨ 2 ^ 60 ≤ n → exec (.setStage2Root cmd n) s = no 2) ∧
    (n % 4096 = 0 → n < 2 ^ 60 → v.state ≠ 2 → v.everRan = true → exec (.setStage2Root cmd n) s = no 5) ∧
    (n % 8 = 0 → 6 ≤ m → exec (.setDirtyLog cmd n m) s =
      set fun v => { v with dlogBase := n, dlogLg := some m, dlogHead := 0, dlogTail := 0 }) ∧
    (n % 8 ≠ 0 ∨ m < 6 → exec (.setDirtyLog cmd n m) s = no 2) ∧
    (heldSlots s vf = [] → ∃ t, exec (.setContextKeys cmd) s = .next t ∧ t.vf vf = { v with ctxKey := s.root.nextKey } ∧
      t.root.nextKey = s.root.nextKey + 1 ∧ t.root.completions = s.root.completions ++ [{ seq := cmd.seq, status := 0 }] ∧
      t.mem = s.mem ∧ t.gangs = s.gangs) ∧
    (heldSlots s vf ≠ [] → exec (.setContextKeys cmd) s = no 5)

/-- 12 R278, R279, 17 R379, 19 R401: a way mask: ways that are added count at once; ways that are removed wait, and the command with them, until
their lines have left; a mask below wmin is refused. A second change waits for the first. -/
def WayMaskSet : Prop :=
  ∀ (s : State) (cmd : Cmd) (vf : Nat) (v : Vf) (m : BitVec 16), takes s cmd vf v →
    let o := exec (.setWayMask cmd m) s
    let gone := (v.wayGone ||| v.wayMask) &&& ~~~m
    let few := ((List.range 16).filter fun k => m.getLsbD k).length < v.policy.wmin
    (v.waySeq = none → few → o = .next (complete s cmd.seq 1)) ∧
    (v.waySeq = none → ¬few → gone = 0 →
      o = .next (complete (s.modVf vf fun v => { v with wayMask := m, wayGone := 0 }) cmd.seq 0)) ∧
    (v.waySeq = none → ¬few → gone ≠ 0 →
      o = .next (s.modVf vf fun v => { v with wayMask := m, wayGone := gone, waySeq := some cmd.seq })) ∧
    (v.waySeq ≠ none → o = .next s)

/-- 12 R284, 15 R342, 17 R379: blocks are allotted when they exist and are free, a watermark block with its slots at 0; they are taken back from
the VF that holds them, with their entries and slots, once no tile fetch pins a line of theirs. -/
def BlocksAllotted : Prop :=
  ∀ (s : State) (cmd : Cmd) (vf : Nat) (v : Vf) (bs : List Nat) (marks : Bool), takes s cmd vf v →
    let table (s : State) := if marks then s.markBlocks else s.tensorBlocks
    let limit := if marks then 64 else 128
    let no (status : Nat) : Host.Outcome State Fault Refusal := .next (complete s cmd.seq status)
    let entry (s : State) (b k : Nat) := if marks then tabGet? s.marks (64 * b + k) = none else tabGet? s.tensors (64 * b + k) = none
    let give := exec (.allotBlocks cmd marks bs) s
    let back := exec (.takeBackBlocks cmd marks bs) s
    let done (t : State) := t.root.completions = s.root.completions ++ [{ seq := cmd.seq, status := 0 }] ∧ t.gangs = s.gangs ∧ t.mem = s.mem
    ((∃ b ∈ bs, limit ≤ b) → give = no 2) ∧
    ((∀ b ∈ bs, b < limit) → (∃ b ∈ bs, tabGet? (table s) b ≠ none) → give = no 4) ∧
    ((∀ b ∈ bs, b < limit ∧ tabGet? (table s) b = none) →
      ∃ t, give = .next t ∧ done t ∧ (∀ b, tabGet? (table t) b = if b ∈ bs then some vf else tabGet? (table s) b) ∧
        (marks = true → ∀ b ∈ bs, ∀ k, k < 64 → entry t b k)) ∧
    ((∃ b ∈ bs, tabGet? (table s) b ≠ some vf) → back = no 2) ∧
    ((∀ b ∈ bs, tabGet? (table s) b = some vf) → marks = false → blocksPinned s bs = true → back = .next s) ∧
    ((∀ b ∈ bs, tabGet? (table s) b = some vf) → marks = true ∨ blocksPinned s bs = false →
      ∃ t, back = .next t ∧ done t ∧ (∀ b, tabGet? (table t) b = if b ∈ bs then none else tabGet? (table s) b) ∧
        ∀ b ∈ bs, ∀ k, k < 64 → entry t b k)

/-- 12 R279, 17 R377, R379, R380: a pause stops the placement of a running VF and chooses its running gangs for pre-emption, which take their slots
at their saves; one that lacks slots for a gang is refused whole; a VF that does not run is in the wrong state. Evict is a pause that wmin
forbids unless it is 0, and waits for a change of the way mask that is under way. -/
def PauseBegun : Prop :=
  ∀ (s : State) (cmd : Cmd) (vf : Nat) (v : Vf), takes s cmd vf v →
    let mine (G : Gang) := G.vf = vf ∧ G.life = .running
    let begun (o : Host.Outcome State Fault Refusal) (what : PauseThen) :=
      ∃ t, o = .next t ∧ (t.vf vf).state = 1 ∧ (t.vf vf).pausing = some { seq := some cmd.seq, andThen := what } ∧
        t.msi = s.msi ++ [(vf, 5)] ∧ t.mem = s.mem ∧ t.root = s.root ∧
        ((s.gangs.map (·.1)).Nodup → ∀ e ∈ s.gangs,
          (mine e.2 → (t.gang e.1).preempt = true ∧ (t.gang e.1).slots = e.2.slots) ∧
          (e.2.vf = vf → e.2.life = .restoring → (t.gang e.1).life = .saved ∧ (t.gang e.1).quads = []) ∧
          (e.2.vf ≠ vf → t.gang e.1 = e.2))
    let slotted := ∀ e ∈ s.gangs, mine e.2 → e.2.slots ≠ []
    let short := ∃ e ∈ s.gangs, mine e.2 ∧ e.2.preempt = false ∧ e.2.slots = [] ∧ (freeSlots s vf).length < e.2.desc.quadCount
    let pauses (i : Instr) (what : PauseThen) :=
      (v.state = 0 → slotted → begun (exec i s) what) ∧ (v.state = 0 → short → exec i s = .next (complete s cmd.seq 4)) ∧
      ((v.state = 1 ∨ v.state = 3) → exec i s = .next (complete s cmd.seq 5))
    pauses (.pause cmd) .nothing ∧ (v.state = 2 → exec (.pause cmd) s = .next (complete s cmd.seq 5)) ∧
    (v.policy.wmin = 0 → pauses (.evict cmd) .evict) ∧
    (v.policy.wmin ≠ 0 → exec (.evict cmd) s = .next (complete s cmd.seq 1)) ∧
    (v.policy.wmin = 0 → v.state = 2 → v.waySeq = none → (v.wayGone ||| v.wayMask) ≠ 0 →
      exec (.evict cmd) s =
        .next (s.modVf vf fun x => { x with wayMask := 0, wayGone := v.wayGone ||| v.wayMask, waySeq := some cmd.seq })) ∧
    (v.policy.wmin = 0 → v.state = 2 → v.waySeq = none → (v.wayGone ||| v.wayMask) = 0 →
      exec (.evict cmd) s = .next (complete (s.modVf vf fun x => { x with wayMask := 0, wayGone := 0 }) cmd.seq 0)) ∧
    (v.policy.wmin = 0 → v.state = 2 → v.waySeq ≠ none → exec (.evict cmd) s = .next s)

/-- 12 R279, 17 R380, R381, 19 R399: a pause ends once no gang of the VF is placed, its completion and fault records are written, and its dirty log
is: the end marker goes last, then the state becomes 2 and vector 5 is raised. A command's pause ends only while the management processor runs, an
eviction only when no change of the way mask is under way. Until then nothing happens. -/
def PauseEnded : Prop :=
  ∀ (s : State) (vf : Nat) (v : Vf) (p : Pausing), tabGet? s.vfs vf = some v → v.pausing = some p → v.state ≠ 2 →
    let gone := ∀ e ∈ s.gangs, e.2.vf = vf → e.2.life = .saved
    let written := (∀ n : Fin 4, (v.rings[n]).compl = []) ∧ v.faults = []
    let ready := (p.seq ≠ none → s.root.mcpUp = true) ∧ (p.andThen = .evict → v.waySeq = none)
    let room := ∀ lg, v.dlogLg = some lg → v.dlogHead - v.dlogTail < 2 ^ lg
    let o := exec (.pauseComplete vf) s
    (gone → written → ready → v.dlogWait = [] → room →
      ∃ t, o = .next t ∧ (t.vf vf).state = 2 ∧ (t.vf vf).pausedAt = some s.time ∧ (vf, 5) ∈ t.msi ∧
        (∀ lg, v.dlogLg = some lg →
          memRead t.mem (s.coord.toNat * 2 ^ 46 + 2 ^ 45 + (v.dlogBase + 8 * (v.dlogHead % 2 ^ lg)) % 2 ^ 44) 8 = 2 ^ 64 - 1 ∧
          (t.vf vf).dlogHead = v.dlogHead + 1) ∧
        (v.dlogLg = none → t.mem = s.mem) ∧
        (p.andThen = .nothing → (t.vf vf).pausing = none ∧ (∀ g, (tabGet? t.gangs g).isSome = (tabGet? s.gangs g).isSome) ∧
          t.root.completions = s.root.completions ++ (match p.seq with | some q => [{ seq := q, status := 0 }] | none => [])) ∧
        (p.andThen = .evict → (t.vf vf).pausing = none ∧ (t.vf vf).wayMask = 0) ∧
        (p.andThen = .functionReset → (t.vf vf).pausing = some p ∧ ∀ e ∈ s.gangs, e.2.vf = vf → tabGet? t.gangs e.1 = none)) ∧
    (¬gone ∨ ¬written ∨ ¬ready ∨ v.dlogWait ≠ [] ∨ ¬room → o = .next s)

/-- What resumption makes of a ring: the doorbells that it stored act (17 R380). -/
def ringResumes (s t : State) (vf : Nat) (n : Fin 4) : Prop :=
  let q := rung (ringOf s vf n) true
  let r := ringOf t vf n
  r.avail = q.avail ∧ r.err = q.err ∧ r.stopped = q.stopped ∧ r.wp = q.wp ∧ r.rp = q.rp ∧ r.head.map (·.desc) = q.head.map (·.desc)

/-- 17 R379, R380, 19 R401, R408: Resume returns a stopped VF to running, and the doorbells that it stored act; Discard ends its saved gangs with
status 3; a VF in any other state refuses both with status 5; the root resumes one that is paused for longer than its policy allows, in real time. -/
def VfResumed : Prop :=
  ∀ (s : State) (cmd : Cmd) (vf : Nat) (v : Vf), takes s cmd vf v →
    let runs (t : State) := (t.vf vf).state = 0 ∧ (t.vf vf).pausedAt = none ∧ (∀ n, ringResumes s t vf n) ∧ t.msi = s.msi ++ [(vf, 5)] ∧
      t.gangs = s.gangs ∧ t.mem = s.mem
    let may := v.state = 2 ∧ v.pausing = none ∧ v.tdisp ≠ .error
    (may → ∃ t, exec (.resume cmd) s = .next t ∧ runs t ∧ t.root.completions = s.root.completions ++ [{ seq := cmd.seq, status := 0 }]) ∧
    (¬may → exec (.resume cmd) s = .next (complete s cmd.seq 5)) ∧
    (v.state = 2 →
      ∃ t, exec (.discard cmd) s = .next t ∧ t.root.completions = s.root.completions ++ [{ seq := cmd.seq, status := 0 }] ∧
        (∀ e ∈ s.gangs, e.2.vf = vf → e.2.life = .saved → tabGet? t.gangs e.1 = none) ∧
        (∀ g G, tabGet? s.gangs g = some G → (∀ K, (g, K) ∈ s.gangs → K = G) → G.vf = vf → G.life = .saved →
          ∃ x ∈ (ringOf t vf G.ring).compl, x.gtag = G.desc.gtag ∧ x.bytes = recordOf G 3 0) ∧
        ∀ g, (∀ K, (g, K) ∈ s.gangs → K.vf ≠ vf ∨ K.life ≠ .saved) → (tabGet? t.gangs g).isSome = (tabGet? s.gangs g).isSome) ∧
    (v.state ≠ 2 → exec (.discard cmd) s = .next (complete s cmd.seq 5)) ∧
    (∀ a, may → v.pausedAt = some a → v.policy.pausemaxMs ≠ 0 → a + v.policy.pausemaxMs * msTime ≤ s.time →
      ∃ t, exec (.pauseTimeout vf) s = .next t ∧ runs t ∧ t.root = s.root) ∧
    (¬may ∨ v.policy.pausemaxMs = 0 ∨ v.pausedAt = none ∨ (∃ a, v.pausedAt = some a ∧ s.time < a + v.policy.pausemaxMs * msTime) →
      exec (.pauseTimeout vf) s = .next s)

/-- What a stop that nothing may refuse makes of a VF's running gangs: each is chosen for pre-emption, or, where no slots are left for it, has ended
(log 42). -/
def gangsStopped (s t : State) (vf : Nat) : Prop :=
  (s.gangs.map (·.1)).Nodup → ∀ e ∈ s.gangs, e.2.vf = vf → e.2.life = .running →
    (t.gang e.1).preempt = true ∨ (e.2.slots = [] ∧ tabGet? t.gangs e.1 = none)

/-- 12 R279, 19 R412: a function-level reset pauses its VF, discards its saved gangs, and then resets the register block, returns the VF's blocks and
fills its way mask; a change of the mask that was under way is complete, and the change of the VF's state raises vector 5. -/
def FunctionReset : Prop :=
  ∀ (s : State) (vf : Nat) (v : Vf) (p : Pausing), tabGet? s.vfs vf = some v →
    let what : Pausing := { seq := none, andThen := .functionReset }
    let o := exec (.functionLevelReset vf) s
    (v.pausing = none → v.state ≠ 2 →
      ∃ t, o = .next t ∧ (t.vf vf).state = 1 ∧ (t.vf vf).pausing = some what ∧ t.mem = s.mem ∧ gangsStopped s t vf ∧
        t.msi = s.msi ++ [(vf, 5)]) ∧
    (v.pausing = none → v.state = 2 →
      ∃ t, o = .next t ∧ (t.vf vf).pausing = some what ∧ (t.vf vf).state = 2 ∧
        ∀ e ∈ s.gangs, e.2.vf = vf → e.2.life = .saved → tabGet? t.gangs e.1 = none) ∧
    (v.pausing ≠ none → o = .next s) ∧
    (v.pausing = some p → v.state = 2 → (∀ n : Fin 4, (v.rings[n]).compl = []) →
      ∃ t, exec (.pauseComplete vf) s = .next t ∧ (t.vf vf).state = 0 ∧ (t.vf vf).pausing = none ∧ (t.vf vf).wayMask = 0xFFFF ∧
        (t.vf vf).wayGone = 0 ∧ (t.vf vf).waySeq = none ∧ t.msi = s.msi ++ [(vf, 5)] ∧
        t.root.completions = s.root.completions ++ (match v.waySeq with | some q => [{ seq := q, status := 0 }] | none => []) ∧
        (t.vf vf).rings = Vector.replicate 4 Ring.reset ∧ (t.vf vf).fqbase = 0 ∧ (t.vf vf).fqEn = false ∧ (t.vf vf).fqhead = 0 ∧
        (t.vf vf).fqtail = 0 ∧ (t.vf vf).fqovf = 0 ∧ (t.vf vf).s1root = 0 ∧ (t.vf vf).s1done = 0 ∧ (t.vf vf).policy = v.policy ∧
        (t.vf vf).s2root = v.s2root ∧ (t.vf vf).bal = v.bal ∧ (t.vf vf).debt = v.debt ∧
        (∀ b, tabGet? t.tensorBlocks b ≠ some vf) ∧ (∀ b, tabGet? t.markBlocks b ≠ some vf) ∧
        t.root.granules = s.root.granules ∧ t.mem = s.mem) ∧
    (v.pausing = some p → v.state = 2 → (∃ n : Fin 4, (v.rings[n]).compl ≠ []) → exec (.pauseComplete vf) s = .next s)

/-- A policy that can be bound (19 R401, R407, R411, R415). -/
def bindable (s : State) (p : Policy) : Prop :=
  p.verifies = true ∧ (p.conf = true → s.root.sessionKey = true ∧ s.root.unlocked = false) ∧
    p.fwmin ≤ (match s.root.running with | some f => f.version | none => 0)

/-- 17 R371, 19 R400, R401, R402, R403, R407, R411, R415: a VF is created with a policy that verifies and that the module can keep, and a later policy,
under the VF's present handle, carries a higher version and the same key; a VF is destroyed while it is stopped or has never run: its handle is
not used again, no translation of it stays cached, the granules that it owned are to be zeroed, and the debts of its partition still equal the
credits (log 42). -/
def VfLife : Prop :=
  ∀ (s : State) (cmd : Cmd) (vf : Nat) (v : Vf) (p : Policy), s.root.mcpUp = true → cmd.formed = true →
    let o := exec (.vfCreate cmd vf p) s
    let inRange := 1 ≤ vf ∧ vf ≤ 512
    let later := inRange ∧ bindable s p ∧ names s cmd vf v ∧ v.policy.version < p.version ∧ p.key = v.policy.key
    let apart := v.part < 24 → layoutTouches s v.part = false
    (¬inRange → o = .next (complete s cmd.seq 2)) ∧
    (inRange → tabGet? s.vfs vf = some v → ¬names s cmd vf v → o = .next (complete s cmd.seq 3)) ∧
    (inRange → tabGet? s.vfs vf = none ∨ names s cmd vf v → ¬bindable s p → o = .next (complete s cmd.seq 1)) ∧
    (inRange → bindable s p → tabGet? s.vfs vf = none →
      ∃ t, o = .next t ∧ t.vf vf = { Vf.new (tabGet 0 s.root.nextHandle vf) p with ctxKey := s.root.nextKey } ∧ vfExists t vf = true ∧
        (∀ k, k ≠ vf → tabGet? t.vfs k = tabGet? s.vfs k) ∧ t.root.nextKey = s.root.nextKey + 1 ∧
        t.root.completions = s.root.completions ++ [{ seq := cmd.seq, status := 0 }] ∧ t.gangs = s.gangs ∧ t.mem = s.mem) ∧
    (inRange → bindable s p → names s cmd vf v → p.version ≤ v.policy.version ∨ p.key ≠ v.policy.key →
      o = .next (complete s cmd.seq 1)) ∧
    (later → v.tdisp ≠ .run → o = .next (complete (s.modVf vf fun v => { v with policy := p }) cmd.seq 0)) ∧
    (later → v.tdisp = .run →
      ∃ t, o = .next t ∧ (t.vf vf).policy = p ∧ (t.vf vf).tdisp = .error ∧
        t.root.completions = s.root.completions ++ [{ seq := cmd.seq, status := 0 }]) ∧
    (names s cmd vf v → apart → v.state = 2 ∨ v.everRan = false →
      ∃ t, exec (.vfDestroy cmd) s = .next t ∧ vfExists t vf = false ∧
        (∀ k w, k ≠ vf → tabGet? s.vfs k = some w →
          t.vf k = { w with debt := (t.vf k).debt, cred := (t.vf k).cred } ∧ vfExists t k = true ∧
            (w.part ≠ v.part ∨ v.debt = v.cred → t.vf k = w)) ∧
        ((s.vfs.map (·.1)).Pairwise (· < ·) → sumVfs (·.debt) (partVfs s v.part) = sumVfs (·.cred) (partVfs s v.part) →
          sumVfs (·.debt) (partVfs t v.part) = sumVfs (·.cred) (partVfs t v.part)) ∧
        (∀ e ∈ t.gangs, e.2.vf ≠ vf) ∧ tabGet 0 t.root.nextHandle vf = v.gen + 1 ∧ (∀ b, tabGet? t.tensorBlocks b ≠ some vf) ∧
        (∀ b, tabGet? t.markBlocks b ≠ some vf) ∧ t.root.completions = s.root.completions ++ [{ seq := cmd.seq, status := 0 }] ∧
        (∀ k, ∀ e ∈ (t.pcoreOf k).tlb, e.vf ≠ vf) ∧ (∀ k : Fin 4, ∀ e ∈ t.dieTlb[k], e.vf ≠ vf) ∧
        (∀ g, tabGet? t.root.granules g =
          (match tabGet? s.root.granules g with | some (.owned w gen n) => if w = vf then some .zeroing else some (.owned w gen n) | x => x)) ∧
        t.mem = s.mem) ∧
    (names s cmd vf v → apart → v.state ≠ 2 → v.everRan = true → exec (.vfDestroy cmd) s = .next (complete s cmd.seq 5))

/-- 19 R401, R405, R408, 16 R355: a confidential VF locks into TDISP RUN with a session, which sets a fresh key of its stream; a change to what it
locked moves it to ERROR and stops it as a pause does, which no want of slots prevents (log 42); a partition's accept list takes senders that every
tenant there permits. -/
def TenantGuards : Prop :=
  ∀ (s : State) (vf part : Nat) (v : Vf) (ok : Bool) (cmd : Cmd) (keys : List Nat), tabGet? s.vfs vf = some v →
    let permitted := ∀ k ∈ keys, ∀ e ∈ s.vfs, e.2.part = part → k ∈ e.2.policy.peers
    (v.policy.conf = true → v.tdisp = .unlocked → ok = true →
      exec (.tdispLock vf ok) s = .next { s.modVf vf (fun v => { v with tdisp := .run, ideKey := s.root.nextKey }) with
        root := { s.root with nextKey := s.root.nextKey + 1 } }) ∧
    (v.policy.conf = false ∨ v.tdisp ≠ .unlocked ∨ ok = false → exec (.tdispLock vf ok) s = .next s) ∧
    (v.tdisp ≠ .run → exec (.lockedVfChange vf) s = .next s) ∧
    (v.tdisp = .run → ∃ t, exec (.lockedVfChange vf) s = .next t ∧ (t.vf vf).tdisp = .error ∧ t.mem = s.mem ∧
      (v.state ≠ 0 → t = s.modVf vf fun v => { v with tdisp := .error }) ∧
      (v.state = 0 → (t.vf vf).state = 1 ∧ (t.vf vf).pausing = some { seq := none, andThen := .nothing } ∧ gangsStopped s t vf ∧
        t.msi = s.msi ++ [(vf, 5)])) ∧
    (s.root.mcpUp = true → cmd.formed = true → layoutTouches s part = false →
      ((tabGet? s.parts part).isSome = true → permitted →
        exec (.setPeerAccept cmd part keys) s = .next (complete (s.modPart part fun p => { p with peers := keys }) cmd.seq 0)) ∧
      ((tabGet? s.parts part).isSome = true → ¬permitted → exec (.setPeerAccept cmd part keys) s = .next (complete s cmd.seq 1)) ∧
      (tabGet? s.parts part = none → exec (.setPeerAccept cmd part keys) s = .next (complete s cmd.seq 2)))

/-- A stage-2 mapping that the command's form allows: a page size of 09 R214, addresses that are multiples of it, a physical range that
exists for the VF, and offered tables in local HBM. -/
def mappable (s : State) (v : Vf) (m : Stage2Mapping) : Prop :=
  m.lgSize ∈ [0, 4, 9, 18] ∧ m.ipa % (4096 * 2 ^ m.lgSize) = 0 ∧ m.pa % (4096 * 2 ^ m.lgSize) = 0 ∧ m.ipa < 2 ^ 48 ∧ m.pa < 2 ^ 60 ∧
    physOk s v.part m.pa = true ∧ physOk s v.part (m.pa + 4096 * 2 ^ m.lgSize - 1) = true ∧
    ∀ t ∈ m.tables, t < 2 ^ 60 ∧ localHbm s t = true ∧ physOk s v.part t = true

/-- The granules of local HBM that a mapping's page holds (19 R402). -/
def granuleOf (s : State) (m : Stage2Mapping) (g : Nat) : Prop :=
  localHbm s m.pa = true ∧ m.pa / 4096 ≤ g ∧ g < m.pa / 4096 + 2 ^ m.lgSize

/-- 19 R400, R402, R403, 09 R214, R227: a stage-2 mapping waits for a granule that has left a confidential VF and is not zeroed yet, is refused for a
granule of another confidential VF, an earlier one of the same number among them, and for host memory without the VF's own stream, and else writes
its leaf, which only those bytes of memory change, and counts the mappings of a confidential VF's granules; a zeroed granule reads zero and is free again; an invalidation is asked for. The tables that a mapping needs
come from the granules that the command offers (log 21). -/
def Stage2Mapped : Prop :=
  ∀ (s s1 : State) (cmd : Cmd) (vf a g : Nat) (v : Vf) (m : Stage2Mapping) (all : Bool), takes s cmd vf v →
    let o := exec (.stage2Map cmd m) s
    let no (status : Nat) : Host.Outcome State Fault Refusal := .next (complete s cmd.seq status)
    let zeroing := ∃ g, granuleOf s m g ∧ tabGet? s.root.granules g ∈ [some .leaving, some .zeroing]
    let foreign := ∃ g w gen k, granuleOf s m g ∧ tabGet? s.root.granules g = some (.owned w gen k) ∧ (w ≠ vf ∨ gen ≠ v.gen)
    let tableTaken := ∃ t ∈ m.tables, tabGet? s.root.granules (t / 4096) ≠ none
    let outside := v.policy.conf = true ∧ isHost m.pa = true ∧ m.ownIdeStream = false
    let leaf := tableFor vf m.ipa (if m.lgSize = 18 then 1 else if m.lgSize = 9 then 2 else 3) 4 0 v.s2root m.tables s
    let n := if m.lgSize = 4 then 16 else 1
    (¬mappable s v m → o = no 2) ∧ (mappable s v m → zeroing → o = .next s) ∧
    (mappable s v m → ¬zeroing → foreign ∨ tableTaken ∨ outside → o = no 1) ∧
    (mappable s v m → ¬zeroing → ¬foreign → ¬tableTaken → ¬outside → leaf = none → o = no 4) ∧
    (mappable s v m → ¬zeroing → ¬foreign → ¬tableTaken → ¬outside → leaf = some (a, s1) →
      ∃ t, o = .next t ∧ SameMemOutside a (8 * n) s1 t ∧ (t.vf vf).s2root = v.s2root ∧
        t.root.completions = s.root.completions ++ [{ seq := cmd.seq, status := 0 }] ∧
        (∀ k, k < n → memRead t.mem (a + 8 * k) 8 % 2 ^ 64 =
          3 + (if m.r then 16 else 0) + (if m.w then 32 else 0) + (if m.x then 64 else 0) + (if m.lgSize = 4 then 512 else 0) +
            (if m.cmp then 2048 else 0) + (m.pa + 4096 * k) % 2 ^ 60) ∧
        (v.policy.conf = true → granuleOf s m g → tabGet? t.root.granules g =
          some (match tabGet? s.root.granules g with | some (.owned w gen k) => .owned w gen (k + 1) | _ => .owned vf v.gen 1)) ∧
        (v.policy.conf = false ∨ ¬granuleOf s m g → tabGet? t.root.granules g = tabGet? s.root.granules g)) ∧
    (∃ i, exec (.stage2Invalidate cmd m.ipa m.lgSize all) s = .next (s.modVf vf fun v => { v with inval2 := v.inval2 ++ [i] }) ∧
      i.lo = m.ipa / 4096 ∧ i.pages = 2 ^ m.lgSize ∧ i.all = all ∧ i.seq = some cmd.seq ∧ i.zero = []) ∧
    (tabGet? s.root.granules g = some .zeroing →
      ∃ t, exec (.granuleZeroed g) s = .next t ∧ (∀ b, 4096 * g ≤ b → b < 4096 * g + 4096 → memByte t.mem b = 0 ∧ poisoned t b = false) ∧
        SameMemOutside (4096 * g) 4096 s t ∧ tabGet? t.root.granules g = none) ∧
    (tabGet? s.root.granules g ≠ some .zeroing → exec (.granuleZeroed g) s = .next s)

/-- An entry of stage 2 is a leaf of a page of that size (09 R213, R214). -/
def leafOfSize (lg e : Nat) : Prop :=
  e.testBit 0 = true ∧ e.testBit 1 = true ∧ malformed false (if lg = 18 then 1 else if lg = 9 then 2 else 3) e = false ∧
    (e.testBit 9 = true ↔ lg = 4)

/-- 19 R402, R404, 09 R227: an unmapping clears the leaf of a page that is mapped with that size, and asks for the invalidation that completes
it; a confidential VF's granule of which no mapping is left leaves it at once, and is zeroed after the invalidation; no such page, or a malformed
command, is refused. -/
def Stage2Unmapped : Prop :=
  ∀ (s s1 : State) (cmd : Cmd) (vf a ipa lg : Nat) (v : Vf), takes s cmd vf v →
    let o := exec (.stage2Unmap cmd ipa lg) s
    let formed := lg ∈ [0, 4, 9, 18] ∧ ipa % (4096 * 2 ^ lg) = 0 ∧ ipa < 2 ^ 48
    let level := if lg = 18 then 1 else if lg = 9 then 2 else 3
    let n := if lg = 4 then 16 else 1
    let place := tableFor vf ipa level 4 0 v.s2root [] s
    let e := memRead s.mem a 8
    let pa := e / 2 ^ 12 % 2 ^ 48 * 4096
    let mine (g k : Nat) := localHbm s pa = true ∧ pa / 4096 ≤ g ∧ g < pa / 4096 + 2 ^ lg ∧
      tabGet? s.root.granules g = some (.owned vf v.gen k)
    (¬formed → o = .next (complete s cmd.seq 2)) ∧
    (formed → place = none → o = .next (complete s cmd.seq 2)) ∧
    (formed → place = some (a, s1) → ¬leafOfSize lg e → o = .next (complete s cmd.seq 2)) ∧
    (formed → place = some (a, s1) → leafOfSize lg e →
      ∃ t i, o = .next t ∧ (∀ b, a ≤ b → b < a + 8 * n → memByte t.mem b = 0) ∧ SameMemOutside a (8 * n) s t ∧
        (t.vf vf).inval2 = v.inval2 ++ [i] ∧ i.lo = ipa / 4096 ∧ i.pages = 2 ^ lg ∧ i.seq = some cmd.seq ∧
        (∀ g, g ∈ i.zero ↔ ∃ k, mine g k ∧ k ≤ 1) ∧ t.root = { s.root with granules := t.root.granules } ∧
        ∀ g, (∀ k, mine g k → tabGet? t.root.granules g = some (if k ≤ 1 then .leaving else .owned vf v.gen (k - 1))) ∧
          ((∀ k, ¬mine g k) → tabGet? t.root.granules g = tabGet? s.root.granules g))

end Sys2Proof.Claims
end

