-- ==== Sys2Proof/Claims/RootRules.lean ====
section
/-! DEFINITION. Rules of 12, 16 and 19 about the management processor, keys and attestation, firmware, resets, the clock, power and the debug port,
as propositions of which the statements are made. -/

namespace Sys2Proof.Claims

open Sys2Proof.Machine

/-- A clock step keeps every limit: power under the cap, the junction under 105 degrees, the coolant's limit (19 R414). -/
def stepFits (s : State) (r : Reading) : Prop := r.watts < s.power.cap ∧ r.celsius < 105 ∧ r.coolant = true

/-- The step that the controller chooses from the readings of the three higher steps, the highest first (19 R414). -/
def chosenStep (s : State) (celsius : Nat) (r0 r1 r2 : Reading) (st : ClockStep) : Prop :=
  (115 < celsius → st = .mhz525) ∧
  (celsius ≤ 115 → (stepFits s r0 → st = .mhz1050) ∧ (¬stepFits s r0 → stepFits s r1 → st = .mhz840) ∧
    (¬stepFits s r0 → ¬stepFits s r1 → stepFits s r2 → st = .mhz630) ∧
    (¬stepFits s r0 → ¬stepFits s r1 → ¬stepFits s r2 → st = .mhz525))

/-- 17 R376, 19 R399, R414: a fault of the management processor holds the lowest clock step until it recovers, when a layout commit that had waited
for it takes effect; the controller chooses the highest step that keeps every limit, the lowest above 115 degrees, and sets, between 1,500 and
3,000 W, the cap, only while that processor runs. -/
def ManagementRules : Prop :=
  ∀ (s : State) (celsius w : Nat) (r0 r1 r2 r3 : Reading) (cmd : Cmd) (l : LayoutTables),
    let up : State := { s with root := { s.root with mcpUp := true } }
    exec .mcpFault s = .next { s with root := { s.root with mcpUp := false }, power := { s.power with step := .mhz525 } } ∧
    (s.shadow = none → exec .mcpRecovery s = .next up) ∧
    (s.shadow = some (cmd.seq, l) → (∃ e ∈ s.gangs, onMovedQuad s l e.2) →
      exec .mcpRecovery s = .next up) ∧
    (s.shadow = some (cmd.seq, l) → (∀ e ∈ s.gangs, ¬onMovedQuad s l e.2) →
      ∃ t, exec .mcpRecovery s = .next t ∧ committedAs s t cmd l ∧ t.root.mcpUp = true ∧ t.gangs = s.gangs ∧ t.mem = s.mem) ∧
    (s.root.mcpUp = true → ∃ st, chosenStep s celsius r0 r1 r2 st ∧
      exec (.throttleStep ⟨celsius, [r0, r1, r2, r3]⟩) s = .next { s with power := { s.power with step := st } }) ∧
    (s.root.mcpUp = false → exec (.throttleStep ⟨celsius, [r0, r1, r2, r3]⟩) s = .next s) ∧
    (s.root.mcpUp = true → 1500 ≤ w → w ≤ 3000 → exec (.setPowerCap w) s = .next { s with power := { s.power with cap := w } }) ∧
    (s.root.mcpUp = false ∨ w < 1500 ∨ 3000 < w → exec (.setPowerCap w) s = .next s)

/-- The measurements that a signed answer holds (19 R408): the boot ROM, two parts of the running image, its security version, whether the debug port
is unlocked, and for a VF that exists its policy's hash and whether it is confidential. -/
def measured (s : State) (vf : Nat) (blocks : List Nat) : Prop :=
  let of {α : Type} (f : Firmware → α) (d : α) : α := match s.root.running with | some g => f g | none => d
  ∃ rest, blocks = [Config.romMeasure, Config.partMeasure 2 (of (·.hash) 0), Config.partMeasure 3 (of (·.hash) 0), of (·.version) 0,
      if s.root.unlocked = true then 1 else 0] ++ rest ∧
    (∀ v, tabGet? s.vfs vf = some v → rest = [v.policy.hash, if v.policy.conf = true then 1 else 0]) ∧
    (tabGet? s.vfs vf = none → rest = [])

/-- 19 R407, R408, R415: an attestation signs the measurements with the next leaf of the session key; without a key it is answered with an error; a
key whose 65,536 leaves are spent is replaced first, by one that the next identity leaf certifies, until 1,048,576 are used. No leaf signs twice. -/
def AttestationRules : Prop :=
  ∀ (s : State) (vf : Nat),
    let r := s.root
    let becomes (q : Root) : Host.Outcome State Fault Refusal := .next { s with root := q }
    (r.sessionKey = true → r.sessionLeaf < 65536 → ∃ blocks, measured s vf blocks ∧
      exec (.spdmRequest vf) s =
        becomes { r with attests := r.attests ++ [{ vf := vf, ok := true, blocks := blocks }], sessionLeaf := r.sessionLeaf + 1 } ∧
      exec .sessionKeyRenewal s = .next s) ∧
    (r.sessionKey = false →
      exec (.spdmRequest vf) s = becomes { r with attests := r.attests ++ [{ vf := vf, ok := false, blocks := [] }] } ∧
      exec .sessionKeyRenewal s = .next s) ∧
    (r.sessionKey = true → 65536 ≤ r.sessionLeaf → exec (.spdmRequest vf) s = .next s) ∧
    (r.sessionKey = true → 65536 ≤ r.sessionLeaf → r.identityLeaf < 1048576 →
      exec .sessionKeyRenewal s = becomes { r with sessionLeaf := 0, identityLeaf := r.identityLeaf + 1 }) ∧
    (r.sessionKey = true → 65536 ≤ r.sessionLeaf → 1048576 ≤ r.identityLeaf →
      exec .sessionKeyRenewal s = becomes { r with sessionKey := false })

/-- An image whose manifest verifies on this module (19 R409). -/
def imageVerifies (f : Firmware) : Prop := f.verifies = true ∧ f.lowestRom ≤ Config.romRevision

/-- An image that verifies and that is not older than the fuse counter (19 R410). -/
def installable (s : State) (f : Firmware) : Prop := imageVerifies f ∧ s.root.fuse ≤ f.version

/-- 19 R409, R410, R415: flash takes an image only when it verifies and is not older than the fuse counter; the counter rises to the running image's
version and never falls; the debugger arms EBREAK only through an unlocked port. -/
def FirmwareRules : Prop :=
  ∀ (s : State) (f g : Firmware),
    (installable s f → exec (.firmwareUpdate f) s = .next { s with root := { s.root with flash := some f } }) ∧
    (¬installable s f → exec (.firmwareUpdate f) s = .next s) ∧
    (s.root.running = some g →
      exec .securityVersionCommit s = .next { s with root := { s.root with fuse := max s.root.fuse g.version } }) ∧
    (s.root.running = none → exec .securityVersionCommit s = .next s) ∧
    (s.root.unlocked = true → exec .debuggerArm s = .next { s with root := { s.root with armed := true } }) ∧
    (s.root.unlocked = false → exec .debuggerArm s = .next s)

/-- 19 R413: HBM reads zero after a reset; memory outside this device is as it was. -/
def hbmZeroed (s t : State) : Prop := ∀ a, memByte t.mem a = if localHbm s a then 0 else memByte s.mem a

/-- 19 R413, 12 R290: what a reset leaves: HBM and every register file zero, no gang, no VF, no partition, empty caches, the ports trained but for
those that fail, and no channel mapped but a failed one of the first 381, each to a spare of its own that works. -/
def bootedAs (s t : State) (channels : List Nat) (ports : List (Fin 6)) : Prop :=
  hbmZeroed s t ∧ t.poison = [] ∧ t.gangs = [] ∧ t.vfs = [] ∧ t.parts = [] ∧ t.pcores = [] ∧ t.l2 = [] ∧ t.tensors = [] ∧ t.marks = [] ∧
  t.landing = [] ∧ t.layoutVer = 0 ∧ t.power = { step := .mhz1050, cap := 3000, stopped := false } ∧ t.ac = s.ac ∧ t.coord = s.coord ∧
  (∀ q : Fin 6, (t.ports[q]).up = true ↔ q ∉ ports) ∧
  (∀ c, c ∈ t.chanFailed ↔ c ∈ s.chanFailed ∨ c ∈ channels) ∧
  (∀ c x, tabGet? t.chanMap c = some x → c < 381 ∧ c ∈ t.chanFailed ∧ 381 ≤ x ∧ x < 384 ∧ x ∉ t.chanFailed) ∧
  (∀ c d x, tabGet? t.chanMap c = some x → tabGet? t.chanMap d = some x → c = d)

/-- The root after a boot (19 R407, R409, R411, R413): it runs the image of its flash when that verifies, with a fresh session key that the next
identity leaf certifies, if one is left; else it is in recovery. -/
def rootBoots (s t : State) (flash : Option Firmware) (unlocked : Bool) : Prop :=
  let good := ∃ f, flash = some f ∧ imageVerifies f
  t.root.fuse = s.root.fuse ∧ t.root.flash = flash ∧ t.root.unlocked = unlocked ∧ t.root.armed = false ∧ t.root.granules = [] ∧
  (good → t.root.recovery = false ∧ t.root.running = flash ∧ t.root.sessionLeaf = 0 ∧
    (s.root.identityLeaf < 1048576 → t.root.sessionKey = true ∧ t.root.identityLeaf = s.root.identityLeaf + 1) ∧
    (1048576 ≤ s.root.identityLeaf → t.root.sessionKey = false ∧ t.root.identityLeaf = s.root.identityLeaf)) ∧
  (¬good → t.root.recovery = true ∧ t.root.running = none ∧ t.root.sessionKey = false ∧ t.ready = false)

/-- 19 R411, R413, R415, 12 R290: a cold reset boots; up to three failed channels are all mapped, a fourth fails the reset, which is reported; a reset with a valid token unlocks the
debug port, one without changes nothing; a module in recovery boots from an image that verifies. -/
def ColdResets : Prop :=
  ∀ (s : State) (channels : List Nat) (ports : List (Fin 6)) (f : Firmware),
    let failed := (s.chanFailed ++ channels).eraseDups.length
    (∃ t, exec (.coldReset channels ports) s = .next t ∧ bootedAs s t channels ports ∧ rootBoots s t s.root.flash false ∧
      (failed ≤ 3 → t.root.failedReset = false ∧ (∀ c ∈ t.chanFailed, c < 381 → tabGet? t.chanMap c ≠ none) ∧
        ((∃ g, s.root.flash = some g ∧ imageVerifies g) → t.ready = true)) ∧
      (3 < failed → t.ready = false ∧ t.root.failedReset = true)) ∧
    (∃ t, exec (.debugUnlock true) s = .next t ∧ bootedAs s t [] [] ∧ rootBoots s t s.root.flash true) ∧
    exec (.debugUnlock false) s = .next s ∧
    (s.root.recovery = true → imageVerifies f →
      ∃ t, exec (.recovery f) s = .next t ∧ bootedAs s t [] [] ∧ rootBoots s t (some f) false) ∧
    (s.root.recovery = false ∨ ¬imageVerifies f → exec (.recovery f) s = .next s)

/-- 17 R376, 18 R394, 19 R403, R413: a hot reset ends every gang as a device fault does, its completion record written and its ring's interrupt raised,
abandons a layout commit, destroys every VF, whose handles are then stale, and zeroes HBM and the register files; it keeps the firmware and its
keys, the channel map and the partitions' quads. -/
def HotResets : Prop :=
  ∀ (s : State) (ports : List (Fin 6)), ∃ t, exec (.hotReset ports) s = .next t ∧
    (∀ a, localHbm s a = true → memByte t.mem a = 0) ∧ (s.gangs = [] → (∀ e ∈ s.vfs, ∀ n : Fin 4, (e.2.rings[n]).compl = []) → hbmZeroed s t) ∧
    t.poison = [] ∧ t.gangs = [] ∧ t.vfs = [] ∧ t.pcores = [] ∧ t.l2 = [] ∧ t.tensors = [] ∧ t.tensorBlocks = [] ∧ t.marks = [] ∧
    t.markBlocks = [] ∧ t.landing = [] ∧ t.shadow = none ∧ (∀ q : Fin 6, (t.ports[q]).up = true ↔ q ∉ ports) ∧ t.chanMap = s.chanMap ∧
    t.chanFailed = s.chanFailed ∧ t.quadMap = s.quadMap ∧ t.ready = s.ready ∧ t.power = s.power ∧
    t.root = { s.root with granules := [], nextHandle := t.root.nextHandle, requests := t.root.requests, completions := t.root.completions } ∧
    t.root.completions = s.root.completions ++ (match s.shadow with | some (seq, _) => [{ seq := seq, status := 5 }] | none => []) ∧
    (∀ k v, tabGet? s.vfs k = some v → (∀ w, (k, w) ∈ s.vfs → w = v) → tabGet 0 t.root.nextHandle k = v.gen + 1) ∧
    ((s.gangs.map (·.1)).Nodup → (s.vfs.map (·.1)).Nodup → (∀ e ∈ s.gangs, e.2.desc.crec = 0) →
      (∀ e ∈ s.vfs, ∀ n : Fin 4, (e.2.rings[n]).compl = []) →
      ∀ e ∈ s.gangs, vfExists s e.2.vf = true → (ringOf s e.2.vf e.2.ring).irq = true → (e.2.vf, e.2.ring.val) ∈ t.msi)

end Sys2Proof.Claims
end

