-- ==== Sys2Proof/Claims/MachineRules.lean ====
section
/-! DEFINITION. The encoding, the step of the module, what it keeps and where it starts, as propositions of which the statements are made. -/

namespace Sys2Proof.Claims

open Sys2Proof.Machine

/-- 02 R33 to R45: decoding an encoded well-formed instruction gives it back, with every operand. -/
def EncodeDecode : Prop := ∀ (i : Instr) (w : IWord), i.wf = true → encode i = some w → decode w = .ok i

/-- 02 R46 to R48: a word that decodes stands for one well-formed instruction, whose encoding it is. -/
def DecodeSound : Prop := ∀ (i : Instr) (w : IWord), decode w = .ok i → i.wf = true ∧ encode i = some w

/-- Words that the worked encodings of 02, 04, 05, 07 and 18 spell out, and three that decode refuses. -/
def WorkedWords : Prop :=
  decode 0x08A0FFFF = .ok (.addi 5 0 0xFFFF) ∧ decode 0x04611000 = .ok (.add 3 1 2) ∧ decode 0x3064FFFC = .ok (.beq 3 4 0xFFFC) ∧
  decode 0x8400020F = .ok (.bcast 0 2 0x0F) ∧ decode 0x94082980 = .ok (.vadd 0 8 5 1 1) ∧ decode 0xB1EC6811 = .ok (.mxpt 1 3 12 13 0 1 1) ∧
  decode 0x80000002 = .ok .trapret ∧ decode 0x04221818 = .error .reservedField ∧ decode 0x0422181B = .error .illegal ∧
  decode 0xC8000000 = .error .illegal

/-- The head of the agenda, or the turn that stands for an empty one (log 1). -/
def nextTurn (s : State) : Turn := s.agenda.head?.getD (defaultTurn (noteCandidates s))

/-- The state in which the head of the agenda acts: launches whose waits are met are candidates, its time has passed, the buffers are empty when
any has, its queued accesses are performed and its tile fetches go on (log 1, log 3). -/
def beforeMove (s : State) : State :=
  let turn := nextTurn s
  let s := elapse { noteCandidates s with
    agenda := s.agenda.tail, denied := turn.denied.getD s.denied, silent := turn.silent.getD s.silent, late := turn.late, busy := turn.busy } turn.ac
  let s := if turn.ac = 0 then s else drainBuffers s
  let s := turn.perf.foldl (fun (s : State) e => performNth s e.1 e.2) s
  turn.jobs.foldl (fun (s : State) e => jobStep s e.1 e.2) s

/-- A module that runs, with no event due before its next move. -/
def inMotion (s : State) : Prop :=
  s.ready = true ∧ s.power.stopped = false ∧ dueEvent (noteCandidates s) = none ∧ (nextTurn s).ac < roomAc (noteCandidates s)

/-- A thread of a gang that runs and that executes an instruction next: it does not wait, or tries its instruction again, and no wick event is
before it. -/
def executesNext (s : State) (u : Tid) : Prop :=
  runnable s u = true ∧ (∀ w, (s.thread u).wait = some w → w.retries = true) ∧
    (u.who = .taper → pendingFault (s.core u.gang u.core) = none ∨ (s.core u.gang u.core).taper.act = true)

/-- A fetch may fill caches; the threads, the wicks and memory are as before. -/
def sameButFetched (s t : State) (u : Tid) : Prop :=
  t.cur = u ∧ t.agenda = s.agenda ∧ t.ac = s.ac ∧ t.mem = s.mem ∧ t.vfs.map (·.1) = s.vfs.map (·.1) ∧ t.parts = s.parts ∧
  (∀ v, t.thread v = s.thread v) ∧ (∀ g c w, t.wick g c w = s.wick g c w)

/-- What a step adds around the instruction that a thread starts: its gang has made progress, unless the thread waited, and the issue slot notes a new
slot instruction of a wick (05 R111, 18 R395). -/
def sameButStarted (s t : State) (u : Tid) : Prop :=
  sameButFetched s t u ∧ ((s.thread u).wait = none → (t.gang u.gang).progressAt = s.ac)

/-- A thread's word starts in a state: one that goes on; or a new one, a slot instruction of a wick when the slot chooses that wick, any other one
when no load in flight holds it back (05 R106, R107, R111). -/
def startsIn (s : State) (u : Tid) (w : IWord) : Prop :=
  issued s u = true ∨
    match u.who with
    | .wick k => if slotWord w = true then slotChoice s u.gang u.core = some k else mustWait s u w = false
    | .taper => mustWait s u w = false

/-- 01 R16, 02 R33, R48, 04 R96, 05 R106, R107, R111, 18 R383: a step executes the word at the program counter of the thread that moves: its
instruction, or the trap of a word that has none, or of a fetch that fails; a slot instruction only when the slot chooses its wick. A block-driven wick
executes the word of its block. -/
def StepExecutes : Prop :=
  ∀ (s s1 s2 : State) (u : Tid) (w : IWord) (X : Xlat),
    let s0 : State := { beforeMove s with cur := u }
    let row (i : Instr) := ∃ t, step s = exec i t ∧ sameButStarted s0 t u
    inMotion s → (nextTurn s).move = .thread u → executesNext s0 u → (s0.vfs.map (·.1)).Pairwise (· < ·) →
    (s0.blockDriven u = false → translate s0 (s0.pcoreNum u) (s0.vfOf u) (s0.pcOf u) .fetch true = (.ok X, s1) → readable s1 X.pa →
      X.pa % 4 = 0 → (∀ l ∈ (s1.pcoreOf (s1.pcoreNum u)).icache, l.line ≠ X.pa / 64) → l2Room s1 (s1.vfOf u) X.pa = true →
      memRead s1.mem X.pa 4 = w.toNat → ∃ t, currentWord s0 u = .word w t ∧ sameButFetched s0 t u) ∧
    (∀ k b bs, u.who = .wick k → s0.blockDriven u = true → (s0.wick u.gang u.core k).queue = b :: bs → b.words[b.pos]? = some w →
      currentWord s0 u = .word w s0) ∧
    (currentWord s0 u = .word w s2 → startsIn s2 u w →
      (∀ i, decode w = .ok i → row i) ∧ (decode w = .error .illegal → row (.illegalEncoding w)) ∧
        (decode w = .error .reservedField → row (.reservedFieldWord w))) ∧
    (currentWord s0 u = .word w s2 → ¬startsIn s2 u w → step s = .next s2) ∧ (currentWord s0 u = .wait s2 → step s = .next s2) ∧
    (∀ c p, s0.blockDriven u = false → translate s0 (s0.pcoreNum u) (s0.vfOf u) (s0.pcOf u) .fetch true = (.fail c p, s1) →
      step s = exec (.instructionFetchFault c (s0.pcOf u)) s0)

/-- 18 R386, 01 R18, 09 R224: a step of a taper with a fault of a wick pending takes it; a step of a thread that waits tests its wait again, one of a
waiting vector access tries again what waits for room, and one of a thread that cannot run leaves the module as it is. -/
def StepOtherwise : Prop :=
  ∀ (s : State) (u : Tid), let s0 : State := { beforeMove s with cur := u }
    inMotion s → (nextTurn s).move = .thread u →
    (runnable s0 u = false → step s = .next s0) ∧
    (runnable s0 u = true → u.who = .taper → (pendingFault (s0.core u.gang u.core)).isSome = true →
      (s0.core u.gang u.core).taper.act = false → step s = exec (.wickEvent u.gang u.core) s0) ∧
    (∀ wt e, runnable s0 u = true → (u.who = .taper → pendingFault (s0.core u.gang u.core) = none ∨ (s0.core u.gang u.core).taper.act = true) →
      (s0.thread u).wait = some wt →
      (wt = .vmem → step s = .next (answerVmem s0 u (·.room) false)) ∧
      (wt.retries = false → waitEvent s0 u wt = some e → step s = exec e s0) ∧
      (wt.retries = false → wt ≠ .vmem → waitEvent s0 u wt = none → step s = .next s0))

/-- 12 R294, 15 R341, 17 R371, R372, 18 R391, R395, R397, 19 R401; log 1: a step takes an event that time has made due before any move of the agenda; time passes
up to the next one that falls due; an event that the agenda names happens, if it belongs to no gang or to one that runs; a word is no event. -/
def StepTakesEvents : Prop :=
  ∀ (s : State),
    (s.ready = true → s.power.stopped = false →
      (dueEvent (noteCandidates s) = some .period → step s = exec .periodStart (noteCandidates s)) ∧
      (∀ vf, dueEvent (noteCandidates s) = some (.balance vf) → step s = exec (.balanceExhausted vf) (noteCandidates s)) ∧
      (∀ g, dueEvent (noteCandidates s) = some (.watchdog g) → step s = exec (.watchdog g) (noteCandidates s)) ∧
      (∀ vf, dueEvent (noteCandidates s) = some (.pauseOver vf) → step s = exec (.pauseTimeout vf) (noteCandidates s)) ∧
      (∀ part, dueEvent (noteCandidates s) = some (.unit part) → step s = dueOutcome (.unit part) (noteCandidates s)) ∧
      (∀ u since, dueEvent (noteCandidates s) = some (.wait u) → (s.thread u).wait = some (.wfe since) →
        step s = exec (.wfeTimeout u) (noteCandidates s)) ∧
      (∀ u va pa n c v rd sc at', dueEvent (noteCandidates s) = some (.wait u) → (s.thread u).wait = some (.word va pa n c v rd sc at') →
        step s = exec (.waitPoll u) (noteCandidates s)) ∧
      (dueEvent (noteCandidates s) = some .rows → step s = exec .activationCounterReset (noteCandidates s)) ∧
      (dueEvent (noteCandidates s) = some .held → step s = exec .heldRowServe (noteCandidates s)) ∧
      (∀ part, dueEvent (noteCandidates s) = some (.reply part) → step s = exec (.remoteReplyTimeout part) (noteCandidates s)) ∧
      (dueEvent (noteCandidates s) = none → roomAc (noteCandidates s) ≤ (nextTurn s).ac → step s = .next (passTime (noteCandidates s) (nextTurn s)))) ∧
    (∀ i, inMotion s → (nextTurn s).move = .event i →
      (encode i = none → threadOnly i = false → mayHappen (beforeMove s) i = true → step s = exec i (beforeMove s)) ∧
      (encode i = none → threadOnly i = false → mayHappen (beforeMove s) i = false → step s = .next (beforeMove s)) ∧
      (encode i ≠ none ∨ threadOnly i = true → step s = .fault .notAnEvent))

/-- Log 4: every step keeps memory in its one canonical form, in which equal memories are equal data. -/
def StepKeepsMemory : Prop := ∀ (s t : State), Memory.wf s.mem = true → step s = .next t → Memory.wf t.mem = true

/-- A table lists each number once, in rising order. -/
def rises {α : Type} (l : Tab α) : Prop := (l.map (·.1)).Pairwise (· < ·)

/-- The tables of gangs, VFs, partitions and physical cores are in order, and so are the quads of each partition. -/
def tablesInOrder (s : State) : Prop :=
  rises s.gangs ∧ rises s.vfs ∧ rises s.parts ∧ rises s.pcores ∧ ∀ e ∈ s.parts, e.2.quads.Pairwise (· < ·)

/-- Every step keeps the order of the tables, on which the ascending orders of 17 R369, R371 and R372 rest. -/
def StepKeepsTables : Prop := ∀ (s t : State), tablesInOrder s → step s = .next t → tablesInOrder t

/-- 19 R413, 17 R376: a cold reset leaves HBM zero, no gang, no VF and no partition, empty caches, the ports up and the module ready at its
fastest clock and its default cap; there the invariants hold. -/
def ResetLeaves : Prop :=
  (∀ a, memByte State.reset.mem a = 0) ∧ State.reset.poison = [] ∧ State.reset.gangs = [] ∧ State.reset.vfs = [] ∧ State.reset.parts = [] ∧
  State.reset.pcores = [] ∧ State.reset.l2 = [] ∧ State.reset.tensors = [] ∧ State.reset.marks = [] ∧ State.reset.landing = [] ∧
  State.reset.layoutVer = 0 ∧ State.reset.ready = true ∧ State.reset.root.mcpUp = true ∧ State.reset.root.unlocked = false ∧
  State.reset.power.cap = 3000 ∧ (∀ q : Fin 6, (State.reset.ports[q]).up = true) ∧ Memory.wf State.reset.mem = true ∧ tablesInOrder State.reset

/-- Every row of the opcode table has a meaning in every state: none is refused, and none stops the module. -/
def EveryRowRuns : Prop := ∀ (i : Instr) (s : State), ∃ t, exec i s = .next t

end Sys2Proof.Claims
end

