-- ==== Sys2Proof/Claims/Csr.lean ====
section
/-! DEFINITION. The map of CSRs (04 R85 with the fields of their own chapters) as a table: address, whether a taper and a wick may name
it, and the bits that a write changes. -/

namespace Sys2Proof.Claims

open Sys2Proof.Machine

/-- A row of the map. -/
structure CsrRow where
  addr : Nat
  taper : Bool
  wick : Bool
  writable : Word
  deriving DecidableEq, Repr

/-- Every bit of a word. -/
def allBits : Word := 0xFFFFFFFFFFFFFFFF

/-- The map of 04 R85. The bits of vtype differ: a taper's has the rounding mode only (06 R131). -/
def csrMap (taper : Bool) : List CsrRow :=
  [⟨0x001, true, true, 0x7F⟩, ⟨0x010, false, true, 0⟩, ⟨0x011, false, true, 0⟩, ⟨0x012, true, true, if taper then 0x70 else 0xF7⟩,
   ⟨0x013, false, true, 0x3FFFF⟩, ⟨0x014, false, true, 0⟩, ⟨0x018, false, true, 0xFFFFFFFF00000007⟩,
   ⟨0x019, false, true, 0xFFFFFFFF00000007⟩, ⟨0x01A, false, true, 0xFFFFFFFF00000007⟩, ⟨0x01B, false, true, 0xFFFFFFFF00000007⟩] ++
  [⟨0x020, false, true, 0xFFFFFFFFFFFFFF07⟩, ⟨0x021, false, true, allBits⟩, ⟨0x022, false, true, 0x1F⟩, ⟨0x023, false, true, 0xFEFE⟩,
   ⟨0x024, false, true, 0x7FFF0007⟩, ⟨0x040, true, true, 0xFFFFFFFF⟩, ⟨0x041, true, true, 0xFFFFFFFF⟩, ⟨0x042, true, true, allBits⟩,
   ⟨0x080, true, false, 1⟩, ⟨0x081, true, false, 0xFFFF⟩, ⟨0x0C0, true, true, 0⟩, ⟨0x0C1, true, true, 0⟩] ++
  [⟨0x0D0, true, true, 0⟩, ⟨0x0D1, true, true, 0⟩, ⟨0x0D2, true, true, 0⟩, ⟨0x0D3, true, true, 0⟩, ⟨0x100, true, true, allBits⟩,
   ⟨0x101, true, true, allBits⟩, ⟨0x102, true, true, 0xFFFFFFFF⟩, ⟨0x103, true, true, 0xFFFFFFFF⟩, ⟨0x104, true, true, 0xFFFFFFFF⟩,
   ⟨0x105, true, true, 0xFFFFFFFF⟩, ⟨0x106, true, true, allBits⟩, ⟨0x107, true, true, allBits⟩] ++
  [⟨0x108, true, true, allBits⟩, ⟨0x109, true, true, allBits⟩, ⟨0x10A, true, true, 0xFF1F⟩, ⟨0x10B, true, true, 0xFFFFFFFF20000171⟩,
   ⟨0x10C, true, true, allBits⟩, ⟨0x10D, true, true, 3⟩, ⟨0x10F, true, true, 0⟩, ⟨0x140, true, true, allBits⟩,
   ⟨0x141, true, true, 0xFFFFFFFF20010000⟩, ⟨0x142, true, true, 0xFFFFFFFF⟩, ⟨0x143, true, true, 0⟩] ++
  [⟨0x300, true, false, 0xFFFFFFFFFFFFFFFC⟩, ⟨0x301, true, false, 0xC000⟩, ⟨0x302, true, false, allBits⟩, ⟨0x303, true, false, allBits⟩,
   ⟨0x800, false, true, 0⟩]

/-- Whether a thread of a kind may name a CSR. -/
def CsrRow.marked (r : CsrRow) (u : Tid) : Bool := if u.who = .taper then r.taper else r.wick

/-- A value that a CSR does not take: an element type 7 or a rounding mode 6 or 7 of vtype, an element size 7 of an address pointer
(06 R131, R136). -/
def csrRefuses (taper : Bool) (a : Nat) (v : Word) : Bool :=
  (a == 0x012 && ((!taper && v.toNat % 8 == 7) || 6 ≤ v.toNat / 16 % 8)) || (!taper && 0x018 ≤ a && a ≤ 0x01B && v.toNat % 8 == 7)

/-- A CSR instruction: destination, address, and the new value from the old one where the form writes (04 R87). -/
def csrSpec (s : State) : Instr → Option (Reg × BitVec 12 × Option (Word → Word))
  | .csrr d c => some (d, c, none)
  | .csrw d a c => some (d, c, some fun _ => s.getX s.cur a)
  | .csrs d a c => some (d, c, some fun old => old ||| s.getX s.cur a)
  | .csrc d a c => some (d, c, some fun old => old &&& ~~~s.getX s.cur a)
  | .csrwImm d u c => some (d, c, some fun _ => BitVec.ofNat 64 u.toNat)
  | .csrsImm d u c => some (d, c, some fun old => old ||| BitVec.ofNat 64 u.toNat)
  | .csrcImm d u c => some (d, c, some fun old => old &&& ~~~BitVec.ofNat 64 u.toNat)
  | _ => none

end Sys2Proof.Claims
end

