-- ==== Sys2Proof/Claims/ScalarRules.lean ====
section
/-! DEFINITION. Rules of 02 to 04, 08 and 13 about scalar threads, as propositions of which the statements are made. -/

namespace Sys2Proof.Claims

open Sys2Proof.Machine

/-- 02 R49, 04 R81: a write to x0 is discarded and x0 reads zero; a write to another register changes that register of that thread
only. -/
def RegisterWrite : Prop :=
  ∀ (s : State) (u : Tid) (d : Reg) (v : Word),
    s.getX u 0 = 0 ∧ (s.setX u 0 v).thread u = s.thread u ∧ Holds u (s.setX u d v) d v ∧ OtherRegs u d s (s.setX u d v) ∧
    ∀ w : Tid, w ≠ u → (s.setX u d v).thread w = s.thread w

/-- 01 R18, 02 R50, 05 R116: what completing an instruction does to a taper, to a free-running wick and to a block-driven wick. -/
def InstructionAdvance : Prop :=
  ∀ (s : State) (g c : Nat) (w : Fin 8),
    (((s.done ⟨g, c, .taper⟩).thread ⟨g, c, .taper⟩).pc = (s.thread ⟨g, c, .taper⟩).pc + 4 ∧
      ((s.done ⟨g, c, .taper⟩).thread ⟨g, c, .taper⟩).wait = none) ∧
    ((s.wick g c w).isFree = true →
      ((s.done ⟨g, c, .wick w⟩).wick g c w).state = .freeRunning ∧
      ((s.done ⟨g, c, .wick w⟩).wick g c w).th.pc = (s.wick g c w).th.pc + 4) ∧
    (∀ b q, (s.wick g c w).isFree = false → (s.wick g c w).queue = b :: q → b.pos + 1 < b.words.length →
      ((s.done ⟨g, c, .wick w⟩).wick g c w).queue = { b with pos := b.pos + 1 } :: q ∧
      (s.done ⟨g, c, .wick w⟩).pcOf ⟨g, c, .wick w⟩ = s.pcOf ⟨g, c, .wick w⟩ + 4) ∧
    (∀ b q, (s.wick g c w).isFree = false → (s.wick g c w).queue = b :: q → b.words.length ≤ b.pos + 1 →
      ((s.done ⟨g, c, .wick w⟩).wick g c w).queue = q ∧
      ((s.done ⟨g, c, .wick w⟩).wick g c w).state = if q = [] then .idle else .blockDriven) ∧
    OnlyScalar ⟨g, c, .wick w⟩ s (s.done ⟨g, c, .wick w⟩) ∧ OnlyScalar ⟨g, c, .taper⟩ s (s.done ⟨g, c, .taper⟩)

/-- 04 R90 to R93: every integer instruction writes its result and completes. -/
def IntegerResult : Prop :=
  ∀ (s : State) (i : Instr) (d : Reg) (v : Word), intSpec s i = some (d, v) → exec i s = .next (wrote s d v)

/-- The frame of the integer instructions: nothing but the destination register, the program counter and the thread's run state. -/
def IntegerFrame : Prop :=
  ∀ (s t : State) (i : Instr) (d : Reg) (v : Word), intSpec s i = some (d, v) → exec i s = .next t →
    Holds s.cur t d v ∧ OtherRegs s.cur d s t ∧ SameFlags s.cur s t ∧ OnlyScalar s.cur s t ∧ MovedOn s.cur s t ∧ t.mem = s.mem

/-- 04 R94, R96: a branch whose condition fails continues; one whose condition holds transfers, or traps illegal in a block-driven
wick. -/
def BranchResult : Prop :=
  ∀ (s : State) (i : Instr) (c : Bool) (o : BitVec 16), branchSpec s i = some (c, o) →
    (c = false → exec i s = .next (s.done s.cur)) ∧
    (c = true → s.blockDriven s.cur = false → exec i s = .next (s.jump s.cur (pcPlus s o.toInt))) ∧
    (c = true → s.blockDriven s.cur = true → exec i s = .next (trap s s.cur .illegal (wordOf i)))

/-- 04 R95, R96: JAL and JALR link and transfer; they trap illegal in a block-driven wick, and a misaligned JALR leaves rd. -/
def JumpResult : Prop :=
  ∀ (s : State) (d a : Reg) (o : BitVec 21) (i : BitVec 16),
    (s.blockDriven s.cur = false →
      exec (.jal d o) s = .next ((s.setX s.cur d (pcPlus s 1)).jump s.cur (pcPlus s o.toInt))) ∧
    (s.blockDriven s.cur = false → (effective s a i).toNat % 4 = 0 →
      exec (.jalr d a i) s = .next ((s.setX s.cur d (pcPlus s 1)).jump s.cur (effective s a i))) ∧
    (s.blockDriven s.cur = false → (effective s a i).toNat % 4 ≠ 0 →
      exec (.jalr d a i) s = .next (trap s s.cur .misaligned (effective s a i))) ∧
    (s.blockDriven s.cur = true →
      exec (.jal d o) s = .next (trap s s.cur .illegal (wordOf (.jal d o))) ∧
      exec (.jalr d a i) s = .next (trap s s.cur .illegal (wordOf (.jalr d a i))))

/-- What a transfer does to its thread, and its frame, with that of a link register's write. -/
def TransferFrame : Prop :=
  ∀ (s : State) (u : Tid) (d : Reg) (v a : Word),
    (((s.setX u d v).jump u a).thread u).pc = a ∧ (((s.setX u d v).jump u a).thread u).wait = none ∧
    Holds u ((s.setX u d v).jump u a) d v ∧ OtherRegs u d s ((s.setX u d v).jump u a) ∧
    OnlyScalar u s ((s.setX u d v).jump u a) ∧ (s.jump u a).mem = s.mem ∧ SameRegs u s (s.jump u a) ∧ OnlyScalar u s (s.jump u a)

/-- 04 R97, R98, 14 R312: a scalar load whose address is aligned, translates, carries no poison and meets no race writes the widened bytes;
one that misses, and that the agenda leaves for later (log 3), joins its thread's queue and the instruction completes. -/
def LoadResult : Prop :=
  ∀ (s s1 : State) (i : Instr) (d b : Reg) (imm : BitVec 16) (n : Nat) (sg : Bool) (x : Xlat),
    loadSpec i = some (d, b, imm, n, sg) → (effective s b imm).toNat % n = 0 →
    threadXlat s s.cur (effective s b imm) .read = .ok x s1 → hostRefuses s1 x.pa = false → scalarPoison s1 s1.cur x = false →
    raceAt s1 s1.cur x = false →
    (mayWait s1 x.pa = false ∨ scalarHit s1 s1.cur x.pa ≠ none →
      exec i s = .next (wrote (scalarRead s1 s1.cur x n).2 d (widen n sg (scalarRead s1 s1.cur x n).1))) ∧
    (mayWait s1 x.pa = true → scalarHit s1 s1.cur x.pa = none →
      exec i s = .next ((queueStore s1 s1.cur (loadPend x d n sg)).done s1.cur))

/-- 04 R98, R100, R101, 08 R205, 14 R312, R319: what a scalar load reads. Each byte is that of its thread's latest queued scalar store to it;
else that of the line which the scalar data cache holds and which was filled less than 4,096 ac ago; else, where there is none or its copy
has expired, that of memory. A hit changes nothing; a miss performs the thread's queued scalar accesses, and with none queued changes no
byte and no thread. A load that was left for later writes the bytes that it finds when it is performed, and no byte of memory. -/
def LoadValue : Prop :=
  (∀ (s : State) (u : Tid) (x : Xlat) (n : Nat), WholeBytes (s.thread u).pend → x.pa % 64 + n ≤ 64 →
    let r := scalarRead s u x n
    (∀ l, scalarHit s u x.pa = some l →
      r.2 = s ∧ l ∈ (s.pcoreOf (s.pcoreNum u)).dcache ∧ l.line = x.pa / 64 ∧ s.ac < l.filled + 4096 ∧
      ∀ k, k < n → r.1 / 256 ^ k % 256 = ((ownByte (s.thread u).pend (x.pa + k)).map (·.toNat)).getD (linePart l.data (x.pa % 64 + k) 1)) ∧
    (scalarHit s u x.pa = none →
      (∀ l ∈ (s.pcoreOf (s.pcoreNum u)).dcache, l.line = x.pa / 64 → l.filled + 4096 ≤ s.ac) ∧
      (∀ k, k < n → r.1 / 256 ^ k % 256 = ((ownByte (s.thread u).pend (x.pa + k)).getD (memByte s.mem (x.pa + k))).toNat) ∧
      (∀ p ∈ (r.2.thread u).pend, p.vector = true) ∧ (∀ w : Tid, w ≠ u → r.2.thread w = s.thread w) ∧
      ((∀ p ∈ (s.thread u).pend, p.vector = true) → r.1 = memRead s.mem x.pa n ∧ r.2.mem = s.mem ∧ r.2.thread u = s.thread u))) ∧
  ∀ (s : State) (u : Tid) (x : Xlat) (d : Reg) (n : Nat) (sg : Bool), n = 1 ∨ n = 2 ∨ n = 4 ∨ n = 8 →
    let t := performAccess s u (loadPend x d n sg)
    Holds u t d (widen n sg (memRead s.mem x.pa n)) ∧ OtherRegs u d s t ∧ t.mem = s.mem ∧ ∀ w : Tid, w ≠ u → t.thread w = s.thread w

/-- 04 R97, R98, 14 R312: a scalar store whose address is aligned, translates and meets no race joins its thread's queue with the low
bytes of its data at the translated address, and the instruction completes. -/
def StoreResult : Prop :=
  ∀ (s s1 : State) (i : Instr) (t b : Reg) (imm : BitVec 16) (n : Nat) (x : Xlat),
    storeSpec i = some (t, b, imm, n) → (effective s b imm).toNat % n = 0 →
    threadXlat s s.cur (effective s b imm) .write = .ok x s1 → raceAt s1 s1.cur x = false →
    exec i s = .next ((queueStore s1 s1.cur (scalarPend x n (reg s t))).done s1.cur)

/-- 04 R99, 08 R202: a queued scalar store of `n` bytes, performed, leaves its data at its address, byte by byte little-endian, and every
other byte of memory as before. -/
def StorePerformed : Prop :=
  ∀ (s : State) (u : Tid) (x : Xlat) (n : Nat) (v : Word), n ≤ 8 →
    memRead (performStore s u (scalarPend x n v)).mem x.pa n = v.toNat % 2 ^ (8 * n) ∧
    SameMemOutside x.pa n s (performStore s u (scalarPend x n v)) ∧
    ∀ w : Tid, (performStore s u (scalarPend x n v)).thread w = s.thread w

/-- 04 R98: a misaligned scalar access traps misaligned with its address, and a failed translation traps with its cause, its address and
its fault record; a stage-2 miss makes the thread wait on a page request. -/
def ScalarAccessTraps : Prop :=
  ∀ (s s1 : State) (i : Instr) (r b : Reg) (imm : BitVec 16) (n : Nat) (sg : Bool),
    ((loadSpec i = some (r, b, imm, n, sg) ∨ storeSpec i = some (r, b, imm, n)) → (effective s b imm).toNat % n ≠ 0 →
      exec i s = .next (trap s s.cur .misaligned (effective s b imm))) ∧
    (loadSpec i = some (r, b, imm, n, sg) → (effective s b imm).toNat % n = 0 →
      threadXlat s s.cur (effective s b imm) .read = .stop s1 → exec i s = .next s1) ∧
    (storeSpec i = some (r, b, imm, n) → (effective s b imm).toNat % n = 0 →
      threadXlat s s.cur (effective s b imm) .write = .stop s1 → exec i s = .next s1)

/-- What an atomic form leaves that has found `old` in the state `s1`, after the accesses that it follows, and whose word `new` goes to the
address `y` in the state `s3`: the word in memory, rd, the other registers, the queue, the release count, the scalar data cache
(04 R100, R101, 08 R206 to R208, 14 R313, R314). -/
def AmoEffect (s s3 t : State) (A : Amo) (y : Xlat) (old : Nat) (new : Option Nat) : Prop :=
  let s4 := amoWrite s3 s.cur y A.n (new.map (BitVec.ofNat 64))
  let s5 := if A.rl then countRelease s4 s.cur else s4
  s4.mem = amoMemory s3.mem y.pa A.n new ∧ t.mem = (if A.aq then drainReleased s5 s.cur A.scope else s5).mem ∧
  Holds s.cur t A.d (if A.signed then widen A.n true old else BitVec.ofNat 64 old) ∧ OtherRegs s.cur A.d s3 t ∧ MovedOn s.cur s t ∧
  (t.thread s.cur).relCount = (s.thread s.cur).relCount + (if A.rl then 1 else 0) ∧
  (t.thread s.cur).pend = (if A.rl then [] else (s.thread s.cur).pend.filter (·.vector)) ∧
  if A.aq then (t.pcoreOf (s.pcoreNum s.cur)).dcache = [] else ∀ l ∈ (t.pcoreOf (s.pcoreNum s.cur)).dcache, l.line ≠ y.pa / 64

/-- What an atomic form does at an aligned address that translates, where the operation exists and the host does not refuse it: after the
thread's earlier accesses that it must follow (its scalar ones; all of them with .rl), a poisoned word traps; else the old value is read and
the new one written in the same step. A form that may keep the word sets D only where it writes, so it translates again then. -/
def AmoRule (i : Instr) (A : Amo) : Prop :=
  ∀ (s s1 : State) (x : Xlat), (reg s A.a).toNat % A.n = 0 →
    threadXlatBy s s.cur (reg s A.a) .rmw (!A.keeps) = .ok x s1 → (isHost x.pa = true → A.host = true) → hostRefuses s1 x.pa = false →
    let s2 := amoBefore s1 s.cur A.rl
    let old := memRead s2.mem x.pa A.n
    let new := A.new old ((reg s A.b).toNat % 2 ^ (8 * A.n)) ((reg s A.d).toNat % 2 ^ (8 * A.n))
    (poisoned s2 x.pa = true → exec i s = .next (trap s2 s.cur .poison (reg s A.a))) ∧
    (poisoned s2 x.pa = false →
      (A.keeps = false ∨ new = none → ∃ t, exec i s = .next t ∧ AmoEffect s s2 t A x old new) ∧
      (∀ y s3, A.keeps = true → new ≠ none → threadXlat s2 s.cur (reg s A.a) .rmw = .ok y s3 →
        ∃ t, exec i s = .next t ∧ AmoEffect s s3 t A y old new) ∧
      (∀ s3, A.keeps = true → new ≠ none → threadXlat s2 s.cur (reg s A.a) .rmw = .stop s3 → exec i s = .next s3))

/-- 04 R101, 08 R206 to R209, 14 R313: every atomic form but AMOFADD does what its row of R206 says, and acquires and releases as its .aq
and .rl bits say. -/
def AtomicResult : Prop := ∀ (i : Instr) (A : Amo), amoSpec i = some A → AmoRule i A

/-- 08 R206: AMOFADD adds in F32 under RNE and gives rd the old word, zero-extended. -/
def AtomicFloatAdd : Prop :=
  ∀ (d a b : Reg) (c : BitVec 3) (q r : BitVec 1),
    AmoRule (.amofadd d a b c q r) ⟨d, a, b, c, q == 1, r == 1, 4, false, false, false, fun o v _ => some (addF32 o v)⟩

/-- 08 R206, R207, 14 R313, R314, 04 R101: LDA loads at the L2 after its thread's scalar accesses and acquires at its scope. STL releases at
its scope and stores: at .pt and above every earlier access of its thread is performed first; below, those that its own bytes meet are, and
the others stay in the queue marked with the scope (log 3). A poisoned word traps LDA. -/
def AcquireRelease : Prop :=
  ∀ (s s1 : State) (d a b : Reg) (c : BitVec 3) (w : BitVec 1) (x : Xlat), (reg s a).toNat % widthOf w = 0 →
    (threadXlat s s.cur (reg s a) .read = .ok x s1 → hostRefuses s1 x.pa = false →
      let s2 := flushScalar s1 s.cur
      (poisoned s2 x.pa = true → exec (.lda d a c w) s = .next (trap s2 s.cur .poison (reg s a))) ∧
      (poisoned s2 x.pa = false →
        exec (.lda d a c w) s =
          .next (wrote (acquire (l2Touch s2 (s2.vfOf s.cur) x.pa .read x.cmp none) s.cur c) d
            (widen (widthOf w) true (memRead s2.mem x.pa (widthOf w)))))) ∧
    (threadXlat s s.cur (reg s a) .write = .ok x s1 →
      let p := scalarPend x (widthOf w) (reg s b)
      let s2 := if 3 ≤ c.toNat then flushStores s1 s.cur else flushWhere s1 s.cur (·.meets p)
      ∃ t, exec (.stl a b c w) s = .next t ∧ t.mem = memWriteBytes s2.mem x.pa (leBytes (widthOf w) (reg s b).toNat) ∧
        (∀ e ∈ (t.thread s.cur).pend, c.toNat < 3 ∧ e.meets p = false ∧ ∃ k, e.scope = some k ∧ c.toNat ≤ k.toNat) ∧
        (t.thread s.cur).relCount = (s.thread s.cur).relCount + 1 ∧
        (∀ l ∈ (t.pcoreOf (s.pcoreNum s.cur)).dcache, l.line ≠ x.pa / 64) ∧ SameRegs s.cur s2 t ∧ MovedOn s.cur s t)

/-- 04 R101, 14 R311, R313, R314: an acquire empties its core's scalar data cache, and of every other thread it has performed, in order, what
a release in scope left under way: nothing that it must see stays in a queue. Its own thread stays as it is, and only bytes that a queued
store reaches change. -/
def AcquireTaken : Prop :=
  ∀ (s : State) (u : Tid) (c : BitVec 3),
    let t := acquire s u c
    (t.pcoreOf (s.pcoreNum u)).dcache = [] ∧ t.thread u = s.thread u ∧
    (∀ v : Tid, v ≠ u →
      (∀ e ∈ (t.thread v).pend, ¬ Due s u v c e) ∧ (∃ q, (s.thread v).pend = q ++ (t.thread v).pend) ∧
      ((∀ e ∈ (s.thread v).pend, ¬ Due s u v c e) → t.thread v = s.thread v)) ∧
    ∀ a, (∀ v, ∀ p ∈ (s.thread v).pend, p.load = none → ∀ e ∈ p.bytes, e.pa ≠ a) → memByte t.mem a = memByte s.mem a

/-- 08 R209, 09 R221: a read or an atomic operation of host memory that the host's root port refuses traps protection with its address, and its
fault record has where 0; an atomic form that the host does not have traps protection. -/
def HostRefusals : Prop :=
  ∀ (s s1 : State) (i : Instr) (d a : Reg) (imm : BitVec 16) (n : Nat) (sg : Bool) (A : Amo) (c : BitVec 3) (w : BitVec 1) (x : Xlat),
    let refused (va : Word) (k : Kind) := trapXlat s1 s1.cur .protection va k { ipa := x.ipa, place := 0 }
    (loadSpec i = some (d, a, imm, n, sg) → (effective s a imm).toNat % n = 0 →
      threadXlat s s.cur (effective s a imm) .read = .ok x s1 → hostRefuses s1 x.pa = true →
      exec i s = .next (refused (effective s a imm) .read)) ∧
    (amoSpec i = some A → (reg s A.a).toNat % A.n = 0 → threadXlatBy s s.cur (reg s A.a) .rmw (!A.keeps) = .ok x s1 →
      (isHost x.pa = true → A.host = true → hostRefuses s1 x.pa = true → exec i s = .next (refused (reg s A.a) .rmw)) ∧
      (isHost x.pa = true → A.host = false → exec i s = .next (trap s1 s1.cur .protection (reg s A.a)))) ∧
    ((reg s a).toNat % widthOf w = 0 → threadXlat s s.cur (reg s a) .read = .ok x s1 → hostRefuses s1 x.pa = true →
      exec (.lda d a c w) s = .next (refused (reg s a) .read))

/-- 14 R312, R313: performing a thread's queue empties it, changes only the bytes that its stores name and the registers that its loads
name, and no other thread. -/
def QueuePerformed : Prop :=
  ∀ (s : State) (u : Tid),
    ((flushStores s u).thread u).pend = [] ∧
    (∀ a, (∀ p ∈ (s.thread u).pend, p.load = none → ∀ e ∈ p.bytes, e.pa ≠ a) → memByte (flushStores s u).mem a = memByte s.mem a) ∧
    (∀ r, (∀ p ∈ (s.thread u).pend, ∀ n sg, p.load ≠ some (.x r n sg)) → (flushStores s u).getX u r = s.getX u r) ∧
    ((flushStores s u).thread u).pc = (s.thread u).pc ∧ ((flushStores s u).thread u).relCount = (s.thread u).relCount ∧
    ∀ w : Tid, w ≠ u → (flushStores s u).thread w = s.thread w

/-- 04 R102, R104, 03 R72: an SFP form that rounds writes its exact result rounded to F32, raises its flags and completes. -/
def FloatResult : Prop :=
  ∀ (s : State) (i : Instr) (d : Reg) (m : BitVec 3) (f : Mode → FVal × FlagSet), roundedSpec s i = some (d, m, f) →
    let p := sfpModeSpec s m
    let v := f p.1
    exec i s = .next (wrote (raiseFlags p.2 p.2.cur (v.2 ||| (roundTo fmtF32 p.1 v.1).2)) d (BitVec.ofNat 64 (roundTo fmtF32 p.1 v.1).1))

/-- 04 R103, R105: FMIN, FMAX and FCMP write the value that the order of F32 gives, raise NV as the rules say, and complete; comparison
codes 4 to 7 are no encodings, and FMIN and FMAX keep their reserved field zero. -/
def FloatOrder : Prop :=
  (∀ (s : State) (d x y : Reg) (c : BitVec 3),
    let a := (reg s x).toNat % 2 ^ 32
    let b := (reg s y).toNat % 2 ^ 32
    exec (.fmin d x y) s = .next (wrote (raiseFlags s s.cur (nvIf (snan32 a || snan32 b))) d (BitVec.ofNat 64 (minMax32 false a b))) ∧
    exec (.fmax d x y) s = .next (wrote (raiseFlags s s.cur (nvIf (snan32 a || snan32 b))) d (BitVec.ofNat 64 (minMax32 true a b))) ∧
    exec (.fcmp d x y c) s =
      .next (wrote (raiseFlags s s.cur (nvIf (cmp32 c.toNat a b).2)) d (if (cmp32 c.toNat a b).1 then 1 else 0))) ∧
  ∀ w : IWord, wordMajor w = 0x1D →
    (w.extractLsb' 0 4 = 0xA → 4 ≤ (w.extractLsb' 4 3).toNat → decode w = .error .illegal) ∧
    (w.extractLsb' 0 4 = 5 ∨ w.extractLsb' 0 4 = 6 → w.extractLsb' 4 3 ≠ 0 → decode w = .error .reservedField)

/-- 04 R104, 03 R70, R71: FCVT.W gives 0 and NV for a NaN, the bound and NV for what lies outside I32, else the rounded integer and NX
where that is inexact. -/
def FloatToInteger : Prop :=
  ∀ (s : State) (d a : Reg) (m : BitVec 3),
    let p := sfpModeSpec s m
    let v := decodeFloat fmtF32 ((reg s a).toNat % 2 ^ 32)
    let out (f : BitVec 7) (r : Int) := Host.Outcome.next (wrote (raiseFlags p.2 p.2.cur f) d (BitVec.ofInt 64 r))
    (∀ q, v = .nan q → exec (.fcvtW d a m) s = out 16 0) ∧
    (v = .inf false → exec (.fcvtW d a m) s = out 16 (2 ^ 31 - 1)) ∧ (v = .inf true → exec (.fcvtW d a m) s = out 16 (-2 ^ 31)) ∧
    (∀ neg k e, v = .fin neg k e →
      let r : Int := if neg then -(roundAt p.1 neg k e 0).1 else (roundAt p.1 neg k e 0).1
      (r < -2 ^ 31 → exec (.fcvtW d a m) s = out 16 (-2 ^ 31)) ∧ (2 ^ 31 ≤ r → exec (.fcvtW d a m) s = out 16 (2 ^ 31 - 1)) ∧
      (-2 ^ 31 ≤ r → r < 2 ^ 31 → exec (.fcvtW d a m) s = out (if (roundAt p.1 neg k e 0).2 then 1 else 0) r))

/-- 03 R68, R69: what each rounding mode makes of m ÷ 2^sh. -/
def RoundingModes : Prop :=
  ∀ (neg : Bool) (m sh draw : Nat), 0 < sh →
    (∀ md, (roundShift md neg m sh).2 = decide (m % 2 ^ sh ≠ 0)) ∧
    (let k := (roundShift .rne neg m sh).1
     2 * k * 2 ^ sh ≤ 2 * m + 2 ^ sh ∧ 2 * m ≤ 2 * k * 2 ^ sh + 2 ^ sh ∧
     (2 * k * 2 ^ sh = 2 * m + 2 ^ sh ∨ 2 * m = 2 * k * 2 ^ sh + 2 ^ sh → k % 2 = 0)) ∧
    (roundShift .rtz neg m sh).1 = m / 2 ^ sh ∧
    (roundShift .rdn neg m sh).1 = (if neg then (m + (2 ^ sh - 1)) / 2 ^ sh else m / 2 ^ sh) ∧
    (roundShift .rup neg m sh).1 = (if neg then m / 2 ^ sh else (m + (2 ^ sh - 1)) / 2 ^ sh) ∧
    (roundShift .rmm neg m sh).1 = (2 * m + 2 ^ sh) / 2 ^ (sh + 1) ∧
    (roundShift (.stochastic draw) neg m sh).1 = (m * 2 ^ 16 / 2 ^ sh + draw) / 2 ^ 16

/-- 03 R61, R63, R68, R70: rounding a finite value to any floating format. With the rounded multiple of the format's step within range the
result decodes to exactly that multiple, NX says whether it is inexact; beyond the range OF and NX are raised and the result is an infinity
or the largest magnitude as the mode says. -/
def RoundToFloat : Prop :=
  ∀ f ∈ floatFmts, ∀ (md : Mode) (neg : Bool) (m : Nat) (e : Int), m ≠ 0 → (∀ draw, md = .stochastic draw → draw < 2 ^ 16) →
    let base : Int := 1 - (f.bias : Int) - f.mbits
    let q := max ((m.log2 : Int) + e - f.mbits) base
    let k := roundAt md neg m e q
    let r := roundTo f md (.fin neg m e)
    (k.1 * 2 ^ (q - base).toNat ≤ maxUnits f →
      ∃ m' e', base ≤ e' ∧ decodeFloat f r.1 = .fin neg m' e' ∧ m' * 2 ^ (e' - base).toNat = k.1 * 2 ^ (q - base).toNat ∧
        bitOf r.2 0 = k.2 ∧ bitOf r.2 2 = false) ∧
    (maxUnits f < k.1 * 2 ^ (q - base).toNat →
      r.2 = 5 ∧
      r.1 = f.sign neg +
        (if f.ieee && !(md == .rtz || (md == .rdn && !neg) || (md == .rup && neg)) then f.infBits else f.maxBits))

/-- 03 R61, R71: every finite value of a format rounds to itself in every mode and raises nothing; every infinity and NaN of a format that
has them likewise, NaNs to the canonical one with NV where they signal. -/
def FormatValuesKept : Prop :=
  ∀ f ∈ floatFmts, ∀ (md : Mode) (v : Nat), v < 2 ^ f.width → (∀ draw, md = .stochastic draw → draw < 2 ^ 16) →
    (∀ n m e, decodeFloat f v = .fin n m e → roundTo f md (.fin n m e) = (v, 0)) ∧
    (∀ n, decodeFloat f v = .inf n → roundTo f md (.inf n) = (v, 0)) ∧
    (∀ g, decodeFloat f v = .nan g → roundTo f md (.nan g) = (f.nanBits, if g then 16 else 0))

/-- 03 R72, 04 R102: sums, products and fused sums of finite values are exact. -/
def ExactArithmetic : Prop :=
  ∀ (md : Mode) (na nb nc : Bool) (ma mb mc : Nat) (ea eb ec lo : Int), lo ≤ ea → lo ≤ eb → lo ≤ ec → lo ≤ ea + eb →
    (∃ n m e, addExact md (.fin na ma ea) (.fin nb mb eb) = (.fin n m e, 0) ∧ lo ≤ e ∧
      scaled n m e lo = scaled na ma ea lo + scaled nb mb eb lo) ∧
    mulExact (.fin na ma ea) (.fin nb mb eb) = (.fin (na != nb) (ma * mb) (ea + eb), 0) ∧
    (∃ n m e, fmaExact md (.fin na ma ea) (.fin nb mb eb) (.fin nc mc ec) = (.fin n m e, 0) ∧ lo ≤ e ∧
      scaled n m e lo = scaled (na != nb) (ma * mb) (ea + eb) lo + scaled nc mc ec lo)

/-- 04 R84, R85: the CSRs of the map are those that a thread of each kind may name. -/
def CsrMapped : Prop :=
  ∀ (u : Tid) (a : Nat), csrMarked u a = true ↔ ∃ r ∈ csrMap (isTaper u), r.addr = a ∧ r.marked u = true

/-- 04 R87, R88: a CSR instruction on a mapped CSR reads it with its side effects, writes where its form does and the value is legal, and
gives rd the old value. -/
def CsrResult : Prop :=
  ∀ (s s1 s2 : State) (i : Instr) (d : Reg) (c : BitVec 12) (f : Option (Word → Word)) (old : Word), csrSpec s i = some (d, c, f) →
    csrMarked s.cur c.toNat = true → csrRead s s.cur c.toNat = .ok (old, s1) →
    (f = none → exec i s = .next (wrote s1 d old)) ∧
    (∀ g, f = some g → c.toNat < 0x800 → csrSet s1 s.cur c.toNat (g old) = some s2 → exec i s = .next (wrote s2 d old))

/-- 04 R84, R88, 06 R131, 13 R303: where a CSR instruction traps: an address that its thread may not name, a write of a privileged CSR, a
value that the CSR refuses, a launch that fails its check. -/
def CsrTraps : Prop :=
  ∀ (s s1 : State) (i : Instr) (d : Reg) (c : BitVec 12) (f : Option (Word → Word)), csrSpec s i = some (d, c, f) →
    (csrMarked s.cur c.toNat = false → exec i s = .next (trap s s.cur .illegal (BitVec.ofNat 64 c.toNat))) ∧
    (csrMarked s.cur c.toNat = true → 0x800 ≤ c.toNat → f.isSome = true →
      exec i s = .next (trap s s.cur .protection (BitVec.ofNat 64 c.toNat))) ∧
    (∀ g old, csrMarked s.cur c.toNat = true → c.toNat < 0x800 → f = some g → csrRead s s.cur c.toNat = .ok (old, s1) →
      csrRefuses (isTaper s.cur) c.toNat (g old) = true → exec i s = .next (trap s s.cur .illegal (wordOf i))) ∧
    (∀ e, csrMarked s.cur c.toNat = true → c.toNat < 0x800 → csrRead s s.cur c.toNat = .error e →
      exec i s = .next (trap s s.cur e.1 e.2))

/-- 00 R5, R6, 04 R84, R85: a write changes exactly the writable bits of the CSR it names; a value is refused exactly where its rule says
so. -/
def CsrFieldwise : Prop :=
  ∀ (s s' : State) (u : Tid) (r : CsrRow) (v : Word), r ∈ csrMap (isTaper u) → r.marked u = true →
    (csrSet s u r.addr v = none ↔ csrRefuses (isTaper u) r.addr v = true) ∧
    (csrSet s u r.addr v = some s' →
      csrValue s' u r.addr = (csrValue s u r.addr &&& ~~~r.writable) ||| (v &&& r.writable) ∧
      (∀ q ∈ csrMap (isTaper u), q.addr ≠ r.addr → ¬(r.addr = 0x012 ∧ q.addr = 0x010) → csrValue s' u q.addr = csrValue s u q.addr))

/-- 04 R88, 16 R352: a read changes nothing but what its rule says: psstat's code and count go to zero; cpgo is the launch. -/
def CsrReadEffects : Prop :=
  ∀ (s : State) (u : Tid) (a : Nat), a ≠ 0x10F →
    (a ≠ 0x143 → csrRead s u a = .ok (csrValue s u a, s)) ∧
    (∃ t, csrRead s u 0x143 = .ok (csrValue s u 0x143, t) ∧ csrValue t u 0x143 = 0 ∧
      t.thread u = { s.thread u with psCode := 0, psFails := 0 })

/-- 13 R302, R303, 14 R315, 16 R352: CPGO and PSSTAT_READ. A legal set-up joins the channel's queue and rd receives its identifier, the
thread's earlier stores performed; a channel that is full or holds an error gives 0; an illegal set-up traps; a read of psstat gives its
code and count and clears them. -/
def LaunchRead : Prop :=
  ∀ (s : State) (d : Reg),
    let th := s.thread s.cur
    let q := (s.core s.cur.gang s.cur.core).chans[th.copy.ch.toFin]
    (th.copy.check = none → q.queue.length < 16 → q.error = none →
      ∃ t c, exec (.cpgo d) s = .next t ∧ exec (.csrr d 0x10F) s = .next t ∧
        Holds s.cur t d (BitVec.ofNat 64 (th.copy.ch.toNat * 2 ^ 14 + (nextSeq q.seq).toNat)) ∧
        (t.core s.cur.gang s.cur.core).chans[th.copy.ch.toFin].queue = q.queue ++ [c] ∧ c.setup = th.copy ∧ c.id = th.copy.ch ++ nextSeq q.seq ∧
        (t.core s.cur.gang s.cur.core).chans[th.copy.ch.toFin].seq = nextSeq q.seq ∧
        (t.thread s.cur).pend = [] ∧ t.mem = (flushStores s s.cur).mem ∧ OtherRegs s.cur d (flushStores s s.cur) t ∧ MovedOn s.cur s t) ∧
    (th.copy.check = none → (16 ≤ q.queue.length ∨ q.error ≠ none) → exec (.cpgo d) s = .next (wrote s d 0)) ∧
    (∀ e, th.copy.check = some e → exec (.cpgo d) s = .next (trap s s.cur e.1 e.2)) ∧
    (∃ t, exec (.psstatRead d) s = .next t ∧ Holds s.cur t d (csrValue s s.cur 0x143) ∧ csrValue t s.cur 0x143 = 0 ∧
      OtherRegs s.cur d s t ∧ OnlyThread s.cur s t ∧ MovedOn s.cur s t)

end Sys2Proof.Claims
end

