-- ==== Sys2Proof/Claims/ThreadRules.lean ====
section
/-! DEFINITION. Rules of 05, 06 and 18 about traps, wicks and the set-up of a sweep, as propositions of which the statements are made. -/

namespace Sys2Proof.Claims

open Sys2Proof.Machine

/-- 02 R51, 18 R386: a wick's trap. Its context records the address, the cause and the value, it is faulted and its fault unreported, its
queue and registers stay, and its taper's event flag is set; nothing in memory changes. -/
def WickTrap : Prop :=
  ∀ (s : State) (g c : Nat) (w : Fin 8) (e : Cause) (v : Word), holdsJoined s g c w = false →
    let t := trap s ⟨g, c, .wick w⟩ e v
    let W := s.wick g c w
    t.wick g c w =
      { W with
        tepc := W.pc, code := e.code, tval := v, reported := false, state := .faulted W.isFree, vmem := none, fetch := none
        th := { W.th with wait := none } } ∧
    (t.core g c).taper = { (s.core g c).taper with th := { (s.core g c).taper.th with event := true } } ∧
    (∀ k, k ≠ w → t.wick g c k = s.wick g c k) ∧ t.mem = s.mem ∧ t.vfs = s.vfs

/-- 18 R385: a taper's trap with a handler and none active, and its frame. -/
def TaperTrapTaken : Prop :=
  ∀ (s : State) (g c : Nat) (e : Cause) (v : Word),
    (s.core g c).taper.act = false → (s.core g c).taper.tvec ≠ 0 →
    let T := (s.core g c).taper
    let t := trap s ⟨g, c, .taper⟩ e v
    (t.core g c).taper =
      { T with
        tepc := T.th.pc, tval := v, code := e.code, ev := false, evWick := 0, disp := 0, act := true
        th := { T.th with pc := BitVec.ofNat 64 (T.tvec.toNat * 4), wait := none } } ∧
    OnlyThread ⟨g, c, .taper⟩ s t ∧ (∀ r, t.getX ⟨g, c, .taper⟩ r = s.getX ⟨g, c, .taper⟩ r) ∧ t.mem = s.mem

/-- 01 R26, 18 R385, 17 R367: a trap of a taper whose handler is active, or that has none, is a double trap: the taper halts, every wick of
its core that is not stopped is idle with an empty queue, and the gang's record carries dcode 35, the first cause and its core. -/
def DoubleTrapHalts : Prop :=
  ∀ (s : State) (g c : Nat) (e : Cause) (v : Word),
    ((s.core g c).taper.act = true ∨ (s.core g c).taper.tvec = 0) →
    let t := trap s ⟨g, c, .taper⟩ e v
    (t.core g c).taper.run = .halted ∧ (t.gang g).dcode = 35 ∧
    ((s.gang g).ndouble = 0 → (t.gang g).dcause = e.code ∧ (t.gang g).dcore = BitVec.ofNat 8 c) ∧
    (∀ w, (t.wick g c w).queue = [] ∧ ((t.wick g c w).state = .idle ∨ (t.wick g c w).state = .stopped)) ∧ t.mem = s.mem

/-- 02 R46, R47, 04 R96, 18 R389: ECALL, EBREAK without an armed debugger, a word without an encoding and a word with a reserved field set
raise their traps with their values; EBREAK with an unlocked, armed port stops the gang; a failed fetch traps with its cause at the
address, with the fault record of a failed translation or of the host's refusal (08 R209). -/
def TrapInstructions : Prop :=
  ∀ (s : State) (w : IWord) (e : Cause) (va : Word),
    exec .ecall s = .next (trap s s.cur .ecall 0) ∧
    (¬(s.root.unlocked = true ∧ s.root.armed = true) → exec .ebreak s = .next (trap s s.cur .ebreak 0)) ∧
    (s.root.unlocked = true → s.root.armed = true →
      ∃ t, exec .ebreak s = .next t ∧ (t.gang s.cur.gang).debugStop = true ∧ t.thread s.cur = s.thread s.cur) ∧
    exec (.illegalEncoding w) s = .next (trap s s.cur .illegal (BitVec.ofNat 64 w.toNat)) ∧
    exec (.reservedFieldWord w) s = .next (trap s s.cur .reservedField (BitVec.ofNat 64 w.toNat)) ∧
    (∀ f p s1, translate s (s.pcoreNum s.cur) (s.vfOf s.cur) va .fetch true = (.fail f p, s1) →
      exec (.instructionFetchFault e va) s = .next (trapXlat s1 s.cur e va .fetch p)) ∧
    (∀ x s1, translate s (s.pcoreNum s.cur) (s.vfOf s.cur) va .fetch true = (.ok x, s1) →
      (e ≠ .protection → exec (.instructionFetchFault e va) s = .next (trap s s.cur e va)) ∧
      (e = .protection →
        exec (.instructionFetchFault e va) s = .next (trapXlat s1 s.cur e va .fetch { ipa := x.ipa, place := 0 })))

/-- 02 R51, 09 R218, R221: a translation that fails for a thread traps it and leaves one fault record at the end of its VF's records. -/
def TranslationTrap : Prop :=
  ∀ (s : State) (u : Tid) (e : Cause) (va : Word) (k : Kind) (p : FaultPlace),
    let t := trapXlat s u e va k p
    t.gangs = (trap s u e va).gangs ∧ t.mem = (trap s u e va).mem ∧
    (t.vf (s.vfOf u)).faults = (s.vf (s.vfOf u)).faults ++
      [{ va := va, ipa := p.ipa, gtag := (s.gang u.gang).desc.gtag, core := BitVec.ofNat 8 u.core, who := whoByte u.who false,
         cause := e.code, kind := BitVec.ofNat 8 k.num, place := p.place }]

/-- 18 R387, R390: TRAPRET. -/
def TrapReturn : Prop :=
  ∀ (s : State), 
    let T := s.curCore.taper
    let W := s.curWick T.evWick
    (s.cur.who ≠ .taper ∨ T.act = false → exec .trapret s = .next (trap s s.cur .illegal 0x80000002)) ∧
    (s.cur.who = .taper → T.act = true → T.ev = false → T.tepc.toNat % 4 ≠ 0 →
      exec .trapret s = .next (trap s s.cur .misaligned T.tepc)) ∧
    (s.cur.who = .taper → T.act = true → T.ev = false → T.tepc.toNat % 4 = 0 →
      ∃ t, exec .trapret s = .next t ∧
        t.curCore.taper = { T with act := false, th := { T.th with pc := T.tepc, wait := none } } ∧ OnlyThread s.cur s t) ∧
    (s.cur.who = .taper → T.act = true → T.ev = true → T.disp = 3 → exec .trapret s = .next (trap s s.cur .illegal 0x80000002)) ∧
    (s.cur.who = .taper → T.act = true → T.ev = true → T.disp ≠ 3 →
      ∃ t, exec .trapret s = .next t ∧
        t.curCore.taper = { T with ev := false, act := false, th := { T.th with pc := T.hidden, wait := none } } ∧
        (T.disp = 0 → ∀ back, W.state = .faulted back →
          t.curWick T.evWick = { W with state := if back then .freeRunning else .blockDriven }) ∧
        (T.disp = 1 → ∀ back, W.state = .faulted back → t.curWick T.evWick = ({ W with vstart := 0 } : Wick).completed) ∧
        (T.disp = 2 → ∀ back, W.state = .faulted back →
          t.curWick T.evWick = { W with queue := [], vstart := 0, state := .idle, vmem := none }) ∧
        t.mem = s.mem)

/-- 01 R26, 18 R391, R392: HALT and WFE, and the events by which they end. -/
def HaltAndWait : Prop :=
  ∀ (s : State) (u : Tid) (g c : Nat),
    (s.cur.who = .taper → (s.thread s.cur).pend = [] →
      ∃ t, exec .halt s = .next t ∧ (t.core s.cur.gang s.cur.core).taper.run = .halted ∧ t.mem = s.mem) ∧
    (s.cur.who = .taper → (s.thread s.cur).pend ≠ [] →
      ∃ t, exec .halt s = .next t ∧ (t.thread s.cur).wait = some .halt ∧ SameRegs s.cur s t) ∧
    (s.cur.who ≠ .taper → exec .halt s = .next (trap s s.cur .illegal 0x80000004)) ∧
    ((s.core g c).taper.th.wait = some .halt → (s.core g c).taper.th.pend = [] →
      ∃ t, exec (.haltRetire g c) s = .next t ∧ (t.core g c).taper.run = .halted ∧ t.mem = s.mem) ∧
    ((s.thread s.cur).event = true →
      ∃ t, exec .wfe s = .next t ∧ (t.thread s.cur).event = false ∧ SameRegs s.cur s t ∧ MovedOn s.cur s t) ∧
    ((s.thread s.cur).event = false → exec .wfe s = .next (s.setWait s.cur (.wfe s.ac))) ∧
    (∀ since, (s.thread u).wait = some (.wfe since) → (s.thread u).event = true →
      ∃ t, exec (.wfeWake u) s = .next t ∧ (t.thread u).event = false ∧ SameRegs u s t ∧ MovedOn u s t) ∧
    (∀ since, (s.thread u).wait = some (.wfe since) → 65536 ≤ s.ac - since → exec (.wfeTimeout u) s = .next (s.done u))

/-- 18 R386: the taper takes the lowest-numbered unreported wick fault: the registers that it writes, and the record of a BAR or STEP
arrival that it abandons. -/
def WickEventTaken : Prop :=
  ∀ (s : State) (g c : Nat) (w : Fin 8),
    let T := (s.core g c).taper
    let W := s.wick g c w
    T.run = .running → T.act = false → T.tvec ≠ 0 → (∃ b, W.state = .faulted b) → W.reported = false →
    (∀ k : Fin 8, k < w → (∃ b, (s.wick g c k).state = .faulted b) → (s.wick g c k).reported = true) →
    ∃ t, exec (.wickEvent g c) s = .next t ∧
      (t.core g c).taper =
        { T with
          hidden := T.th.pc, tepc := W.tepc, tval := W.tval, code := W.code, evWick := w, ev := true, disp := 0, act := true
          arrival := if T.th.wait.any Wait.arrives then some T.th.pc else T.arrival
          th := { T.th with pc := BitVec.ofNat 64 (T.tvec.toNat * 4), wait := none } } ∧
      t.wick g c w = { W with reported := true } ∧ (∀ k, k ≠ w → t.wick g c k = s.wick g c k) ∧ t.mem = s.mem

/-- 05 R114, R117, R118: BCAST. A zero mask skips the block; a full window makes the taper wait; otherwise the fetched words join the window
for the wicks of the mask and the taper goes on after them; a failed fetch is the step's outcome. -/
def Broadcast : Prop :=
  ∀ (s s1 : State) (r : Reg) (n : BitVec 3) (m : BitVec 8) (ws : List IWord),
    let mask := if r = 0 then m else m &&& (reg s r).setWidth 8
    let after := pcPlus s (n.toNat + 2)
    (s.cur.who = .taper → mask = 0 → exec (.bcast r n m) s = .next (s.jump s.cur after)) ∧
    (s.cur.who = .taper → mask ≠ 0 → 4 ≤ s.curCore.window.length → exec (.bcast r n m) s = .next (s.setWait s.cur .bcast)) ∧
    (s.cur.who = .taper → mask ≠ 0 → s.curCore.window.length < 4 →
      fetchBlock s s.cur (pcPlus s 1) (n.toNat + 1) [] = .words ws s1 →
      ∃ t, exec (.bcast r n m) s = .next t ∧ ws.length = n.toNat + 1 ∧
        t.curCore.window =
          s.curCore.window ++ [{ block := { base := pcPlus s 1, words := ws, pos := 0 }, left := mask, refused := [] }] ∧
        (t.thread s.cur).pc = after ∧ (t.thread s.cur).wait = none ∧ (t.thread s.cur).pend = [] ∧ SameRegs s.cur (flushStores s1 s.cur) t) ∧
    (s.cur.who = .taper → mask ≠ 0 → s.curCore.window.length < 4 →
      fetchBlock s s.cur (pcPlus s 1) (n.toNat + 1) [] = .stop s1 → exec (.bcast r n m) s = .next s1) ∧
    (s.cur.who ≠ .taper → exec (.bcast r n m) s = .next (trap s s.cur .illegal (wordOf (.bcast r n m))))

/-- 05 R116: a block counts in its wick's queue until its last instruction has started: the one that executes has, and so has one that waits
after it has begun: a FENCE, a CPDRAIN, a STOP, and a slot instruction that has issued (log 45). -/
def BlocksCounted : Prop :=
  ∀ (W : Wick) (b : Block) (q : List Block) (e : Bool), (W.blocksHeld e = 0 ↔ W.queue = [] ∨
      (∃ b, W.queue = [b] ∧ W.isFree = false ∧ b.words.length ≤ b.pos + 1 ∧ (e = true ∨ W.hasStarted = true))) ∧
    (W.queue = b :: q → W.blocksHeld e = q.length ∨ W.blocksHeld e = q.length + 1) ∧
    (W.queue = b :: q → b.pos + 1 < b.words.length → W.blocksHeld e = q.length + 1) ∧
    (W.queue = b :: q → W.isFree = true → W.blocksHeld e = q.length + 1) ∧
    (W.hasStarted = true ↔ ∃ x, W.th.wait = some x ∧ (x.started = true ∨ W.fetch ≠ none ∨ W.vmem ≠ none)) ∧
    (∀ sc x y d k m r c i n, Wait.started (.fence sc x y) = true ∧ Wait.started (.cpdrain d k m) = true ∧ Wait.started (.stop c) = true ∧
      Wait.started .vmem = true ∧ Wait.started (.mwait n) = true ∧ Wait.started (.joint i) = true ∧ Wait.started .tile = true ∧
      Wait.started .bcast = false ∧ Wait.started (.wfe r) = false)

/-- 01 R18, 05 R114, R115: the first windowed block for a wick is accepted whole or refused by a queue of four; a replay, once a refusal has
waited bcbackoff.count + 1 ac, delivers every windowed block for the wick in order when the queue has room. -/
def BlockDelivery : Prop :=
  ∀ (s : State) (g c : Nat) (w : Fin 8) (pre post : List WinBlock) (b : WinBlock),
    (s.core g c).window = pre ++ b :: post → (∀ x ∈ pre, bitOf x.left w.val = false) → bitOf b.left w.val = true →
    (tabGet? b.refused w.val = none → (s.wick g c w).blocksHeld false < 4 →
      ∃ t, exec (.blockDelivery g c w) s = .next t ∧ (t.wick g c w).queue = (s.wick g c w).queue ++ [b.block] ∧
        (t.wick g c w).th.event = true ∧
        ((s.wick g c w).state = .idle ∨ (s.wick g c w).state = .stopped → (t.wick g c w).state = .blockDriven) ∧
        (t.core g c).window = pre ++ (if setBit b.left w.val false = 0 then [] else [{ b with left := setBit b.left w.val false }]) ++ post) ∧
    (tabGet? b.refused w.val = none → 4 ≤ (s.wick g c w).blocksHeld false →
      ∃ t, exec (.blockDelivery g c w) s = .next t ∧ t.wick g c w = s.wick g c w ∧
        (t.core g c).window = pre ++ { b with refused := tabPut b.refused w.val s.ac } :: post) ∧
    (∀ a, tabGet? b.refused w.val = some a → a + (s.core g c).bcbackoff.toNat + 1 ≤ s.ac →
      (s.wick g c w).queue.length + ((b :: post).filter fun x => bitOf x.left w.val).length ≤ 4 →
      ∃ t, exec (.bcastReplay g c w) s = .next t ∧
        (t.wick g c w).queue = (s.wick g c w).queue ++ ((b :: post).filter fun x => bitOf x.left w.val).map (·.block) ∧
        ∀ x ∈ (t.core g c).window, bitOf x.left w.val = false) ∧
    ((∀ x ∈ (s.core g c).window, ∀ a, tabGet? x.refused w.val = some a → s.ac < a + (s.core g c).bcbackoff.toNat + 1) →
      exec (.bcastReplay g c w) s = .next s)

/-- 05 R119: BFETCH. -/
def FreeRun : Prop :=
  ∀ (s : State) (a : Reg) (o : BitVec 12) (w : Fin 8),
    let target : Word := BitVec.ofInt 64 ((reg s a).toInt + 4 * o.toInt)
    (s.cur.who = .wick w → target.toNat % 4 = 0 →
      ∃ t, exec (.bfetch a o) s = .next t ∧ (t.curWick w).state = .freeRunning ∧ (t.curWick w).th.pc = target ∧
        (t.curWick w).queue = (if (s.curWick w).isFree then (s.curWick w).queue else (s.curWick w).queue.tail) ∧
        SameRegs s.cur s t ∧ OnlyScalar s.cur s t) ∧
    (s.cur.who = .wick w → target.toNat % 4 ≠ 0 → exec (.bfetch a o) s = .next (trap s s.cur .misaligned target)) ∧
    (s.cur.who = .taper → exec (.bfetch a o) s = .next (trap s s.cur .illegal (wordOf (.bfetch a o))))

/-- 01 R18, R19, 05 R120: STOP, and its completion once the wick's earlier stores are performed. -/
def StopRecorded : Prop :=
  ∀ (s : State) (g c : Nat) (w : Fin 8) (code other : BitVec 8),
    let stopped (t : State) (W : Wick) :=
      (t.wick g c w).stopcode = code ∧ (t.wick g c w).stopPend = true ∧ (t.core g c).taper.th.event = true ∧
      (W.isFree = true → (t.wick g c w).state = (if W.queue = [] then .stopped else .blockDriven) ∧ (t.wick g c w).queue = W.queue) ∧
      (W.isFree = false → (t.wick g c w).queue = W.completed.queue ∧ (t.wick g c w).state = W.completed.state) ∧
      (t.wick g c w).th.x = W.th.x ∧ t.mem = s.mem
    (s.cur = ⟨g, c, .wick w⟩ → (s.wick g c w).th.pend = [] →
      ∃ t, exec (.stop code) s = .next t ∧ stopped t (s.wick g c w)) ∧
    (s.cur = ⟨g, c, .wick w⟩ → (s.wick g c w).th.pend ≠ [] → exec (.stop code) s = .next (s.setWait s.cur (.stop code))) ∧
    (s.cur.who = .taper → exec (.stop code) s = .next (trap s s.cur .illegal (wordOf (.stop code)))) ∧
    ((s.wick g c w).th.wait = some (.stop code) → (s.wick g c w).th.pend = [] →
      ∃ t, exec (.stopEvent g c w other) s = .next t ∧ stopped t (s.wick g c w))

/-- 05 R121, 14 R316, 04 R101: WJOIN returns when every named wick is quiescent with no block outstanding: rd receives the stopped ones, the
named wicks' stores are performed and the core's scalar data cache is empty; otherwise it waits, and its return event does the same. -/
def Join : Prop :=
  ∀ (s : State) (d a : Reg) (m : BitVec 8) (g c : Nat),
    let mask := if a = 0 then m else m &&& (reg s a).setWidth 8
    let ready (C : Core) (k : BitVec 8) :=
      ∀ w : Fin 8, bitOf k w.val = true → C.wicks[w].quiescent = true ∧ ∀ b ∈ C.window, bitOf b.left w.val = false
    let returned (t : State) (u : Tid) (C : Core) (k : BitVec 8) :=
      (∃ v : Word, Holds u t d v ∧ ∀ w : Fin 8,
        bitOf v w.val = (bitOf k w.val && C.wicks[w].state == .stopped && C.wicks[w].stopPend)) ∧
      (∀ w : Fin 8, bitOf k w.val = true → (t.wick u.gang u.core w).th.pend = []) ∧
      (t.pcoreOf (s.pcoreNum u)).dcache = [] ∧ OtherRegs u d s t ∧ MovedOn u s t
    (s.cur.who = .taper → ready s.curCore mask → ∃ t, exec (.wjoin d a m) s = .next t ∧ returned t s.cur s.curCore mask) ∧
    (s.cur.who = .taper → ¬ready s.curCore mask → exec (.wjoin d a m) s = .next (s.setWait s.cur (.wjoin d mask))) ∧
    (s.cur.who ≠ .taper → exec (.wjoin d a m) s = .next (trap s s.cur .illegal (wordOf (.wjoin d a m)))) ∧
    (∀ k, (s.core g c).taper.th.wait = some (.wjoin d k) → ready (s.core g c) k →
      ∃ t, exec (.wjoinReturn g c) s = .next t ∧ returned t ⟨g, c, .taper⟩ (s.core g c) k)

/-- 02 R52, 05 R122: XLINK, in a wick, in the taper and for whole vector registers, which ends with vstart 0. -/
def CrossLink : Prop :=
  ∀ (s : State) (d a : Reg) (n : BitVec 3) (w : Fin 8),
    let linked := s.curWick (fin8 (w.val + 1))
    (s.cur.who = .wick w → exec (.xlink d a) s = .next (wrote s d (linked.th.getX a))) ∧
    (s.cur.who = .taper → exec (.xlink d a) s = .next (wrote s d ((s.curWick 0).th.getX a))) ∧
    (s.cur.who = .taper → exec (.xlinkTaper d a n) s = .next (wrote s d ((s.curWick (fin8 n.toNat)).th.getX a))) ∧
    (s.cur.who = .wick w → (s.curWick w).split = linked.split →
      ∃ t, exec (.xlinkV d a) s = .next t ∧
        t.curWick w = ((((s.curWick w).setReg ((s.curWick w).rotate d.toNat) (linked.reg (linked.rotate a.toNat))
          (s.curWick w).regBits).wholeRow ((s.curWick w).rotate d.toNat)).swept 0 false).completed ∧
        (∀ k, k ≠ w → t.curWick k = s.curWick k) ∧ t.mem = s.mem) ∧
    (s.cur.who = .wick w → (s.curWick w).split ≠ linked.split →
      exec (.xlinkV d a) s = .next (trap s s.cur .illegal (wordOf (.xlinkV d a)))) ∧
    (s.cur.who = .taper → exec (.xlinkV d a) s = .next (trap s s.cur .illegal (wordOf (.xlinkV d a))))

/-- 05 R111, R123, R124: YIELD, the two status words of WSTAT and their clearing, and the choice of the issue slot, once in an ac
(the chosen wick's turn comes first on the agenda: log 1; a block whose last instruction has started counts no longer: log 45). -/
def SlotAndStatus : Prop :=
  ∀ (s : State) (d : Reg) (clr : BitVec 1) (g c : Nat) (w : Fin 8),
    (s.cur.who = .taper → exec .yield s = .next (s.done s.cur)) ∧
    (s.cur.who = .wick w →
      ∃ t, exec .yield s = .next t ∧ t.curCore.issue = s.curCore.issue.toYoungest w ∧ SameRegs s.cur s t ∧ MovedOn s.cur s t) ∧
    (∃ t v, exec (.wstat d clr (BitVec.ofNat 4 w.val)) s = .next t ∧ Holds s.cur t d v ∧
      v.extractLsb' 56 8 = (s.curWick w).stopcode ∧ v.extractLsb' 48 8 = (if (s.curWick w).isFaulted then (s.curWick w).code else 0) ∧
      v.extractLsb' 12 36 = 0 ∧ bitOf v 11 = inWindow s.curCore w ∧ bitOf v 10 = (s.curWick w).stopPend ∧ v.extractLsb' 7 3 = 0 ∧
      v.extractLsb' 4 3 = BitVec.ofNat 3 ((s.curWick w).blocksHeld (s.cur.who == .wick w)) ∧ bitOf v 3 = false ∧
      v.extractLsb' 0 3 = (s.curWick w).state.num ∧
      (t.curWick w).stopPend = (if clr = 1 then false else (s.curWick w).stopPend) ∧ MovedOn s.cur s t) ∧
    (∃ t v, exec (.wstat d clr 8) s = .next t ∧ Holds s.cur t d v ∧
      bitOf v (40 + w.val) = inWindow s.curCore w ∧ bitOf v (32 + w.val) = (s.curWick w).isStalled ∧
      bitOf v (24 + w.val) = ((s.curWick w).state == .freeRunning) ∧ bitOf v (16 + w.val) = (s.curWick w).stopPend ∧
      bitOf v (8 + w.val) = (s.curWick w).isFaulted ∧ bitOf v w.val = (s.curWick w).quiescent ∧ v.extractLsb' 48 16 = 0 ∧
      (t.curWick w).stopPend = (if clr = 1 then false else (s.curWick w).stopPend) ∧ MovedOn s.cur s t) ∧
    ((s.core g c).issue.issuedAt = some s.ac → exec (.slotIssue g c) s = .next s) ∧
    (∀ pre post, (s.core g c).issue.issuedAt ≠ some s.ac → (s.core g c).issue.rr = false → (s.core g c).issue.age = pre ++ w :: post →
      (∀ k ∈ pre, slotReady s g c k = false) → slotReady s g c w = true →
      (∀ k, (s.core g c).issue.greedy = some k → slotReady s g c k = false) →
      exec (.slotIssue g c) s = .next { s with agenda := { ac := 0, perf := [], move := .thread ⟨g, c, .wick w⟩ } :: s.agenda }) ∧
    ((s.core g c).issue.issuedAt ≠ some s.ac → (s.core g c).issue.rr = false → (s.core g c).issue.greedy = some w → slotReady s g c w = true →
      exec (.slotIssue g c) s = .next { s with agenda := { ac := 0, perf := [], move := .thread ⟨g, c, .wick w⟩ } :: s.agenda }) ∧
    (∀ k, (s.core g c).issue.issuedAt ≠ some s.ac → (s.core g c).issue.rr = true → 1 ≤ k → k ≤ 8 → w = fin8 ((s.core g c).issue.last.val + k) →
      (∀ j, 1 ≤ j → j < k → slotReady s g c (fin8 ((s.core g c).issue.last.val + j)) = false) → slotReady s g c w = true →
      exec (.slotIssue g c) s = .next { s with agenda := { ac := 0, perf := [], move := .thread ⟨g, c, .wick w⟩ } :: s.agenda })

/-- 05 R111, 22 R429: an issue makes its wick greedy and counts it, the 16th in a row moves it; the moves of an ac take effect at its end, in
ascending wick number, each to the last place of the age order and out of greedy. -/
def IssueMoves : Prop :=
  ∀ (I : Issue) (w : Fin 8) (ac : Nat),
    let n := if I.greedy = some w then I.count + 1 else 1
    let J := I.note w ac
    let moved (k : Fin 8) := bitOf I.moves k.val
    J.greedy = some w ∧ J.count = n ∧ J.last = w ∧ J.issuedAt = some ac ∧ J.age = I.age ∧ J.rr = I.rr ∧
    (∀ k : Fin 8, bitOf J.moves k.val = (moved k || (k == w && decide (16 ≤ n)))) ∧
    I.settle.age = I.age.filter (fun k => !moved k) ++ (List.finRange 8).filter moved ∧ I.settle.moves = 0 ∧
    I.settle.greedy = (match I.greedy with | some k => if moved k then none else some k | none => none) ∧
    I.settle.last = I.last ∧ I.settle.issuedAt = I.issuedAt

/-- 06 R147, R148, 04 R101: STRIP grants the lesser of its count and the row capacity, steps the named pointers past the elements of the
ended strip, and clears vstart; STRIP.W does so once the watermark has reached its bound, gives the bound, and is an acquire. -/
def StripGranted : Prop :=
  ∀ (s : State) (d a : Reg) (mask : BitVec 4) (v : BitVec 1) (slot : BitVec 12) (w : Fin 8) (u : Tid),
    let W := s.curWick w
    let g := min (reg s a).toNat W.cap
    let bound := reg s d + BitVec.ofNat 64 g
    let stepped (T W : Wick) (mask : BitVec 4) :=
      ∀ n : Fin 4, T.ap[n] =
        if bitOf mask n.val = true ∧ W.apEsz[n] ≠ 0 then
          W.ap[n] + BitVec.ofNat 64 ((W.vl.toNat * 2 ^ W.apEsz[n].toNat + 7) / 8) else W.ap[n]
    let granted (W T : Wick) (g : Nat) := T.vl = BitVec.ofNat 16 g ∧ T.vstart = 0 ∧ T.rows = W.rows
    let acquired (t : State) (u : Tid) :=
      (t.pcoreOf (s.pcoreNum u)).dcache = [] ∧ ∃ s', s'.mem = s.mem ∧ (∀ v : Tid, v ≠ u → s'.thread v = s.thread v) ∧ t.mem = (acquire s' u 3).mem
    (s.cur.who = .wick w →
      ∃ t, exec (.strip d a mask) s = .next t ∧ Holds s.cur t d (BitVec.ofNat 64 g) ∧ OtherRegs s.cur d s t ∧ MovedOn s.cur s t ∧
        stepped (t.curWick w) W mask ∧ granted W (t.curWick w) g ∧ t.mem = s.mem ∧ OnlyThread s.cur s t) ∧
    (s.cur.who = .wick w → slotHeld s (s.vfOf s.cur) slot.toNat = true → reaches (markOf s slot.toNat) bound = true →
      ∃ t, exec (.stripW d a v slot) s = .next t ∧ Holds s.cur t d bound ∧ OtherRegs s.cur d s t ∧ MovedOn s.cur s t ∧
        stepped (t.curWick w) W (if v = 1 then 15 else 0) ∧ granted W (t.curWick w) g ∧ acquired t s.cur) ∧
    (s.cur.who = .wick w → slotHeld s (s.vfOf s.cur) slot.toNat = true → reaches (markOf s slot.toNat) bound = false →
      exec (.stripW d a v slot) s = .next (s.setWait s.cur (.stripW d a slot.toNat (v == 1)))) ∧
    (s.cur.who = .wick w → slotHeld s (s.vfOf s.cur) slot.toNat = false →
      exec (.stripW d a v slot) s = .next (trap s s.cur .protection (BitVec.ofNat 64 slot.toNat))) ∧
    (∀ xd xn k adv, u.who = .wick w → (s.thread u).wait = some (.stripW xd xn k adv) →
      let V := s.wick u.gang u.core w
      let h := min (s.getX u xn).toNat V.cap
      reaches (markOf s k) (s.getX u xd + BitVec.ofNat 64 h) = true →
      ∃ t, exec (.stripWReturn u) s = .next t ∧ Holds u t xd (s.getX u xd + BitVec.ofNat 64 h) ∧ OtherRegs u xd s t ∧ MovedOn u s t ∧
        stepped (t.wick u.gang u.core w) V (if adv then 15 else 0) ∧ granted V (t.wick u.gang u.core w) h ∧ acquired t u)

/-- 06 R130, R131, R139, R149, R150: VSETT sets the rows, the type and the length of the sweep; VSETT.AP exchanges an address pointer. -/
def VectorSetup : Prop :=
  ∀ (s : State) (d a : Reg) (g : BitVec 2) (ta : BitVec 1) (m e : BitVec 3) (n : BitVec 2) (w : Fin 8), s.cur.who = .wick w →
    (∃ t, exec (.vsett d a g ta m e) s = .next t ∧
      (let T := t.curWick w
       T.vrows.toNat = 2 ^ g.toNat ∧ T.th.vtype.toNat = ta.toNat * 128 + m.toNat * 16 + e.toNat ∧ T.vstart = 0 ∧
       T.vrot = (if (s.curWick w).vrows.toNat = 2 ^ g.toNat then (s.curWick w).vrot else 0) ∧
       T.vl = BitVec.ofNat 16 (min (if a = 0 then (s.curWick w).vl.toNat else (reg s a).toNat)
         (min (32 * 2 ^ (s.curWick w).vlcapLg.toNat) (if (s.curWick w).split then 32768 else 65536) / etBits e.toNat)) ∧
       Holds s.cur t d (BitVec.ofNat 64 (min (if a = 0 then (s.curWick w).vl.toNat else (reg s a).toNat)
         (min (32 * 2 ^ (s.curWick w).vlcapLg.toNat) (if (s.curWick w).split then 32768 else 65536) / etBits e.toNat))) ∧
       T.rows = (s.curWick w).rows) ∧ OtherRegs s.cur d s t ∧ MovedOn s.cur s t ∧ OnlyThread s.cur s t) ∧
    (∃ t, exec (.vsettAp d a n) s = .next t ∧ (t.curWick w).ap = (s.curWick w).ap.set n.toFin (reg s a) ∧
      Holds s.cur t d (s.curWick w).ap[n.toFin] ∧ OtherRegs s.cur d s t ∧ MovedOn s.cur s t ∧ OnlyThread s.cur s t)

/-- 06 R145, R151: VMODE inverts the mode and gives it, sets vrot and vstart to 0 and vl to min(vl, C) under the new mode, and marks every row
dirty with the whole row as its extent; masks, pointers and accumulators stay; a wick that owns a valid window traps with the lowest one.
The contents of the rows are the free values of log 6. -/
def ModeToggled : Prop :=
  ∀ (s : State) (d : Reg) (w : Fin 8), s.cur.who = .wick w →
    let W := s.curWick w
    ((∀ n : Fin 8, ¬(s.curCore.windows[n].valid = true ∧ s.curCore.windows[n].owner = w)) →
      ∃ t, exec (.vmode d) s = .next t ∧ (t.curWick w).split = !W.split ∧ (t.curWick w).vrot = 0 ∧ (t.curWick w).vstart = 0 ∧
        (t.curWick w).vl =
          BitVec.ofNat 16 (min W.vl.toNat (min (32 * 2 ^ W.vlcapLg.toNat) (if W.split then 65536 else 32768) / etBits (W.th.vtype.toNat % 8))) ∧
        (t.curWick w).dirty = BitVec.allOnes 32 ∧ (∀ j, j < 32 → tabGet 0 (t.curWick w).extent j = 128) ∧
        (t.curWick w).masks = W.masks ∧ (t.curWick w).ap = W.ap ∧ (t.curWick w).th.vtype = W.th.vtype ∧ (t.curWick w).vrows = W.vrows ∧
        Holds s.cur t d (if W.split then 0 else 1) ∧ OtherRegs s.cur d s t ∧ MovedOn s.cur s t ∧ t.mem = s.mem) ∧
    (∀ n : Fin 8, s.curCore.windows[n].valid = true → s.curCore.windows[n].owner = w →
      (∀ k : Fin 8, k < n → ¬(s.curCore.windows[k].valid = true ∧ s.curCore.windows[k].owner = w)) →
      exec (.vmode d) s = .next (trap s s.cur .illegal (BitVec.ofNat 64 n.val)))

/-- 06 R140, R152: VLOOP. With no stages or at the last pass it falls through; else it counts the pass, sets the stage predicates, rotates
the names by one, and branches while a pass remains; a block-driven wick that would branch traps. -/
def LoopPass : Prop :=
  ∀ (s : State) (o : BitVec 13) (w : Fin 8), s.cur.who = .wick w →
    let W := s.curWick w
    let stages := W.pipeDepth.toNat
    let n := W.pipeItems.toNat
    let q := W.pipepass.toNat + 1
    let counted (T : Wick) :=
      T.pipepass = BitVec.ofNat 64 q ∧ T.vrot = BitVec.ofNat 5 ((W.vrot.toNat + 1) % ((if W.split then 32 else 16) / W.vrows.toNat)) ∧
      (∀ k, 1 ≤ k → k ≤ 7 → bitOf T.pred (k - 1) = decide (k ≤ stages ∧ k ≤ q + 1 ∧ q + 2 ≤ n + k)) ∧ T.rows = W.rows
    (stages = 0 ∨ n + stages ≤ q → exec (.vloop o) s = .next (s.done s.cur)) ∧
    (stages ≠ 0 → q < n + stages → n + stages ≤ q + 1 →
      ∃ t, exec (.vloop o) s = .next t ∧ counted (t.curWick w) ∧ SameRegs s.cur s t ∧ MovedOn s.cur s t ∧ OnlyThread s.cur s t) ∧
    (stages ≠ 0 → q + 1 < n + stages → W.isFree = true →
      ∃ t, exec (.vloop o) s = .next t ∧ counted (t.curWick w) ∧ SameRegs s.cur s t ∧ (t.curWick w).th.pc = pcPlus s o.toInt ∧
        OnlyThread s.cur s t) ∧
    (stages ≠ 0 → q + 1 < n + stages → W.isFree = false → exec (.vloop o) s = .next (trap s s.cur .illegal (s.pcOf s.cur)))

end Sys2Proof.Claims
end

