-- ==== Sys2Proof/Claims/VectorRules.lean ====
section
/-! DEFINITION. Rules of 07 about the vector pipes, as propositions of which the statements are made. -/

namespace Sys2Proof.Claims

open Sys2Proof.Machine

/-- 07 R155 to R163, R169, R171 to R174, R181, 03 R73: a lane form whose groups are aligned and whose checks hold writes each active
element, keeps the others, treats the tail as ta says, raises the flags of its active elements and completes. An empty sweep completes
with vstart 0 and writes nothing. -/
def LaneResult : Prop :=
  ∀ (s : State) (w : Fin 8) (i : Instr) (L : Lane) (gd ga gb : List Nat), s.cur.who = .wick w →
    let W := s.curWick w
    laneSpec s W i = some L → L.legal = true → W.group? L.d = some gd → W.group? L.a = some ga → srcGroup W gb L.b → W.vln ≤ W.cap →
    let drawn (T : Wick) := T.th.rctr = W.th.rctr + (if L.draws = true then BitVec.ofNat 64 W.positions else 0)
    (W.emptySweep = false →
      ∃ t, exec i s = .next t ∧
        Swept W (t.curWick w) gd L.m (fun r e =>
          some (L.f (r * W.vl.toNat + e) (cell W (ga.getD r 0) e) (srcCell s W gb r e L.b) (cell W (gd.getD r 0) e))) ∧
        drawn (t.curWick w) ∧ SameRegs s.cur s t ∧ OnlyThread s.cur s t ∧ MovedOn s.cur s t) ∧
    (W.emptySweep = true →
      ∃ t, exec i s = .next t ∧ (t.curWick w).rows = W.rows ∧ (t.curWick w).vstart = 0 ∧ drawn (t.curWick w) ∧ SameRegs s.cur s t ∧
        OnlyThread s.cur s t ∧ MovedOn s.cur s t)

/-- 02 R36, 06 R139, 07 R165: with 1, 2, 4 or 8 rows an aligned group, and an aligned wide group, names distinct registers of the wick. -/
def GroupRegisters : Prop :=
  ∀ (W : Wick) (f : Reg) (g : List Nat), W.vrows = 1 ∨ W.vrows = 2 ∨ W.vrows = 4 ∨ W.vrows = 8 →
    (W.group? f = some g → g.Nodup ∧ g.length = W.nrows ∧ ∀ n ∈ g, n < if W.split then 64 else 32) ∧
    (W.wide? f = some g → g.Nodup ∧ g.length = 2 * W.nrows ∧ ∀ n ∈ g, n < if W.split then 64 else 32) ∧
    (W.group? f = none ↔ W.fieldReg f % W.nrows ≠ 0) ∧ (W.wide? f = none ↔ W.fieldReg f % (2 * W.nrows) ≠ 0)

/-- 07 R164, R170: a compare writes the bits of its mask register at active positions and no other bit, row or mask register. -/
def CompareResult : Prop :=
  ∀ (s : State) (w : Fin 8) (i : Instr) (d a : Reg) (b : Src) (m : BitVec 3) (ok : Bool) (f : Nat → Nat → Bool × FlagSet)
    (ga gb : List Nat), s.cur.who = .wick w →
    let W := s.curWick w
    compareSpec W i = some (d, a, b, m, ok, f) → ok = true → namesMask d → W.positions ≤ 32768 → W.group? a = some ga →
    srcGroup W gb b → W.emptySweep = false →
    ∃ t, exec i s = .next t ∧
      (let T := t.curWick w
       let v (r e : Nat) := f (cell W (ga.getD r 0) e) (srcCell s W gb r e b)
       (∀ r e, r < W.nrows → e < W.vl.toNat →
         (tabGet 0 T.masks d.toNat).getLsbD (r * W.vl.toNat + e) =
           if acts W m (r * W.vl.toNat + e) then (v r e).1 else (tabGet 0 W.masks d.toNat).getLsbD (r * W.vl.toNat + e)) ∧
       (∀ p, W.positions ≤ p → (tabGet 0 T.masks d.toNat).getLsbD p = (tabGet 0 W.masks d.toNat).getLsbD p) ∧
       (∀ k, k ≠ d.toNat → tabGet 0 T.masks k = tabGet 0 W.masks k) ∧
       (∀ k, bitOf T.th.fflags k = true ↔ bitOf W.th.fflags k = true ∨
         ∃ r e, r < W.nrows ∧ e < W.vl.toNat ∧ acts W m (r * W.vl.toNat + e) = true ∧ bitOf (v r e).2 k = true) ∧
       T.rows = W.rows ∧ T.vstart = 0 ∧ T.th.rctr = W.th.rctr) ∧
      SameRegs s.cur s t ∧ OnlyThread s.cur s t ∧ MovedOn s.cur s t

/-- 07 R165, R166, R168, R171: a widening form that passes its checks writes the wide element of each active narrow position, treats the
two tails of each row pair as ta says, and completes; one whose wide destination meets a narrow source traps. -/
def WideningResult : Prop :=
  ∀ (s : State) (w : Fin 8) (i : Instr) (d a : Reg) (b : Src) (m : BitVec 3) (ok : Bool) (f : Nat → Nat → Nat → Flagged)
    (gd ga gb : List Nat), s.cur.who = .wick w →
    let W := s.curWick w
    wideSpec W i = some (d, a, b, m, ok, f) → ok = true → W.maskFits m = true → W.wide? d = some gd → W.group? a = some ga →
    srcGroup W gb b →
    (W.vln ≤ W.cap → gd.Nodup → (∀ n ∈ gd, n ∉ ga ∧ n ∉ gb) → W.emptySweep = false →
      ∃ t, exec i s = .next t ∧
        SweptWide W (t.curWick w) gd m (fun r e =>
          f (cell W (ga.getD r 0) e) (srcCell s W gb r e b) (wcell W (gd.getD (2 * r + e / (W.cap / 2)) 0) (e % (W.cap / 2)))) ∧
        (t.curWick w).th.rctr = W.th.rctr ∧ SameRegs s.cur s t ∧ OnlyThread s.cur s t ∧ MovedOn s.cur s t) ∧
    ((∃ n ∈ gd, n ∈ ga ∨ n ∈ gb) → exec i s = .next (trap s s.cur .groupOverlap (wordOf i)))

/-- 07 R165, R167, R168, R171: a narrowing form that passes its checks writes the narrow element of each active position from its wide
source, draws under stochastic rounding, and completes; one whose destination meets its source traps. -/
def NarrowingResult : Prop :=
  ∀ (s : State) (w : Fin 8) (i : Instr) (d a : Reg) (b : Src) (m : BitVec 3) (ok : Bool) (f : Nat → Nat → Nat → Flagged)
    (gd ga gb : List Nat), s.cur.who = .wick w →
    let W := s.curWick w
    narrowSpec W i = some (d, a, b, m, ok, f) → ok = true → W.maskFits m = true → W.group? d = some gd → W.wide? a = some ga →
    srcGroup W gb b →
    (W.vln ≤ W.cap → (∀ n ∈ gd, n ∉ ga) → W.emptySweep = false →
      ∃ t, exec i s = .next t ∧
        Swept W (t.curWick w) gd m (fun r e =>
          some (f (r * W.vl.toNat + e) (wcell W (ga.getD (2 * r + e / (W.cap / 2)) 0) (e % (W.cap / 2))) (srcCell s W gb r e b))) ∧
        (t.curWick w).th.rctr = W.th.rctr + (if W.th.rm = 5 then BitVec.ofNat 64 W.positions else 0) ∧ SameRegs s.cur s t ∧
        OnlyThread s.cur s t ∧ MovedOn s.cur s t) ∧
    ((∃ n ∈ gd, n ∈ ga) → exec i s = .next (trap s s.cur .groupOverlap (wordOf i)))

/-- 07 R175, R176, 03 R76: a reduction writes element 0 of the first register of its destination with the fold of the start value and the
active elements: the sum modulo 2^w, the signed extremes, the pairwise tree with the start value added at the root; with no active
position the start value. -/
def ReductionResult : Prop :=
  ∀ (s : State) (w : Fin 8) (d a b : Reg) (m : BitVec 3) (gd ga gb : List Nat), s.cur.who = .wick w →
    let W := s.curWick w
    W.group? d = some gd → W.group? a = some ga → W.group? b = some gb → W.nrows ≠ 0 → W.maskFits m = true → W.emptySweep = false →
    W.vln ≤ W.cap →
    let start := cell W (gb.getD 0 0) 0
    let x (p : Nat) := cell W (ga.getD (p / W.vl.toNat) 0) (p % W.vl.toNat)
    let wrote (i : Instr) (P : Nat → BitVec 7 → Prop) :=
      ∃ t v fl, exec i s = .next t ∧ P v fl ∧ cell (t.curWick w) (gd.getD 0 0) 0 = v ∧ (t.curWick w).th.fflags = W.th.fflags ||| fl ∧
        (∀ e, 1 ≤ e → e < W.cap → cell (t.curWick w) (gd.getD 0 0) e = if W.ta then 0 else cell W (gd.getD 0 0) e) ∧
        (∀ n, n ≠ gd.getD 0 0 → (t.curWick w).reg n = W.reg n) ∧ (t.curWick w).vstart = 0 ∧ (t.curWick w).th.rctr = W.th.rctr ∧
        SameRegs s.cur s t ∧ OnlyThread s.cur s t ∧ MovedOn s.cur s t
    let signed (p : Nat) := toSigned W.esize (x p)
    (isIntEt W.et = true →
      wrote (.vredsum d a b m) (fun v fl => fl = 0 ∧ v = (start + ((actives W m).map x).sum) % 2 ^ W.esize) ∧
      wrote (.vredmax d a b m) (fun v fl => fl = 0 ∧ (v = start ∨ ∃ p ∈ actives W m, v = x p) ∧
        toSigned W.esize start ≤ toSigned W.esize v ∧ ∀ p ∈ actives W m, signed p ≤ toSigned W.esize v) ∧
      wrote (.vredmin d a b m) (fun v fl => fl = 0 ∧ (v = start ∨ ∃ p ∈ actives W m, v = x p) ∧
        toSigned W.esize v ≤ toSigned W.esize start ∧ ∀ p ∈ actives W m, toSigned W.esize v ≤ signed p)) ∧
    (isFloatEt W.et = true →
      wrote (.vfredsum d a b m) (fun v fl =>
        match treeNode (addBits (floatOf W.et) (redMode W.th)) (fun p => if p ∈ actives W m then some (x p) else none) 18 0 with
        | none => v = start ∧ fl = 0
        | some y => v = (addBits (floatOf W.et) (redMode W.th) y.1 start).1 ∧ fl = y.2 ||| (addBits (floatOf W.et) (redMode W.th) y.1 start).2) ∧
      wrote (.vfredmax d a b m) (fun v fl => (v, fl) = (actives W m).foldl (fun o p =>
        ((minMaxBits (floatOf W.et) true o.1 (x p)).1, o.2 ||| (minMaxBits (floatOf W.et) true o.1 (x p)).2)) (start, 0)) ∧
      wrote (.vfredmin d a b m) (fun v fl => (v, fl) = (actives W m).foldl (fun o p =>
        ((minMaxBits (floatOf W.et) false o.1 (x p)).1, o.2 ||| (minMaxBits (floatOf W.et) false o.1 (x p)).2)) (start, 0)))

/-- 07 R177, R179, R180: the slides act within each row, VPERM gathers over the positions of the sweep, VCOMPRESS packs the selected
elements; what they write, keep and zero. -/
def PermutationResult : Prop :=
  ∀ (s : State) (w : Fin 8) (d a b : Reg) (m : BitVec 3) (k : BitVec 1) (gd ga gb : List Nat), s.cur.who = .wick w →
    let W := s.curWick w
    W.group? d = some gd → W.group? a = some ga → srcGroup W gb (srcOf k b) → W.maskFits m = true → W.emptySweep = false → W.vln ≤ W.cap →
    let swept (i : Instr) (m : BitVec 3) (val : Nat → Nat → Option Nat) :=
      ∃ t, exec i s = .next t ∧ Swept W (t.curWick w) gd m (fun r e => (val r e).map fun v => (v, 0)) ∧
        (t.curWick w).th.rctr = W.th.rctr ∧ SameRegs s.cur s t ∧ OnlyThread s.cur s t ∧ MovedOn s.cur s t
    let n := W.vl.toNat
    let taken := (actives W m).map fun p => cell W (ga.getD (p / n) 0) (p % n)
    let index (r e : Nat) := if k = 1 then (reg s b).toNat else cell W (gb.getD r 0) e
    (∀ i f, slideSpec W i = some (d, a, b, m, k, f) →
      swept i m fun r e => f (if k = 1 then (reg s b).toNat else cell W (gb.getD 0 0) r) (cell W (ga.getD r 0)) e) ∧
    ((∀ n ∈ gd, n ∉ ga ∧ n ∉ gb) →
      swept (.vperm d a b m k) m fun r e =>
        some (if index r e < W.positions then cell W (ga.getD (index r e / n) 0) (index r e % n) else 0)) ∧
    ((∃ n ∈ gd, n ∈ ga ∨ n ∈ gb) →
      exec (.vperm d a b m k) s = .next (trap s s.cur .groupOverlap (wordOf (.vperm d a b m k)))) ∧
    (W.vstart = 0 → (∀ n ∈ gd, n ∉ ga) →
      swept (.vcompress d a m) 0 fun r e =>
        if r * n + e < taken.length then taken[r * n + e]? else if W.ta then some 0 else none) ∧
    (W.vstart ≠ 0 → exec (.vcompress d a m) s = .next (trap s s.cur .illegal (wordOf (.vcompress d a m)))) ∧
    (W.vstart = 0 → (∃ n ∈ gd, n ∈ ga) →
      exec (.vcompress d a m) s = .next (trap s s.cur .groupOverlap (wordOf (.vcompress d a m))))

/-- 07 R182, R183: VMVXS reads one element, sign- or zero-extended, or 0 past the sweep; VMVSX writes element (0, 0). -/
def ScalarElementMoves : Prop :=
  ∀ (s : State) (w : Fin 8) (d a b : Reg) (k : BitVec 1) (g : List Nat), s.cur.who = .wick w →
    let W := s.curWick w
    let p := if k = 1 then (reg s b).toNat else 0
    let x := cell W (g.getD (p / W.vl.toNat) 0) (p % W.vl.toNat)
    (W.group? a = some g →
      ∃ t, exec (.vmvxs d a b k) s = .next t ∧
        Holds s.cur t d (if p < W.positions then (if isIntEt W.et then BitVec.ofInt 64 (toSigned W.esize x) else BitVec.ofNat 64 x) else 0) ∧
        (t.curWick w).rows = W.rows ∧ OtherRegs s.cur d s t ∧ OnlyThread s.cur s t ∧ MovedOn s.cur s t) ∧
    (W.group? a = some g → W.nrows ≠ 0 → W.cap ≠ 0 →
      ∃ t, exec (.vmvsx a b) s = .next t ∧ (t.curWick w).vstart = 0 ∧
        (∀ e, e < W.cap → cell (t.curWick w) (g.getD 0 0) e =
          if e = 0 ∧ W.vl ≠ 0 ∧ W.vstart = 0 then (reg s b).toNat % 2 ^ W.esize else cell W (g.getD 0 0) e) ∧
        (∀ n, n ≠ g.getD 0 0 → (t.curWick w).reg n = W.reg n) ∧ (t.curWick w).masks = W.masks ∧ SameRegs s.cur s t ∧
        OnlyThread s.cur s t ∧ MovedOn s.cur s t)

/-- 07 R184, R185: the mask forms act on the positions of the sweep only and leave vstart 0. -/
def MaskResult : Prop :=
  ∀ (s : State) (w : Fin 8) (d a b : Reg), s.cur.who = .wick w →
    let W := s.curWick w
    W.positions ≤ 32768 →
    let bits (t : State) (r : Reg) (f : Nat → Bool) :=
      (∀ p, p < W.positions → (tabGet 0 (t.curWick w).masks r.toNat).getLsbD p = f p) ∧
      (∀ p, W.positions ≤ p → (tabGet 0 (t.curWick w).masks r.toNat).getLsbD p = (tabGet 0 W.masks r.toNat).getLsbD p) ∧
      (∀ k, k ≠ r.toNat → tabGet 0 (t.curWick w).masks k = tabGet 0 W.masks k) ∧ SameRegs s.cur s t
    let kept (t : State) := (t.curWick w).rows = W.rows ∧ (t.curWick w).vstart = 0 ∧ OnlyThread s.cur s t ∧ MovedOn s.cur s t
    let set (p : Nat) := (W.mask a.toNat).getLsbD p = true
    (∀ i f, maskSpec i = some (d, a, b, f) → namesMask d → namesMask a → namesMask b →
      ∃ t, exec i s = .next t ∧ kept t ∧ bits t d fun p => f ((W.mask a.toNat).getLsbD p) ((W.mask b.toNat).getLsbD p)) ∧
    (namesMask a →
      (∃ t, exec (.mpop d a) s = .next t ∧ kept t ∧ OtherRegs s.cur d s t ∧
        Holds s.cur t d (BitVec.ofNat 64 ((List.range W.positions).countP fun p => (W.mask a.toNat).getLsbD p))) ∧
      (∃ t, exec (.mfirst d a) s = .next t ∧ kept t ∧ OtherRegs s.cur d s t ∧
        (∀ p, p < W.positions → set p → (∀ q, q < p → ¬set q) → Holds s.cur t d (BitVec.ofNat 64 p)) ∧
        ((∀ p, p < W.positions → ¬set p) → Holds s.cur t d (BitVec.allOnes 64)))) ∧
    (namesMask d → a.toNat ≤ 2 →
      ∃ t, exec (.mseti d a b) s = .next t ∧ kept t ∧ bits t d fun p =>
        if a = 0 then decide (p < (reg s b).toNat)
        else if a = 1 then decide ((reg s b).toNat ≠ 0 ∧ p % (reg s b).toNat = 0)
        else decide (p % W.vl.toNat < (reg s b).toNat))

/-- 01 R15, 07 R160: the lane, compare, widening and narrowing forms trap illegal in the taper, on a wrong element type, on a mask that does
not cover the sweep and on a group that is not aligned, and change nothing else. -/
def VectorChecks : Prop :=
  ∀ (s : State) (w : Fin 8) (i : Instr),
    let W := s.curWick w
    (∀ L, s.cur.who = .taper → laneSpec s W i = some L → exec i s = .next (trap s s.cur .illegal (wordOf i))) ∧
    (∀ L, s.cur.who = .wick w → laneSpec s W i = some L →
      (L.legal = false ∨ W.group? L.d = none ∨ W.group? L.a = none ∨ ∃ v, L.b = .vector v ∧ W.group? v = none) →
      exec i s = .next (trap s s.cur .illegal (wordOf i))) ∧
    (∀ d a b m ok f, s.cur.who = .wick w → compareSpec W i = some (d, a, b, m, ok, f) →
      (ok = false ∨ ¬namesMask d ∨ 32768 < W.positions ∨ W.group? a = none ∨ ∃ v, b = .vector v ∧ W.group? v = none) →
      exec i s = .next (trap s s.cur .illegal (wordOf i))) ∧
    (∀ d a b m ok f, s.cur.who = .wick w → wideSpec W i = some (d, a, b, m, ok, f) →
      (ok = false ∨ W.maskFits m = false ∨ W.wide? d = none ∨ W.group? a = none ∨ ∃ v, b = .vector v ∧ W.group? v = none) →
      exec i s = .next (trap s s.cur .illegal (wordOf i))) ∧
    (∀ d a b m ok f, s.cur.who = .wick w → narrowSpec W i = some (d, a, b, m, ok, f) →
      (ok = false ∨ W.maskFits m = false ∨ W.group? d = none ∨ W.wide? a = none ∨ ∃ v, b = .vector v ∧ W.group? v = none) →
      exec i s = .next (trap s s.cur .illegal (wordOf i)))

end Sys2Proof.Claims
end

