-- ==== Sys2Proof/Certificates/Slice0/Obligations.lean ====
section
/-! DEFINITION. The statements for the provers. Each is the conjunction of the rules of a family, as Sys2Proof/Claims states them. -/

open Sys2Proof Sys2Proof.Machine Sys2Proof.Claims

/-- Decoding an encoded well-formed instruction gives it back, with every operand. -/
def Obligations.EncodeThenDecode : Prop := EncodeDecode

/-- A word that decodes is the encoding of the one well-formed instruction it gives. -/
def Obligations.DecodedWordIsEncoding : Prop := DecodeSound

/-- Worked encodings of the manual decode to their instructions, and words that it refuses are refused. -/
def Obligations.WorkedEncodingsDecode : Prop := WorkedWords

/-- A step executes the instruction that the word at the program counter decodes to, takes due and named events, and waits. The agenda, by
which the module's next move is named, is the model's own (log 1). -/
def Obligations.StepExecutesDecodedWord : Prop := StepExecutes ∧ StepOtherwise ∧ StepTakesEvents ∧ StoppedModule

/-- Every step keeps memory in its canonical form. The form is the model's own (log 4). -/
def Obligations.StepKeepsCanonicalMemory : Prop := StepKeepsMemory

/-- Every step keeps the tables of gangs, VFs, partitions and cores in rising order. -/
def Obligations.StepKeepsTableOrder : Prop := StepKeepsTables

/-- What a cold reset leaves, and that the invariants hold there. That an unlisted byte reads zero and that no cold-reset value is left out
is the model's representation (log 4, log 14). -/
def Obligations.ResetState : Prop := ResetLeaves

/-- Every row of the opcode table answers a next state in every state. -/
def Obligations.EveryRowAnswersNext : Prop := EveryRowRuns

/-- What writing a scalar register does, x0 included, and where a completed instruction leaves the thread. -/
def Obligations.ScalarRegistersAndAdvance : Prop := RegisterWrite ∧ InstructionAdvance

/-- The integer forms write the value of their rule and change nothing else. -/
def Obligations.IntegerForms : Prop := IntegerResult ∧ IntegerFrame

/-- Branches and jumps move the program counter as their rules say and change nothing else. -/
def Obligations.BranchesAndJumps : Prop := BranchResult ∧ JumpResult ∧ TransferFrame

/-- Scalar loads read the bytes at their address, extended. -/
def Obligations.ScalarLoads : Prop := LoadResult ∧ LoadValue

/-- Scalar stores queue their bytes and are performed at the L2; what scalar accesses trap on. -/
def Obligations.ScalarStores : Prop := StoreResult ∧ StorePerformed ∧ QueuePerformed ∧ ScalarAccessTraps

/-- Atomic forms return the old word, write the new one, and acquire and release as their bits say. -/
def Obligations.Atomics : Prop := AtomicResult ∧ AtomicFloatAdd ∧ AcquireTaken ∧ AcquireRelease ∧ HostRefusals

/-- Scalar floating-point forms write their exact result rounded, and raise the flags of their rules. -/
def Obligations.ScalarFloat : Prop := FloatResult ∧ FloatToInteger

/-- FMIN, FMAX and FCMP follow the order of F32, and their reserved codes are refused. -/
def Obligations.FloatOrderAndCompare : Prop := FloatOrder

/-- Rounding to every format in every mode is exact, and format values round to themselves. -/
def Obligations.RoundingAndFormats : Prop := RoundingModes ∧ RoundToFloat ∧ FormatValuesKept ∧ ExactArithmetic

/-- Which CSRs exist, what reads and writes of them do and clear, and when they trap. -/
def Obligations.ControlRegisters : Prop := CsrMapped ∧ CsrResult ∧ CsrTraps ∧ CsrReadEffects

/-- A CSR write changes the fields that may be written and no others; the launch registers read their launch. -/
def Obligations.ControlRegisterFields : Prop := CsrFieldwise ∧ LaunchRead

/-- What a trap saves and where it goes in a wick and in a taper, double traps and fault records. -/
def Obligations.TrapsTaken : Prop := WickTrap ∧ TaperTrapTaken ∧ DoubleTrapHalts ∧ TranslationTrap

/-- ECALL, EBREAK, words without an encoding and failed fetches raise their traps. -/
def Obligations.TrapsRaised : Prop := TrapInstructions

/-- TRAPRET returns from a trap or disposes of a faulted wick. -/
def Obligations.TrapReturns : Prop := TrapReturn

/-- HALT, WFE and their events, and the taper taking a wick fault. -/
def Obligations.HaltsAndEvents : Prop := HaltAndWait ∧ WickEventTaken

/-- BCAST, block delivery and replay. -/
def Obligations.BroadcastBlocks : Prop := Broadcast ∧ BlockDelivery ∧ BlocksCounted

/-- BFETCH, STOP, WJOIN and their events. -/
def Obligations.WickLife : Prop := FreeRun ∧ StopRecorded ∧ Join

/-- XLINK in its three forms, YIELD, WSTAT and the issue slot. -/
def Obligations.LinksAndStatus : Prop := CrossLink ∧ SlotAndStatus ∧ IssueMoves

/-- STRIP, VSETT, VMODE, VROWS, VLOOP and their kin set the sweep as their rules say. -/
def Obligations.SweepSetUp : Prop := StripGranted ∧ VectorSetup ∧ ModeToggled ∧ LoopPass

/-- The lane forms of integer and floating vectors: every element, group and check. Special functions are exact to the precision of their
rule and otherwise free (log 8). -/
def Obligations.LaneForms : Prop := LaneResult ∧ GroupRegisters ∧ VectorChecks

/-- Vector compares and mask forms write the bits of their rules. -/
def Obligations.VectorCompares : Prop := CompareResult ∧ MaskResult

/-- Widening and narrowing forms. -/
def Obligations.WidenAndNarrow : Prop := WideningResult ∧ NarrowingResult

/-- Reductions fold the active elements of each row in order. -/
def Obligations.Reductions : Prop := ReductionResult

/-- Permutation forms and moves between scalars and elements. -/
def Obligations.Permutations : Prop := PermutationResult ∧ ScalarElementMoves

/-- Vector loads write the elements that their accesses read. -/
def Obligations.VectorLoads : Prop := VectorLoadResult ∧ VectorLoadLeft ∧ LateElementLanded

/-- Vector stores queue the bytes of their active elements, which are performed at the L2. -/
def Obligations.VectorStores : Prop := VectorStoreResult ∧ ElementStorePerformed

/-- What a vector access that fails leaves, and prefetches. -/
def Obligations.VectorFaultsAndPrefetch : Prop := VectorMemoryFault ∧ PrefetchResult

/-- MX formats in memory, and reads of lantern windows. -/
def Obligations.MxAndWindowLoads : Prop := MxResult ∧ MxScaleRule ∧ LanternResult

/-- MZERO, MRD and MWR. -/
def Obligations.TilesClearedAndMoved : Prop := TileCleared ∧ TileMoves

/-- Products of register operands accumulate exactly, rounded once a step. -/
def Obligations.RegisterProducts : Prop := RegisterProduct ∧ ArrayIssue

/-- MWAIT, MSEG and the joining of a quad. -/
def Obligations.ArrayWaitsAndQuads : Prop := ArrayWait ∧ SegmentResult ∧ QuadJoin

/-- Joint steps, products of fetched tiles, and the lines of tiles in the L2. -/
def Obligations.TileProducts : Prop := JointProduct ∧ TileProductResult ∧ TileLines

/-- Pinned vigils, the delta rule and read queries. -/
def Obligations.Vigils : Prop := VigilPinned ∧ DeltaResult ∧ ReadQueryResult

/-- Spills and fills of tiles, and the round trip of an image. SHAKE256 is written from FIPS 202 (log 9). -/
def Obligations.VigilImages : Prop := SpillResult ∧ FillResult ∧ ImageRoundTrip

/-- TDEF, TINV and TSYNC. -/
def Obligations.TensorTable : Prop := TensorDefined ∧ TensorLinesDropped ∧ TensorTaper

/-- Copies run in order, chunk by chunk, write their flags, drain and are cancelled. -/
def Obligations.Copies : Prop := CopyOrder ∧ ChunkCopied ∧ FlagWritten ∧ CopiesDrained ∧ CopyCancelled

/-- Fences, waits on words and watermark slots. -/
def Obligations.OrderingForms : Prop := Fences ∧ MarkPublished ∧ MemoryWait

/-- Barriers and steps: arrival, completion and return. -/
def Obligations.BarriersAndSteps : Prop := BarrierArrival ∧ BarrierResumed ∧ BarrierCompletion ∧ StepArrival ∧ StepCompletion

/-- Lantern windows are made and revoked, and SEND is queued. -/
def Obligations.WindowsAndSendIssue : Prop := WindowExported ∧ PeerTaper ∧ SendQueued

/-- Flits of a SEND are delivered, refused and replayed; flags are written; landings reach their window. -/
def Obligations.SendsAndLandings : Prop := SendDelivered ∧ SendFlagged ∧ LandingTaken

/-- Wapin ports, the watchdog, storage errors and the faults of the whole module. The field by which a flit acknowledges is the model's
(log 17). -/
def Obligations.PortsAndModuleFaults : Prop := PortRules ∧ WatchdogTrips ∧ UnitWatchdog ∧ StorageErrors ∧ ModuleFaults

/-- A translation walks both stages, checks permissions and sets dirty bits in the order of the rules. -/
def Obligations.Translation : Prop := TableStep ∧ Stage1Step ∧ TranslationOrder ∧ PlainTranslation

/-- Page requests, their answers, fault records, the dirty log and invalidations. -/
def Obligations.PageRequestsAndRecords : Prop := PageRequested ∧ PageAnswered ∧ FaultRecorded ∧ DirtyLogged ∧ Invalidated

/-- Events of the caches, of main memory and of run-ahead fetch. -/
def Obligations.CacheAndMemoryEvents : Prop := MemoryEvents ∧ LinePlace ∧ RunAhead

/-- The register block of a VF, its rings, descriptors and completion records. -/
def Obligations.LaunchRings : Prop := RingRegisters ∧ VfRegisterWritten ∧ DescriptorTaken ∧ CompletionWritten

/-- Candidates are ranked, placed, pre-empted and held up as the rules say. -/
def Obligations.Placement : Prop := CandidatePlaced ∧ RoomMade ∧ LowerRankChosen ∧ PlacementBlocked

/-- Token periods, lending, the cap on debt, and layout commits. -/
def Obligations.BudgetsAndLayouts : Prop := PeriodStarted ∧ BalanceDrawn ∧ DrawingStopped ∧ LayoutCommitted ∧ LayoutWaits

/-- A gang is stopped, saved, restored, its vigils refilled, and ended. What the image holds beside the areas that R377 lays out is the
model's (log 11). -/
def Obligations.GangContexts : Prop := GangStopped ∧ ContextSaved ∧ GangRestored ∧ VigilRefilled ∧ GangEnded

/-- Host commands: their path, the limits that they set, way masks, blocks and a VF's life. The order of a command's checks is the model's
(log 23). -/
def Obligations.HostLimits : Prop := CommandPath ∧ LimitsSet ∧ WayMaskSet ∧ BlocksAllotted ∧ VfLife ∧ TenantGuards

/-- Pauses, evictions, resumption, discards and function-level resets. -/
def Obligations.PausesAndResets : Prop := PauseBegun ∧ PauseEnded ∧ VfResumed ∧ FunctionReset

/-- Stage-2 mappings, unmappings, invalidations and the zeroing of granules. That new tables come from granules that the command offers is
the model's (log 21). -/
def Obligations.StageTwoMappings : Prop := Stage2Mapped ∧ Stage2Unmapped

/-- The management processor, attestation, firmware, the clock, the debug port and resets. What a hot reset keeps beside the rule's words
is the model's (log 14). -/
def Obligations.RootAndResets : Prop := ManagementRules ∧ AttestationRules ∧ FirmwareRules ∧ ColdResets ∧ HotResets
end

