-- ==== Sys2Proof/Laws/Tab.lean ====
section
/-! SUPPORT. What reading a table or memory gives after a write, and that every memory write keeps the canonical form (log 4). -/

namespace Sys2Proof.Machine

variable {α : Type}

theorem tabGet?_tabPut_self (t : Tab α) (k : Nat) (v : α) : tabGet? (tabPut t k v) k = some v := by
  induction t with
  | nil => simp [tabPut, tabGet?]
  | cons p t ih =>
    obtain ⟨a, w⟩ := p
    by_cases h : a = k
    · simp [tabPut, tabGet?, h]
    · by_cases h' : k < a <;> simp [tabPut, tabGet?, h, h', ih]

theorem tabGet?_tabPut_ne (t : Tab α) {k j : Nat} (v : α) (h : j ≠ k) : tabGet? (tabPut t k v) j = tabGet? t j := by
  have h0 : ¬k = j := fun e => h e.symm
  induction t with
  | nil => simp [tabPut, tabGet?, h0]
  | cons p t ih =>
    obtain ⟨a, w⟩ := p
    by_cases h1 : a = k
    · subst h1; simp [tabPut, tabGet?, h0]
    · by_cases h' : k < a
      · simp [tabPut, tabGet?, h1, h', h0]
      · by_cases h2 : a = j
        · subst h2; simp [tabPut, tabGet?, h1, h']
        · simp [tabPut, tabGet?, h1, h', h2, ih]

@[simp] theorem tabGet_tabPut_self (d : α) (t : Tab α) (k : Nat) (v : α) : tabGet d (tabPut t k v) k = v := by
  simp [tabGet, tabGet?_tabPut_self]

theorem tabGet_tabPut_ne (d : α) (t : Tab α) {k j : Nat} (v : α) (h : j ≠ k) : tabGet d (tabPut t k v) j = tabGet d t j := by
  simp [tabGet, tabGet?_tabPut_ne t v h]

theorem tabGet_tabPut (d : α) (t : Tab α) (k j : Nat) (v : α) :
    tabGet d (tabPut t k v) j = if j = k then v else tabGet d t j := by
  by_cases h : j = k
  · subst h; simp
  · simp [h, tabGet_tabPut_ne d t v h]

theorem tabGet?_tabDel_self (t : Tab α) (k : Nat) : tabGet? (tabDel t k) k = none := by
  induction t with
  | nil => rfl
  | cons p t ih =>
    obtain ⟨a, w⟩ := p
    by_cases h : a = k <;> simp [tabDel, tabGet?, h, ih]

theorem tabGet?_tabDel_ne (t : Tab α) {k j : Nat} (h : j ≠ k) : tabGet? (tabDel t k) j = tabGet? t j := by
  induction t with
  | nil => rfl
  | cons p t ih =>
    obtain ⟨a, w⟩ := p
    by_cases h1 : a = k
    · subst h1; simp [tabDel, tabGet?, ih]; intro e; exact absurd e.symm h
    · by_cases h2 : a = j
      · subst h2; simp [tabDel, tabGet?, h1]
      · simp [tabDel, tabGet?, h1, h2, ih]

/-- A put and a put at the same number: the later one stands. -/
theorem tabPut_tabPut (t : Tab α) (k : Nat) (v w : α) : tabPut (tabPut t k v) k w = tabPut t k w := by
  induction t with
  | nil => simp [tabPut]
  | cons p t ih =>
    obtain ⟨a, u⟩ := p
    by_cases h : a = k
    · simp [tabPut, h]
    · by_cases h' : k < a <;> simp [tabPut, h, h', ih]

/-- A canonical memory from an address is one from every lower address. -/
theorem memFrom_mono {lo lo' : Nat} {m : Mem} (h : memFrom lo m = true) (hl : lo' ≤ lo) : memFrom lo' m = true := by
  cases m with
  | nil => rfl
  | cons p t =>
    obtain ⟨x, v⟩ := p
    simp only [memFrom, Bool.and_eq_true, decide_eq_true_eq] at h ⊢
    exact ⟨⟨by omega, h.1.2⟩, h.2⟩

/-- Taking an address out keeps the canonical form. -/
theorem memFrom_tabDel {lo : Nat} {m : Mem} (h : memFrom lo m = true) (a : Nat) : memFrom lo (tabDel m a) = true := by
  induction m generalizing lo with
  | nil => rfl
  | cons p t ih =>
    obtain ⟨x, v⟩ := p
    simp only [memFrom, Bool.and_eq_true, decide_eq_true_eq] at h
    simp only [tabDel]
    split
    · exact memFrom_mono (ih h.2) (by omega)
    · simp only [memFrom, Bool.and_eq_true, decide_eq_true_eq]; exact ⟨h.1, ih h.2⟩

/-- Setting an address to a byte that is not zero keeps the canonical form. -/
theorem memFrom_tabPut {lo : Nat} {m : Mem} (h : memFrom lo m = true) {a : Nat} {b : Byte} (ha : lo ≤ a) (hb : b ≠ 0) :
    memFrom lo (tabPut m a b) = true := by
  induction m generalizing lo with
  | nil => simp only [tabPut, memFrom, Bool.and_true, Bool.and_eq_true, decide_eq_true_eq, bne_iff_ne]; exact ⟨ha, hb⟩
  | cons p t ih =>
    obtain ⟨x, v⟩ := p
    simp only [memFrom, Bool.and_eq_true, decide_eq_true_eq] at h
    simp only [tabPut]
    split
    · next hx =>
      subst hx
      simp only [memFrom, Bool.and_eq_true, decide_eq_true_eq, bne_iff_ne]
      exact ⟨⟨ha, hb⟩, h.2⟩
    · split
      · next _ hx =>
        simp only [memFrom, Bool.and_eq_true, decide_eq_true_eq, bne_iff_ne]
        exact ⟨⟨ha, hb⟩, ⟨by omega, bne_iff_ne.mp h.1.2⟩, h.2⟩
      · simp only [memFrom, Bool.and_eq_true, decide_eq_true_eq]; exact ⟨h.1, ih h.2 (by omega)⟩

/-- A byte write keeps the canonical form. -/
theorem memFrom_memPut {lo : Nat} {m : Mem} (h : memFrom lo m = true) (a : Nat) (b : Byte) (ha : lo ≤ a) :
    memFrom lo (memPut m a b) = true := by
  unfold memPut
  split
  · exact memFrom_tabDel h a
  · next hb => exact memFrom_tabPut h ha hb

theorem wf_memPut {m : Mem} (h : Memory.wf m = true) (a : Nat) (b : Byte) : Memory.wf (memPut m a b) = true :=
  memFrom_memPut h a b (Nat.zero_le a)

theorem wf_memWrite {m : Mem} (h : Memory.wf m = true) (a n v : Nat) : Memory.wf (memWrite m a n v) = true := by
  induction n generalizing a v with
  | zero => exact h
  | succ n ih => exact wf_memPut (ih _ _) _ _

theorem wf_memWriteBytes {m : Mem} (h : Memory.wf m = true) (a : Nat) (bs : List Byte) :
    Memory.wf (memWriteBytes m a bs) = true := by
  induction bs generalizing a with
  | nil => exact h
  | cons b bs ih => exact wf_memPut (ih _) _ _

theorem wf_memPend {m : Mem} (h : Memory.wf m = true) (ps : List PendByte) : Memory.wf (memPend m ps) = true := by
  induction ps generalizing m with
  | nil => exact h
  | cons p ps ih => exact ih (wf_memPut h _ _)

/-- Memory read through its table. -/
theorem memByte_eq (m : Mem) (a : Nat) : memByte m a = tabGet 0 m a := by
  induction m with
  | nil => rfl
  | cons p t ih =>
    obtain ⟨x, v⟩ := p
    by_cases h : x = a
    · simp [memByte, tabGet, tabGet?, h]
    · simp only [memByte, h, if_false, ih]; simp [tabGet, tabGet?, h]

/-- The bytes after one is written, in any memory. -/
theorem memByte_memPut (m : Mem) (a c : Nat) (b : Byte) : memByte (memPut m a b) c = if c = a then b else memByte m c := by
  simp only [memByte_eq, memPut]
  split
  · next hb =>
    by_cases hc : c = a
    · subst hc; simp [hb, tabGet, tabGet?_tabDel_self]
    · simp [hc, tabGet, tabGet?_tabDel_ne m hc]
  · exact tabGet_tabPut _ _ _ _ _

/-- The byte just written. -/
theorem memByte_memPut_self (m : Mem) (a : Nat) (b : Byte) : memByte (memPut m a b) a = b := by simp [memByte_memPut]

/-- Every other byte. -/
theorem memByte_memPut_ne (m : Mem) {a c : Nat} (b : Byte) (h : c ≠ a) : memByte (memPut m a b) c = memByte m c := by
  simp [memByte_memPut, h]

/-- A byte outside a write of `n` bytes. -/
theorem memByte_memWrite_ne (m : Mem) (a n v : Nat) {c : Nat} (h : c < a ∨ a + n ≤ c) :
    memByte (memWrite m a n v) c = memByte m c := by
  induction n generalizing a v with
  | zero => rfl
  | succ n ih =>
    simp only [memWrite]
    rw [memByte_memPut_ne _ _ (by omega), ih _ _ (by omega)]

/-- What a read of the bytes just written gives. -/
theorem memRead_memWrite (m : Mem) (a n v : Nat) :
    memRead (memWrite m a n v) a n = v % 256 ^ n := by
  have key : ∀ (n a v c : Nat), c < a → ∀ k b, memRead (memPut (memWrite m a n v) c b) a k = memRead (memWrite m a n v) a k := by
    intro n a v c hc k b
    generalize memWrite m a n v = m'
    induction k generalizing a with
    | zero => rfl
    | succ k ih => simp only [memRead]; rw [memByte_memPut_ne _ _ (by omega), ih (a + 1) (by omega)]
  induction n generalizing a v with
  | zero => simp [memRead, Nat.mod_one]
  | succ n ih =>
    simp only [memRead, memWrite]
    rw [memByte_memPut_self, key n (a + 1) (v / 256) a (by omega), ih]
    rw [Nat.pow_succ, Nat.mul_comm (256 ^ n), Nat.mod_mul]
    simp

/-- A byte outside a write of a list of bytes. -/
theorem memByte_memWriteBytes_ne (m : Mem) (a : Nat) (bs : List Byte) {c : Nat} (h : c < a ∨ a + bs.length ≤ c) :
    memByte (memWriteBytes m a bs) c = memByte m c := by
  induction bs generalizing a with
  | nil => rfl
  | cons b bs ih =>
    simp only [List.length_cons] at h
    simp only [memWriteBytes]
    rw [memByte_memPut_ne _ _ (by omega), ih _ (by omega)]

/-- A byte inside a write of a list of bytes. -/
theorem memByte_memWriteBytes (m : Mem) (a : Nat) (bs : List Byte) {k : Nat} (hk : k < bs.length) :
    memByte (memWriteBytes m a bs) (a + k) = bs[k] := by
  induction bs generalizing a k with
  | nil => simp at hk
  | cons b bs ih =>
    simp only [memWriteBytes]
    rw [memByte_memPut]
    cases k with
    | zero => simp
    | succ k =>
      simp only [List.length_cons] at hk
      rw [if_neg (by omega), show a + (k + 1) = a + 1 + k by omega, ih (a + 1) (by omega)]
      simp

theorem memBytes_length (m : Mem) (a n : Nat) : (memBytes m a n).length = n := by
  induction n generalizing a with
  | zero => rfl
  | succ n ih => simp [memBytes, ih]

theorem memBytes_getElem (m : Mem) (a n : Nat) {k : Nat} (hk : k < (memBytes m a n).length) : (memBytes m a n)[k] = memByte m (a + k) := by
  induction n generalizing a k with
  | zero => simp [memBytes] at hk
  | succ n ih =>
    cases k with
    | zero => rfl
    | succ k => simp only [memBytes, List.getElem_cons_succ]; rw [ih]; congr 1; omega

/-- The bytes just written. -/
theorem memBytes_memWriteBytes (m : Mem) (a : Nat) (bs : List Byte) : memBytes (memWriteBytes m a bs) a bs.length = bs := by
  apply List.ext_getElem
  · exact memBytes_length _ _ _
  · intro k h1 h2; rw [memBytes_getElem, memByte_memWriteBytes]

/-- A byte that no queued byte of a store names. -/
theorem memByte_memPend_ne (m : Mem) (ps : List PendByte) {c : Nat} (h : ∀ p ∈ ps, p.pa ≠ c) :
    memByte (memPend m ps) c = memByte m c := by
  induction ps generalizing m with
  | nil => rfl
  | cons p ps ih =>
    simp only [memPend]
    rw [ih _ (fun q hq => h q (List.mem_cons_of_mem _ hq)), memByte_memPut_ne _ _ (fun e => h p (List.mem_cons_self ..) e.symm)]

end Sys2Proof.Machine
end

