-- ==== Sys2Proof/Laws/State.lean ====
section
/-! SUPPORT. What the named updates of a state leave: one lemma per field per update, and reading a gang, a core, a wick or a thread
after a change of one. -/

namespace Sys2Proof.Machine

@[simp] theorem State.modGang_agenda (s : State) (g : Nat) (f : Gang → Gang) : (s.modGang g f).agenda = s.agenda := rfl
@[simp] theorem State.modGang_cur (s : State) (g : Nat) (f : Gang → Gang) : (s.modGang g f).cur = s.cur := rfl
@[simp] theorem State.modGang_free (s : State) (g : Nat) (f : Gang → Gang) : (s.modGang g f).free = s.free := rfl
@[simp] theorem State.modGang_nextGang (s : State) (g : Nat) (f : Gang → Gang) : (s.modGang g f).nextGang = s.nextGang := rfl
@[simp] theorem State.modGang_ac (s : State) (g : Nat) (f : Gang → Gang) : (s.modGang g f).ac = s.ac := rfl
@[simp] theorem State.modGang_time (s : State) (g : Nat) (f : Gang → Gang) : (s.modGang g f).time = s.time := rfl
@[simp] theorem State.modGang_coord (s : State) (g : Nat) (f : Gang → Gang) : (s.modGang g f).coord = s.coord := rfl
@[simp] theorem State.modGang_denied (s : State) (g : Nat) (f : Gang → Gang) : (s.modGang g f).denied = s.denied := rfl
@[simp] theorem State.modGang_silent (s : State) (g : Nat) (f : Gang → Gang) : (s.modGang g f).silent = s.silent := rfl
@[simp] theorem State.modGang_linkReqs (s : State) (g : Nat) (f : Gang → Gang) : (s.modGang g f).linkReqs = s.linkReqs := rfl
@[simp] theorem State.modGang_late (s : State) (g : Nat) (f : Gang → Gang) : (s.modGang g f).late = s.late := rfl
@[simp] theorem State.modGang_busy (s : State) (g : Nat) (f : Gang → Gang) : (s.modGang g f).busy = s.busy := rfl
@[simp] theorem State.modGang_mem (s : State) (g : Nat) (f : Gang → Gang) : (s.modGang g f).mem = s.mem := rfl
@[simp] theorem State.modGang_poison (s : State) (g : Nat) (f : Gang → Gang) : (s.modGang g f).poison = s.poison := rfl
@[simp] theorem State.modGang_watch (s : State) (g : Nat) (f : Gang → Gang) : (s.modGang g f).watch = s.watch := rfl
@[simp] theorem State.modGang_l2 (s : State) (g : Nat) (f : Gang → Gang) : (s.modGang g f).l2 = s.l2 := rfl
@[simp] theorem State.modGang_bypass (s : State) (g : Nat) (f : Gang → Gang) : (s.modGang g f).bypass = s.bypass := rfl
@[simp] theorem State.modGang_compressed (s : State) (g : Nat) (f : Gang → Gang) : (s.modGang g f).compressed = s.compressed := rfl
@[simp] theorem State.modGang_chanMap (s : State) (g : Nat) (f : Gang → Gang) : (s.modGang g f).chanMap = s.chanMap := rfl
@[simp] theorem State.modGang_chanFailed (s : State) (g : Nat) (f : Gang → Gang) : (s.modGang g f).chanFailed = s.chanFailed := rfl
@[simp] theorem State.modGang_activations (s : State) (g : Nat) (f : Gang → Gang) : (s.modGang g f).activations = s.activations := rfl
@[simp] theorem State.modGang_held (s : State) (g : Nat) (f : Gang → Gang) : (s.modGang g f).held = s.held := rfl
@[simp] theorem State.modGang_actAt (s : State) (g : Nat) (f : Gang → Gang) : (s.modGang g f).actAt = s.actAt := rfl
@[simp] theorem State.modGang_dieTlb (s : State) (g : Nat) (f : Gang → Gang) : (s.modGang g f).dieTlb = s.dieTlb := rfl
@[simp] theorem State.modGang_walkers (s : State) (g : Nat) (f : Gang → Gang) : (s.modGang g f).walkers = s.walkers := rfl
@[simp] theorem State.modGang_pcores (s : State) (g : Nat) (f : Gang → Gang) : (s.modGang g f).pcores = s.pcores := rfl
@[simp] theorem State.modGang_vfs (s : State) (g : Nat) (f : Gang → Gang) : (s.modGang g f).vfs = s.vfs := rfl
@[simp] theorem State.modGang_parts (s : State) (g : Nat) (f : Gang → Gang) : (s.modGang g f).parts = s.parts := rfl
@[simp] theorem State.modGang_quadMap (s : State) (g : Nat) (f : Gang → Gang) : (s.modGang g f).quadMap = s.quadMap := rfl
@[simp] theorem State.modGang_layoutVer (s : State) (g : Nat) (f : Gang → Gang) : (s.modGang g f).layoutVer = s.layoutVer := rfl
@[simp] theorem State.modGang_shadow (s : State) (g : Nat) (f : Gang → Gang) : (s.modGang g f).shadow = s.shadow := rfl
@[simp] theorem State.modGang_periodAt (s : State) (g : Nat) (f : Gang → Gang) : (s.modGang g f).periodAt = s.periodAt := rfl
@[simp] theorem State.modGang_tensors (s : State) (g : Nat) (f : Gang → Gang) : (s.modGang g f).tensors = s.tensors := rfl
@[simp] theorem State.modGang_tensorBlocks (s : State) (g : Nat) (f : Gang → Gang) : (s.modGang g f).tensorBlocks = s.tensorBlocks := rfl
@[simp] theorem State.modGang_marks (s : State) (g : Nat) (f : Gang → Gang) : (s.modGang g f).marks = s.marks := rfl
@[simp] theorem State.modGang_markBlocks (s : State) (g : Nat) (f : Gang → Gang) : (s.modGang g f).markBlocks = s.markBlocks := rfl
@[simp] theorem State.modGang_landing (s : State) (g : Nat) (f : Gang → Gang) : (s.modGang g f).landing = s.landing := rfl
@[simp] theorem State.modGang_ports (s : State) (g : Nat) (f : Gang → Gang) : (s.modGang g f).ports = s.ports := rfl
@[simp] theorem State.modGang_msi (s : State) (g : Nat) (f : Gang → Gang) : (s.modGang g f).msi = s.msi := rfl
@[simp] theorem State.modGang_root (s : State) (g : Nat) (f : Gang → Gang) : (s.modGang g f).root = s.root := rfl
@[simp] theorem State.modGang_power (s : State) (g : Nat) (f : Gang → Gang) : (s.modGang g f).power = s.power := rfl
@[simp] theorem State.modGang_ready (s : State) (g : Nat) (f : Gang → Gang) : (s.modGang g f).ready = s.ready := rfl

@[simp] theorem State.modVf_agenda (s : State) (v : Nat) (f : Vf → Vf) : (s.modVf v f).agenda = s.agenda := rfl
@[simp] theorem State.modVf_cur (s : State) (v : Nat) (f : Vf → Vf) : (s.modVf v f).cur = s.cur := rfl
@[simp] theorem State.modVf_free (s : State) (v : Nat) (f : Vf → Vf) : (s.modVf v f).free = s.free := rfl
@[simp] theorem State.modVf_nextGang (s : State) (v : Nat) (f : Vf → Vf) : (s.modVf v f).nextGang = s.nextGang := rfl
@[simp] theorem State.modVf_ac (s : State) (v : Nat) (f : Vf → Vf) : (s.modVf v f).ac = s.ac := rfl
@[simp] theorem State.modVf_time (s : State) (v : Nat) (f : Vf → Vf) : (s.modVf v f).time = s.time := rfl
@[simp] theorem State.modVf_coord (s : State) (v : Nat) (f : Vf → Vf) : (s.modVf v f).coord = s.coord := rfl
@[simp] theorem State.modVf_denied (s : State) (v : Nat) (f : Vf → Vf) : (s.modVf v f).denied = s.denied := rfl
@[simp] theorem State.modVf_silent (s : State) (v : Nat) (f : Vf → Vf) : (s.modVf v f).silent = s.silent := rfl
@[simp] theorem State.modVf_linkReqs (s : State) (v : Nat) (f : Vf → Vf) : (s.modVf v f).linkReqs = s.linkReqs := rfl
@[simp] theorem State.modVf_late (s : State) (v : Nat) (f : Vf → Vf) : (s.modVf v f).late = s.late := rfl
@[simp] theorem State.modVf_busy (s : State) (v : Nat) (f : Vf → Vf) : (s.modVf v f).busy = s.busy := rfl
@[simp] theorem State.modVf_mem (s : State) (v : Nat) (f : Vf → Vf) : (s.modVf v f).mem = s.mem := rfl
@[simp] theorem State.modVf_poison (s : State) (v : Nat) (f : Vf → Vf) : (s.modVf v f).poison = s.poison := rfl
@[simp] theorem State.modVf_watch (s : State) (v : Nat) (f : Vf → Vf) : (s.modVf v f).watch = s.watch := rfl
@[simp] theorem State.modVf_l2 (s : State) (v : Nat) (f : Vf → Vf) : (s.modVf v f).l2 = s.l2 := rfl
@[simp] theorem State.modVf_bypass (s : State) (v : Nat) (f : Vf → Vf) : (s.modVf v f).bypass = s.bypass := rfl
@[simp] theorem State.modVf_compressed (s : State) (v : Nat) (f : Vf → Vf) : (s.modVf v f).compressed = s.compressed := rfl
@[simp] theorem State.modVf_chanMap (s : State) (v : Nat) (f : Vf → Vf) : (s.modVf v f).chanMap = s.chanMap := rfl
@[simp] theorem State.modVf_chanFailed (s : State) (v : Nat) (f : Vf → Vf) : (s.modVf v f).chanFailed = s.chanFailed := rfl
@[simp] theorem State.modVf_activations (s : State) (v : Nat) (f : Vf → Vf) : (s.modVf v f).activations = s.activations := rfl
@[simp] theorem State.modVf_held (s : State) (v : Nat) (f : Vf → Vf) : (s.modVf v f).held = s.held := rfl
@[simp] theorem State.modVf_actAt (s : State) (v : Nat) (f : Vf → Vf) : (s.modVf v f).actAt = s.actAt := rfl
@[simp] theorem State.modVf_dieTlb (s : State) (v : Nat) (f : Vf → Vf) : (s.modVf v f).dieTlb = s.dieTlb := rfl
@[simp] theorem State.modVf_walkers (s : State) (v : Nat) (f : Vf → Vf) : (s.modVf v f).walkers = s.walkers := rfl
@[simp] theorem State.modVf_pcores (s : State) (v : Nat) (f : Vf → Vf) : (s.modVf v f).pcores = s.pcores := rfl
@[simp] theorem State.modVf_gangs (s : State) (v : Nat) (f : Vf → Vf) : (s.modVf v f).gangs = s.gangs := rfl
@[simp] theorem State.modVf_parts (s : State) (v : Nat) (f : Vf → Vf) : (s.modVf v f).parts = s.parts := rfl
@[simp] theorem State.modVf_quadMap (s : State) (v : Nat) (f : Vf → Vf) : (s.modVf v f).quadMap = s.quadMap := rfl
@[simp] theorem State.modVf_layoutVer (s : State) (v : Nat) (f : Vf → Vf) : (s.modVf v f).layoutVer = s.layoutVer := rfl
@[simp] theorem State.modVf_shadow (s : State) (v : Nat) (f : Vf → Vf) : (s.modVf v f).shadow = s.shadow := rfl
@[simp] theorem State.modVf_periodAt (s : State) (v : Nat) (f : Vf → Vf) : (s.modVf v f).periodAt = s.periodAt := rfl
@[simp] theorem State.modVf_tensors (s : State) (v : Nat) (f : Vf → Vf) : (s.modVf v f).tensors = s.tensors := rfl
@[simp] theorem State.modVf_tensorBlocks (s : State) (v : Nat) (f : Vf → Vf) : (s.modVf v f).tensorBlocks = s.tensorBlocks := rfl
@[simp] theorem State.modVf_marks (s : State) (v : Nat) (f : Vf → Vf) : (s.modVf v f).marks = s.marks := rfl
@[simp] theorem State.modVf_markBlocks (s : State) (v : Nat) (f : Vf → Vf) : (s.modVf v f).markBlocks = s.markBlocks := rfl
@[simp] theorem State.modVf_landing (s : State) (v : Nat) (f : Vf → Vf) : (s.modVf v f).landing = s.landing := rfl
@[simp] theorem State.modVf_ports (s : State) (v : Nat) (f : Vf → Vf) : (s.modVf v f).ports = s.ports := rfl
@[simp] theorem State.modVf_msi (s : State) (v : Nat) (f : Vf → Vf) : (s.modVf v f).msi = s.msi := rfl
@[simp] theorem State.modVf_root (s : State) (v : Nat) (f : Vf → Vf) : (s.modVf v f).root = s.root := rfl
@[simp] theorem State.modVf_power (s : State) (v : Nat) (f : Vf → Vf) : (s.modVf v f).power = s.power := rfl
@[simp] theorem State.modVf_ready (s : State) (v : Nat) (f : Vf → Vf) : (s.modVf v f).ready = s.ready := rfl

@[simp] theorem State.modPcore_agenda (s : State) (p : Nat) (f : PCore → PCore) : (s.modPcore p f).agenda = s.agenda := rfl
@[simp] theorem State.modPcore_cur (s : State) (p : Nat) (f : PCore → PCore) : (s.modPcore p f).cur = s.cur := rfl
@[simp] theorem State.modPcore_free (s : State) (p : Nat) (f : PCore → PCore) : (s.modPcore p f).free = s.free := rfl
@[simp] theorem State.modPcore_nextGang (s : State) (p : Nat) (f : PCore → PCore) : (s.modPcore p f).nextGang = s.nextGang := rfl
@[simp] theorem State.modPcore_ac (s : State) (p : Nat) (f : PCore → PCore) : (s.modPcore p f).ac = s.ac := rfl
@[simp] theorem State.modPcore_time (s : State) (p : Nat) (f : PCore → PCore) : (s.modPcore p f).time = s.time := rfl
@[simp] theorem State.modPcore_coord (s : State) (p : Nat) (f : PCore → PCore) : (s.modPcore p f).coord = s.coord := rfl
@[simp] theorem State.modPcore_denied (s : State) (p : Nat) (f : PCore → PCore) : (s.modPcore p f).denied = s.denied := rfl
@[simp] theorem State.modPcore_silent (s : State) (p : Nat) (f : PCore → PCore) : (s.modPcore p f).silent = s.silent := rfl
@[simp] theorem State.modPcore_linkReqs (s : State) (p : Nat) (f : PCore → PCore) : (s.modPcore p f).linkReqs = s.linkReqs := rfl
@[simp] theorem State.modPcore_late (s : State) (p : Nat) (f : PCore → PCore) : (s.modPcore p f).late = s.late := rfl
@[simp] theorem State.modPcore_busy (s : State) (p : Nat) (f : PCore → PCore) : (s.modPcore p f).busy = s.busy := rfl
@[simp] theorem State.modPcore_mem (s : State) (p : Nat) (f : PCore → PCore) : (s.modPcore p f).mem = s.mem := rfl
@[simp] theorem State.modPcore_poison (s : State) (p : Nat) (f : PCore → PCore) : (s.modPcore p f).poison = s.poison := rfl
@[simp] theorem State.modPcore_watch (s : State) (p : Nat) (f : PCore → PCore) : (s.modPcore p f).watch = s.watch := rfl
@[simp] theorem State.modPcore_l2 (s : State) (p : Nat) (f : PCore → PCore) : (s.modPcore p f).l2 = s.l2 := rfl
@[simp] theorem State.modPcore_bypass (s : State) (p : Nat) (f : PCore → PCore) : (s.modPcore p f).bypass = s.bypass := rfl
@[simp] theorem State.modPcore_compressed (s : State) (p : Nat) (f : PCore → PCore) : (s.modPcore p f).compressed = s.compressed := rfl
@[simp] theorem State.modPcore_chanMap (s : State) (p : Nat) (f : PCore → PCore) : (s.modPcore p f).chanMap = s.chanMap := rfl
@[simp] theorem State.modPcore_chanFailed (s : State) (p : Nat) (f : PCore → PCore) : (s.modPcore p f).chanFailed = s.chanFailed := rfl
@[simp] theorem State.modPcore_activations (s : State) (p : Nat) (f : PCore → PCore) : (s.modPcore p f).activations = s.activations := rfl
@[simp] theorem State.modPcore_held (s : State) (p : Nat) (f : PCore → PCore) : (s.modPcore p f).held = s.held := rfl
@[simp] theorem State.modPcore_actAt (s : State) (p : Nat) (f : PCore → PCore) : (s.modPcore p f).actAt = s.actAt := rfl
@[simp] theorem State.modPcore_dieTlb (s : State) (p : Nat) (f : PCore → PCore) : (s.modPcore p f).dieTlb = s.dieTlb := rfl
@[simp] theorem State.modPcore_walkers (s : State) (p : Nat) (f : PCore → PCore) : (s.modPcore p f).walkers = s.walkers := rfl
@[simp] theorem State.modPcore_gangs (s : State) (p : Nat) (f : PCore → PCore) : (s.modPcore p f).gangs = s.gangs := rfl
@[simp] theorem State.modPcore_vfs (s : State) (p : Nat) (f : PCore → PCore) : (s.modPcore p f).vfs = s.vfs := rfl
@[simp] theorem State.modPcore_parts (s : State) (p : Nat) (f : PCore → PCore) : (s.modPcore p f).parts = s.parts := rfl
@[simp] theorem State.modPcore_quadMap (s : State) (p : Nat) (f : PCore → PCore) : (s.modPcore p f).quadMap = s.quadMap := rfl
@[simp] theorem State.modPcore_layoutVer (s : State) (p : Nat) (f : PCore → PCore) : (s.modPcore p f).layoutVer = s.layoutVer := rfl
@[simp] theorem State.modPcore_shadow (s : State) (p : Nat) (f : PCore → PCore) : (s.modPcore p f).shadow = s.shadow := rfl
@[simp] theorem State.modPcore_periodAt (s : State) (p : Nat) (f : PCore → PCore) : (s.modPcore p f).periodAt = s.periodAt := rfl
@[simp] theorem State.modPcore_tensors (s : State) (p : Nat) (f : PCore → PCore) : (s.modPcore p f).tensors = s.tensors := rfl
@[simp] theorem State.modPcore_tensorBlocks (s : State) (p : Nat) (f : PCore → PCore) : (s.modPcore p f).tensorBlocks = s.tensorBlocks := rfl
@[simp] theorem State.modPcore_marks (s : State) (p : Nat) (f : PCore → PCore) : (s.modPcore p f).marks = s.marks := rfl
@[simp] theorem State.modPcore_markBlocks (s : State) (p : Nat) (f : PCore → PCore) : (s.modPcore p f).markBlocks = s.markBlocks := rfl
@[simp] theorem State.modPcore_landing (s : State) (p : Nat) (f : PCore → PCore) : (s.modPcore p f).landing = s.landing := rfl
@[simp] theorem State.modPcore_ports (s : State) (p : Nat) (f : PCore → PCore) : (s.modPcore p f).ports = s.ports := rfl
@[simp] theorem State.modPcore_msi (s : State) (p : Nat) (f : PCore → PCore) : (s.modPcore p f).msi = s.msi := rfl
@[simp] theorem State.modPcore_root (s : State) (p : Nat) (f : PCore → PCore) : (s.modPcore p f).root = s.root := rfl
@[simp] theorem State.modPcore_power (s : State) (p : Nat) (f : PCore → PCore) : (s.modPcore p f).power = s.power := rfl
@[simp] theorem State.modPcore_ready (s : State) (p : Nat) (f : PCore → PCore) : (s.modPcore p f).ready = s.ready := rfl

@[simp] theorem State.modCore_agenda (s : State) (g c : Nat) (f : Core → Core) : (s.modCore g c f).agenda = s.agenda := rfl
@[simp] theorem State.modCore_cur (s : State) (g c : Nat) (f : Core → Core) : (s.modCore g c f).cur = s.cur := rfl
@[simp] theorem State.modCore_free (s : State) (g c : Nat) (f : Core → Core) : (s.modCore g c f).free = s.free := rfl
@[simp] theorem State.modCore_nextGang (s : State) (g c : Nat) (f : Core → Core) : (s.modCore g c f).nextGang = s.nextGang := rfl
@[simp] theorem State.modCore_ac (s : State) (g c : Nat) (f : Core → Core) : (s.modCore g c f).ac = s.ac := rfl
@[simp] theorem State.modCore_time (s : State) (g c : Nat) (f : Core → Core) : (s.modCore g c f).time = s.time := rfl
@[simp] theorem State.modCore_coord (s : State) (g c : Nat) (f : Core → Core) : (s.modCore g c f).coord = s.coord := rfl
@[simp] theorem State.modCore_denied (s : State) (g c : Nat) (f : Core → Core) : (s.modCore g c f).denied = s.denied := rfl
@[simp] theorem State.modCore_silent (s : State) (g c : Nat) (f : Core → Core) : (s.modCore g c f).silent = s.silent := rfl
@[simp] theorem State.modCore_linkReqs (s : State) (g c : Nat) (f : Core → Core) : (s.modCore g c f).linkReqs = s.linkReqs := rfl
@[simp] theorem State.modCore_late (s : State) (g c : Nat) (f : Core → Core) : (s.modCore g c f).late = s.late := rfl
@[simp] theorem State.modCore_busy (s : State) (g c : Nat) (f : Core → Core) : (s.modCore g c f).busy = s.busy := rfl
@[simp] theorem State.modCore_mem (s : State) (g c : Nat) (f : Core → Core) : (s.modCore g c f).mem = s.mem := rfl
@[simp] theorem State.modCore_poison (s : State) (g c : Nat) (f : Core → Core) : (s.modCore g c f).poison = s.poison := rfl
@[simp] theorem State.modCore_watch (s : State) (g c : Nat) (f : Core → Core) : (s.modCore g c f).watch = s.watch := rfl
@[simp] theorem State.modCore_l2 (s : State) (g c : Nat) (f : Core → Core) : (s.modCore g c f).l2 = s.l2 := rfl
@[simp] theorem State.modCore_bypass (s : State) (g c : Nat) (f : Core → Core) : (s.modCore g c f).bypass = s.bypass := rfl
@[simp] theorem State.modCore_compressed (s : State) (g c : Nat) (f : Core → Core) : (s.modCore g c f).compressed = s.compressed := rfl
@[simp] theorem State.modCore_chanMap (s : State) (g c : Nat) (f : Core → Core) : (s.modCore g c f).chanMap = s.chanMap := rfl
@[simp] theorem State.modCore_chanFailed (s : State) (g c : Nat) (f : Core → Core) : (s.modCore g c f).chanFailed = s.chanFailed := rfl
@[simp] theorem State.modCore_activations (s : State) (g c : Nat) (f : Core → Core) : (s.modCore g c f).activations = s.activations := rfl
@[simp] theorem State.modCore_held (s : State) (g c : Nat) (f : Core → Core) : (s.modCore g c f).held = s.held := rfl
@[simp] theorem State.modCore_actAt (s : State) (g c : Nat) (f : Core → Core) : (s.modCore g c f).actAt = s.actAt := rfl
@[simp] theorem State.modCore_dieTlb (s : State) (g c : Nat) (f : Core → Core) : (s.modCore g c f).dieTlb = s.dieTlb := rfl
@[simp] theorem State.modCore_walkers (s : State) (g c : Nat) (f : Core → Core) : (s.modCore g c f).walkers = s.walkers := rfl
@[simp] theorem State.modCore_pcores (s : State) (g c : Nat) (f : Core → Core) : (s.modCore g c f).pcores = s.pcores := rfl
@[simp] theorem State.modCore_vfs (s : State) (g c : Nat) (f : Core → Core) : (s.modCore g c f).vfs = s.vfs := rfl
@[simp] theorem State.modCore_parts (s : State) (g c : Nat) (f : Core → Core) : (s.modCore g c f).parts = s.parts := rfl
@[simp] theorem State.modCore_quadMap (s : State) (g c : Nat) (f : Core → Core) : (s.modCore g c f).quadMap = s.quadMap := rfl
@[simp] theorem State.modCore_layoutVer (s : State) (g c : Nat) (f : Core → Core) : (s.modCore g c f).layoutVer = s.layoutVer := rfl
@[simp] theorem State.modCore_shadow (s : State) (g c : Nat) (f : Core → Core) : (s.modCore g c f).shadow = s.shadow := rfl
@[simp] theorem State.modCore_periodAt (s : State) (g c : Nat) (f : Core → Core) : (s.modCore g c f).periodAt = s.periodAt := rfl
@[simp] theorem State.modCore_tensors (s : State) (g c : Nat) (f : Core → Core) : (s.modCore g c f).tensors = s.tensors := rfl
@[simp] theorem State.modCore_tensorBlocks (s : State) (g c : Nat) (f : Core → Core) : (s.modCore g c f).tensorBlocks = s.tensorBlocks := rfl
@[simp] theorem State.modCore_marks (s : State) (g c : Nat) (f : Core → Core) : (s.modCore g c f).marks = s.marks := rfl
@[simp] theorem State.modCore_markBlocks (s : State) (g c : Nat) (f : Core → Core) : (s.modCore g c f).markBlocks = s.markBlocks := rfl
@[simp] theorem State.modCore_landing (s : State) (g c : Nat) (f : Core → Core) : (s.modCore g c f).landing = s.landing := rfl
@[simp] theorem State.modCore_ports (s : State) (g c : Nat) (f : Core → Core) : (s.modCore g c f).ports = s.ports := rfl
@[simp] theorem State.modCore_msi (s : State) (g c : Nat) (f : Core → Core) : (s.modCore g c f).msi = s.msi := rfl
@[simp] theorem State.modCore_root (s : State) (g c : Nat) (f : Core → Core) : (s.modCore g c f).root = s.root := rfl
@[simp] theorem State.modCore_power (s : State) (g c : Nat) (f : Core → Core) : (s.modCore g c f).power = s.power := rfl
@[simp] theorem State.modCore_ready (s : State) (g c : Nat) (f : Core → Core) : (s.modCore g c f).ready = s.ready := rfl

@[simp] theorem State.modTaper_agenda (s : State) (g c : Nat) (f : Taper → Taper) : (s.modTaper g c f).agenda = s.agenda := rfl
@[simp] theorem State.modTaper_cur (s : State) (g c : Nat) (f : Taper → Taper) : (s.modTaper g c f).cur = s.cur := rfl
@[simp] theorem State.modTaper_free (s : State) (g c : Nat) (f : Taper → Taper) : (s.modTaper g c f).free = s.free := rfl
@[simp] theorem State.modTaper_nextGang (s : State) (g c : Nat) (f : Taper → Taper) : (s.modTaper g c f).nextGang = s.nextGang := rfl
@[simp] theorem State.modTaper_ac (s : State) (g c : Nat) (f : Taper → Taper) : (s.modTaper g c f).ac = s.ac := rfl
@[simp] theorem State.modTaper_time (s : State) (g c : Nat) (f : Taper → Taper) : (s.modTaper g c f).time = s.time := rfl
@[simp] theorem State.modTaper_coord (s : State) (g c : Nat) (f : Taper → Taper) : (s.modTaper g c f).coord = s.coord := rfl
@[simp] theorem State.modTaper_denied (s : State) (g c : Nat) (f : Taper → Taper) : (s.modTaper g c f).denied = s.denied := rfl
@[simp] theorem State.modTaper_silent (s : State) (g c : Nat) (f : Taper → Taper) : (s.modTaper g c f).silent = s.silent := rfl
@[simp] theorem State.modTaper_linkReqs (s : State) (g c : Nat) (f : Taper → Taper) : (s.modTaper g c f).linkReqs = s.linkReqs := rfl
@[simp] theorem State.modTaper_late (s : State) (g c : Nat) (f : Taper → Taper) : (s.modTaper g c f).late = s.late := rfl
@[simp] theorem State.modTaper_busy (s : State) (g c : Nat) (f : Taper → Taper) : (s.modTaper g c f).busy = s.busy := rfl
@[simp] theorem State.modTaper_mem (s : State) (g c : Nat) (f : Taper → Taper) : (s.modTaper g c f).mem = s.mem := rfl
@[simp] theorem State.modTaper_poison (s : State) (g c : Nat) (f : Taper → Taper) : (s.modTaper g c f).poison = s.poison := rfl
@[simp] theorem State.modTaper_watch (s : State) (g c : Nat) (f : Taper → Taper) : (s.modTaper g c f).watch = s.watch := rfl
@[simp] theorem State.modTaper_l2 (s : State) (g c : Nat) (f : Taper → Taper) : (s.modTaper g c f).l2 = s.l2 := rfl
@[simp] theorem State.modTaper_bypass (s : State) (g c : Nat) (f : Taper → Taper) : (s.modTaper g c f).bypass = s.bypass := rfl
@[simp] theorem State.modTaper_compressed (s : State) (g c : Nat) (f : Taper → Taper) : (s.modTaper g c f).compressed = s.compressed := rfl
@[simp] theorem State.modTaper_chanMap (s : State) (g c : Nat) (f : Taper → Taper) : (s.modTaper g c f).chanMap = s.chanMap := rfl
@[simp] theorem State.modTaper_chanFailed (s : State) (g c : Nat) (f : Taper → Taper) : (s.modTaper g c f).chanFailed = s.chanFailed := rfl
@[simp] theorem State.modTaper_activations (s : State) (g c : Nat) (f : Taper → Taper) : (s.modTaper g c f).activations = s.activations := rfl
@[simp] theorem State.modTaper_held (s : State) (g c : Nat) (f : Taper → Taper) : (s.modTaper g c f).held = s.held := rfl
@[simp] theorem State.modTaper_actAt (s : State) (g c : Nat) (f : Taper → Taper) : (s.modTaper g c f).actAt = s.actAt := rfl
@[simp] theorem State.modTaper_dieTlb (s : State) (g c : Nat) (f : Taper → Taper) : (s.modTaper g c f).dieTlb = s.dieTlb := rfl
@[simp] theorem State.modTaper_walkers (s : State) (g c : Nat) (f : Taper → Taper) : (s.modTaper g c f).walkers = s.walkers := rfl
@[simp] theorem State.modTaper_pcores (s : State) (g c : Nat) (f : Taper → Taper) : (s.modTaper g c f).pcores = s.pcores := rfl
@[simp] theorem State.modTaper_vfs (s : State) (g c : Nat) (f : Taper → Taper) : (s.modTaper g c f).vfs = s.vfs := rfl
@[simp] theorem State.modTaper_parts (s : State) (g c : Nat) (f : Taper → Taper) : (s.modTaper g c f).parts = s.parts := rfl
@[simp] theorem State.modTaper_quadMap (s : State) (g c : Nat) (f : Taper → Taper) : (s.modTaper g c f).quadMap = s.quadMap := rfl
@[simp] theorem State.modTaper_layoutVer (s : State) (g c : Nat) (f : Taper → Taper) : (s.modTaper g c f).layoutVer = s.layoutVer := rfl
@[simp] theorem State.modTaper_shadow (s : State) (g c : Nat) (f : Taper → Taper) : (s.modTaper g c f).shadow = s.shadow := rfl
@[simp] theorem State.modTaper_periodAt (s : State) (g c : Nat) (f : Taper → Taper) : (s.modTaper g c f).periodAt = s.periodAt := rfl
@[simp] theorem State.modTaper_tensors (s : State) (g c : Nat) (f : Taper → Taper) : (s.modTaper g c f).tensors = s.tensors := rfl
@[simp] theorem State.modTaper_tensorBlocks (s : State) (g c : Nat) (f : Taper → Taper) : (s.modTaper g c f).tensorBlocks = s.tensorBlocks := rfl
@[simp] theorem State.modTaper_marks (s : State) (g c : Nat) (f : Taper → Taper) : (s.modTaper g c f).marks = s.marks := rfl
@[simp] theorem State.modTaper_markBlocks (s : State) (g c : Nat) (f : Taper → Taper) : (s.modTaper g c f).markBlocks = s.markBlocks := rfl
@[simp] theorem State.modTaper_landing (s : State) (g c : Nat) (f : Taper → Taper) : (s.modTaper g c f).landing = s.landing := rfl
@[simp] theorem State.modTaper_ports (s : State) (g c : Nat) (f : Taper → Taper) : (s.modTaper g c f).ports = s.ports := rfl
@[simp] theorem State.modTaper_msi (s : State) (g c : Nat) (f : Taper → Taper) : (s.modTaper g c f).msi = s.msi := rfl
@[simp] theorem State.modTaper_root (s : State) (g c : Nat) (f : Taper → Taper) : (s.modTaper g c f).root = s.root := rfl
@[simp] theorem State.modTaper_power (s : State) (g c : Nat) (f : Taper → Taper) : (s.modTaper g c f).power = s.power := rfl
@[simp] theorem State.modTaper_ready (s : State) (g c : Nat) (f : Taper → Taper) : (s.modTaper g c f).ready = s.ready := rfl

@[simp] theorem State.modWick_agenda (s : State) (g c : Nat) (w : Fin 8) (f : Wick → Wick) : (s.modWick g c w f).agenda = s.agenda := rfl
@[simp] theorem State.modWick_cur (s : State) (g c : Nat) (w : Fin 8) (f : Wick → Wick) : (s.modWick g c w f).cur = s.cur := rfl
@[simp] theorem State.modWick_free (s : State) (g c : Nat) (w : Fin 8) (f : Wick → Wick) : (s.modWick g c w f).free = s.free := rfl
@[simp] theorem State.modWick_nextGang (s : State) (g c : Nat) (w : Fin 8) (f : Wick → Wick) : (s.modWick g c w f).nextGang = s.nextGang := rfl
@[simp] theorem State.modWick_ac (s : State) (g c : Nat) (w : Fin 8) (f : Wick → Wick) : (s.modWick g c w f).ac = s.ac := rfl
@[simp] theorem State.modWick_time (s : State) (g c : Nat) (w : Fin 8) (f : Wick → Wick) : (s.modWick g c w f).time = s.time := rfl
@[simp] theorem State.modWick_coord (s : State) (g c : Nat) (w : Fin 8) (f : Wick → Wick) : (s.modWick g c w f).coord = s.coord := rfl
@[simp] theorem State.modWick_denied (s : State) (g c : Nat) (w : Fin 8) (f : Wick → Wick) : (s.modWick g c w f).denied = s.denied := rfl
@[simp] theorem State.modWick_silent (s : State) (g c : Nat) (w : Fin 8) (f : Wick → Wick) : (s.modWick g c w f).silent = s.silent := rfl
@[simp] theorem State.modWick_linkReqs (s : State) (g c : Nat) (w : Fin 8) (f : Wick → Wick) : (s.modWick g c w f).linkReqs = s.linkReqs := rfl
@[simp] theorem State.modWick_late (s : State) (g c : Nat) (w : Fin 8) (f : Wick → Wick) : (s.modWick g c w f).late = s.late := rfl
@[simp] theorem State.modWick_busy (s : State) (g c : Nat) (w : Fin 8) (f : Wick → Wick) : (s.modWick g c w f).busy = s.busy := rfl
@[simp] theorem State.modWick_mem (s : State) (g c : Nat) (w : Fin 8) (f : Wick → Wick) : (s.modWick g c w f).mem = s.mem := rfl
@[simp] theorem State.modWick_poison (s : State) (g c : Nat) (w : Fin 8) (f : Wick → Wick) : (s.modWick g c w f).poison = s.poison := rfl
@[simp] theorem State.modWick_watch (s : State) (g c : Nat) (w : Fin 8) (f : Wick → Wick) : (s.modWick g c w f).watch = s.watch := rfl
@[simp] theorem State.modWick_l2 (s : State) (g c : Nat) (w : Fin 8) (f : Wick → Wick) : (s.modWick g c w f).l2 = s.l2 := rfl
@[simp] theorem State.modWick_bypass (s : State) (g c : Nat) (w : Fin 8) (f : Wick → Wick) : (s.modWick g c w f).bypass = s.bypass := rfl
@[simp] theorem State.modWick_compressed (s : State) (g c : Nat) (w : Fin 8) (f : Wick → Wick) : (s.modWick g c w f).compressed = s.compressed := rfl
@[simp] theorem State.modWick_chanMap (s : State) (g c : Nat) (w : Fin 8) (f : Wick → Wick) : (s.modWick g c w f).chanMap = s.chanMap := rfl
@[simp] theorem State.modWick_chanFailed (s : State) (g c : Nat) (w : Fin 8) (f : Wick → Wick) : (s.modWick g c w f).chanFailed = s.chanFailed := rfl
@[simp] theorem State.modWick_activations (s : State) (g c : Nat) (w : Fin 8) (f : Wick → Wick) : (s.modWick g c w f).activations = s.activations := rfl
@[simp] theorem State.modWick_held (s : State) (g c : Nat) (w : Fin 8) (f : Wick → Wick) : (s.modWick g c w f).held = s.held := rfl
@[simp] theorem State.modWick_actAt (s : State) (g c : Nat) (w : Fin 8) (f : Wick → Wick) : (s.modWick g c w f).actAt = s.actAt := rfl
@[simp] theorem State.modWick_dieTlb (s : State) (g c : Nat) (w : Fin 8) (f : Wick → Wick) : (s.modWick g c w f).dieTlb = s.dieTlb := rfl
@[simp] theorem State.modWick_walkers (s : State) (g c : Nat) (w : Fin 8) (f : Wick → Wick) : (s.modWick g c w f).walkers = s.walkers := rfl
@[simp] theorem State.modWick_pcores (s : State) (g c : Nat) (w : Fin 8) (f : Wick → Wick) : (s.modWick g c w f).pcores = s.pcores := rfl
@[simp] theorem State.modWick_vfs (s : State) (g c : Nat) (w : Fin 8) (f : Wick → Wick) : (s.modWick g c w f).vfs = s.vfs := rfl
@[simp] theorem State.modWick_parts (s : State) (g c : Nat) (w : Fin 8) (f : Wick → Wick) : (s.modWick g c w f).parts = s.parts := rfl
@[simp] theorem State.modWick_quadMap (s : State) (g c : Nat) (w : Fin 8) (f : Wick → Wick) : (s.modWick g c w f).quadMap = s.quadMap := rfl
@[simp] theorem State.modWick_layoutVer (s : State) (g c : Nat) (w : Fin 8) (f : Wick → Wick) : (s.modWick g c w f).layoutVer = s.layoutVer := rfl
@[simp] theorem State.modWick_shadow (s : State) (g c : Nat) (w : Fin 8) (f : Wick → Wick) : (s.modWick g c w f).shadow = s.shadow := rfl
@[simp] theorem State.modWick_periodAt (s : State) (g c : Nat) (w : Fin 8) (f : Wick → Wick) : (s.modWick g c w f).periodAt = s.periodAt := rfl
@[simp] theorem State.modWick_tensors (s : State) (g c : Nat) (w : Fin 8) (f : Wick → Wick) : (s.modWick g c w f).tensors = s.tensors := rfl
@[simp] theorem State.modWick_tensorBlocks (s : State) (g c : Nat) (w : Fin 8) (f : Wick → Wick) : (s.modWick g c w f).tensorBlocks = s.tensorBlocks := rfl
@[simp] theorem State.modWick_marks (s : State) (g c : Nat) (w : Fin 8) (f : Wick → Wick) : (s.modWick g c w f).marks = s.marks := rfl
@[simp] theorem State.modWick_markBlocks (s : State) (g c : Nat) (w : Fin 8) (f : Wick → Wick) : (s.modWick g c w f).markBlocks = s.markBlocks := rfl
@[simp] theorem State.modWick_landing (s : State) (g c : Nat) (w : Fin 8) (f : Wick → Wick) : (s.modWick g c w f).landing = s.landing := rfl
@[simp] theorem State.modWick_ports (s : State) (g c : Nat) (w : Fin 8) (f : Wick → Wick) : (s.modWick g c w f).ports = s.ports := rfl
@[simp] theorem State.modWick_msi (s : State) (g c : Nat) (w : Fin 8) (f : Wick → Wick) : (s.modWick g c w f).msi = s.msi := rfl
@[simp] theorem State.modWick_root (s : State) (g c : Nat) (w : Fin 8) (f : Wick → Wick) : (s.modWick g c w f).root = s.root := rfl
@[simp] theorem State.modWick_power (s : State) (g c : Nat) (w : Fin 8) (f : Wick → Wick) : (s.modWick g c w f).power = s.power := rfl
@[simp] theorem State.modWick_ready (s : State) (g c : Nat) (w : Fin 8) (f : Wick → Wick) : (s.modWick g c w f).ready = s.ready := rfl

@[simp] theorem State.progress_agenda (s : State) (g : Nat) : (s.progress g).agenda = s.agenda := rfl
@[simp] theorem State.progress_cur (s : State) (g : Nat) : (s.progress g).cur = s.cur := rfl
@[simp] theorem State.progress_free (s : State) (g : Nat) : (s.progress g).free = s.free := rfl
@[simp] theorem State.progress_nextGang (s : State) (g : Nat) : (s.progress g).nextGang = s.nextGang := rfl
@[simp] theorem State.progress_ac (s : State) (g : Nat) : (s.progress g).ac = s.ac := rfl
@[simp] theorem State.progress_time (s : State) (g : Nat) : (s.progress g).time = s.time := rfl
@[simp] theorem State.progress_coord (s : State) (g : Nat) : (s.progress g).coord = s.coord := rfl
@[simp] theorem State.progress_denied (s : State) (g : Nat) : (s.progress g).denied = s.denied := rfl
@[simp] theorem State.progress_silent (s : State) (g : Nat) : (s.progress g).silent = s.silent := rfl
@[simp] theorem State.progress_linkReqs (s : State) (g : Nat) : (s.progress g).linkReqs = s.linkReqs := rfl
@[simp] theorem State.progress_late (s : State) (g : Nat) : (s.progress g).late = s.late := rfl
@[simp] theorem State.progress_busy (s : State) (g : Nat) : (s.progress g).busy = s.busy := rfl
@[simp] theorem State.progress_mem (s : State) (g : Nat) : (s.progress g).mem = s.mem := rfl
@[simp] theorem State.progress_poison (s : State) (g : Nat) : (s.progress g).poison = s.poison := rfl
@[simp] theorem State.progress_watch (s : State) (g : Nat) : (s.progress g).watch = s.watch := rfl
@[simp] theorem State.progress_l2 (s : State) (g : Nat) : (s.progress g).l2 = s.l2 := rfl
@[simp] theorem State.progress_bypass (s : State) (g : Nat) : (s.progress g).bypass = s.bypass := rfl
@[simp] theorem State.progress_compressed (s : State) (g : Nat) : (s.progress g).compressed = s.compressed := rfl
@[simp] theorem State.progress_chanMap (s : State) (g : Nat) : (s.progress g).chanMap = s.chanMap := rfl
@[simp] theorem State.progress_chanFailed (s : State) (g : Nat) : (s.progress g).chanFailed = s.chanFailed := rfl
@[simp] theorem State.progress_activations (s : State) (g : Nat) : (s.progress g).activations = s.activations := rfl
@[simp] theorem State.progress_held (s : State) (g : Nat) : (s.progress g).held = s.held := rfl
@[simp] theorem State.progress_actAt (s : State) (g : Nat) : (s.progress g).actAt = s.actAt := rfl
@[simp] theorem State.progress_dieTlb (s : State) (g : Nat) : (s.progress g).dieTlb = s.dieTlb := rfl
@[simp] theorem State.progress_walkers (s : State) (g : Nat) : (s.progress g).walkers = s.walkers := rfl
@[simp] theorem State.progress_pcores (s : State) (g : Nat) : (s.progress g).pcores = s.pcores := rfl
@[simp] theorem State.progress_vfs (s : State) (g : Nat) : (s.progress g).vfs = s.vfs := rfl
@[simp] theorem State.progress_parts (s : State) (g : Nat) : (s.progress g).parts = s.parts := rfl
@[simp] theorem State.progress_quadMap (s : State) (g : Nat) : (s.progress g).quadMap = s.quadMap := rfl
@[simp] theorem State.progress_layoutVer (s : State) (g : Nat) : (s.progress g).layoutVer = s.layoutVer := rfl
@[simp] theorem State.progress_shadow (s : State) (g : Nat) : (s.progress g).shadow = s.shadow := rfl
@[simp] theorem State.progress_periodAt (s : State) (g : Nat) : (s.progress g).periodAt = s.periodAt := rfl
@[simp] theorem State.progress_tensors (s : State) (g : Nat) : (s.progress g).tensors = s.tensors := rfl
@[simp] theorem State.progress_tensorBlocks (s : State) (g : Nat) : (s.progress g).tensorBlocks = s.tensorBlocks := rfl
@[simp] theorem State.progress_marks (s : State) (g : Nat) : (s.progress g).marks = s.marks := rfl
@[simp] theorem State.progress_markBlocks (s : State) (g : Nat) : (s.progress g).markBlocks = s.markBlocks := rfl
@[simp] theorem State.progress_landing (s : State) (g : Nat) : (s.progress g).landing = s.landing := rfl
@[simp] theorem State.progress_ports (s : State) (g : Nat) : (s.progress g).ports = s.ports := rfl
@[simp] theorem State.progress_msi (s : State) (g : Nat) : (s.progress g).msi = s.msi := rfl
@[simp] theorem State.progress_root (s : State) (g : Nat) : (s.progress g).root = s.root := rfl
@[simp] theorem State.progress_power (s : State) (g : Nat) : (s.progress g).power = s.power := rfl
@[simp] theorem State.progress_ready (s : State) (g : Nat) : (s.progress g).ready = s.ready := rfl

@[simp] theorem State.modCur_agenda (s : State) (w : Fin 8) (f : Wick → Wick) : (s.modCur w f).agenda = s.agenda := rfl
@[simp] theorem State.modCur_cur (s : State) (w : Fin 8) (f : Wick → Wick) : (s.modCur w f).cur = s.cur := rfl
@[simp] theorem State.modCur_free (s : State) (w : Fin 8) (f : Wick → Wick) : (s.modCur w f).free = s.free := rfl
@[simp] theorem State.modCur_nextGang (s : State) (w : Fin 8) (f : Wick → Wick) : (s.modCur w f).nextGang = s.nextGang := rfl
@[simp] theorem State.modCur_ac (s : State) (w : Fin 8) (f : Wick → Wick) : (s.modCur w f).ac = s.ac := rfl
@[simp] theorem State.modCur_time (s : State) (w : Fin 8) (f : Wick → Wick) : (s.modCur w f).time = s.time := rfl
@[simp] theorem State.modCur_coord (s : State) (w : Fin 8) (f : Wick → Wick) : (s.modCur w f).coord = s.coord := rfl
@[simp] theorem State.modCur_denied (s : State) (w : Fin 8) (f : Wick → Wick) : (s.modCur w f).denied = s.denied := rfl
@[simp] theorem State.modCur_silent (s : State) (w : Fin 8) (f : Wick → Wick) : (s.modCur w f).silent = s.silent := rfl
@[simp] theorem State.modCur_linkReqs (s : State) (w : Fin 8) (f : Wick → Wick) : (s.modCur w f).linkReqs = s.linkReqs := rfl
@[simp] theorem State.modCur_late (s : State) (w : Fin 8) (f : Wick → Wick) : (s.modCur w f).late = s.late := rfl
@[simp] theorem State.modCur_busy (s : State) (w : Fin 8) (f : Wick → Wick) : (s.modCur w f).busy = s.busy := rfl
@[simp] theorem State.modCur_mem (s : State) (w : Fin 8) (f : Wick → Wick) : (s.modCur w f).mem = s.mem := rfl
@[simp] theorem State.modCur_poison (s : State) (w : Fin 8) (f : Wick → Wick) : (s.modCur w f).poison = s.poison := rfl
@[simp] theorem State.modCur_watch (s : State) (w : Fin 8) (f : Wick → Wick) : (s.modCur w f).watch = s.watch := rfl
@[simp] theorem State.modCur_l2 (s : State) (w : Fin 8) (f : Wick → Wick) : (s.modCur w f).l2 = s.l2 := rfl
@[simp] theorem State.modCur_bypass (s : State) (w : Fin 8) (f : Wick → Wick) : (s.modCur w f).bypass = s.bypass := rfl
@[simp] theorem State.modCur_compressed (s : State) (w : Fin 8) (f : Wick → Wick) : (s.modCur w f).compressed = s.compressed := rfl
@[simp] theorem State.modCur_chanMap (s : State) (w : Fin 8) (f : Wick → Wick) : (s.modCur w f).chanMap = s.chanMap := rfl
@[simp] theorem State.modCur_chanFailed (s : State) (w : Fin 8) (f : Wick → Wick) : (s.modCur w f).chanFailed = s.chanFailed := rfl
@[simp] theorem State.modCur_activations (s : State) (w : Fin 8) (f : Wick → Wick) : (s.modCur w f).activations = s.activations := rfl
@[simp] theorem State.modCur_held (s : State) (w : Fin 8) (f : Wick → Wick) : (s.modCur w f).held = s.held := rfl
@[simp] theorem State.modCur_actAt (s : State) (w : Fin 8) (f : Wick → Wick) : (s.modCur w f).actAt = s.actAt := rfl
@[simp] theorem State.modCur_dieTlb (s : State) (w : Fin 8) (f : Wick → Wick) : (s.modCur w f).dieTlb = s.dieTlb := rfl
@[simp] theorem State.modCur_walkers (s : State) (w : Fin 8) (f : Wick → Wick) : (s.modCur w f).walkers = s.walkers := rfl
@[simp] theorem State.modCur_pcores (s : State) (w : Fin 8) (f : Wick → Wick) : (s.modCur w f).pcores = s.pcores := rfl
@[simp] theorem State.modCur_vfs (s : State) (w : Fin 8) (f : Wick → Wick) : (s.modCur w f).vfs = s.vfs := rfl
@[simp] theorem State.modCur_parts (s : State) (w : Fin 8) (f : Wick → Wick) : (s.modCur w f).parts = s.parts := rfl
@[simp] theorem State.modCur_quadMap (s : State) (w : Fin 8) (f : Wick → Wick) : (s.modCur w f).quadMap = s.quadMap := rfl
@[simp] theorem State.modCur_layoutVer (s : State) (w : Fin 8) (f : Wick → Wick) : (s.modCur w f).layoutVer = s.layoutVer := rfl
@[simp] theorem State.modCur_shadow (s : State) (w : Fin 8) (f : Wick → Wick) : (s.modCur w f).shadow = s.shadow := rfl
@[simp] theorem State.modCur_periodAt (s : State) (w : Fin 8) (f : Wick → Wick) : (s.modCur w f).periodAt = s.periodAt := rfl
@[simp] theorem State.modCur_tensors (s : State) (w : Fin 8) (f : Wick → Wick) : (s.modCur w f).tensors = s.tensors := rfl
@[simp] theorem State.modCur_tensorBlocks (s : State) (w : Fin 8) (f : Wick → Wick) : (s.modCur w f).tensorBlocks = s.tensorBlocks := rfl
@[simp] theorem State.modCur_marks (s : State) (w : Fin 8) (f : Wick → Wick) : (s.modCur w f).marks = s.marks := rfl
@[simp] theorem State.modCur_markBlocks (s : State) (w : Fin 8) (f : Wick → Wick) : (s.modCur w f).markBlocks = s.markBlocks := rfl
@[simp] theorem State.modCur_landing (s : State) (w : Fin 8) (f : Wick → Wick) : (s.modCur w f).landing = s.landing := rfl
@[simp] theorem State.modCur_ports (s : State) (w : Fin 8) (f : Wick → Wick) : (s.modCur w f).ports = s.ports := rfl
@[simp] theorem State.modCur_msi (s : State) (w : Fin 8) (f : Wick → Wick) : (s.modCur w f).msi = s.msi := rfl
@[simp] theorem State.modCur_root (s : State) (w : Fin 8) (f : Wick → Wick) : (s.modCur w f).root = s.root := rfl
@[simp] theorem State.modCur_power (s : State) (w : Fin 8) (f : Wick → Wick) : (s.modCur w f).power = s.power := rfl
@[simp] theorem State.modCur_ready (s : State) (w : Fin 8) (f : Wick → Wick) : (s.modCur w f).ready = s.ready := rfl

@[simp] theorem State.modCurCore_agenda (s : State) (f : Core → Core) : (s.modCurCore f).agenda = s.agenda := rfl
@[simp] theorem State.modCurCore_cur (s : State) (f : Core → Core) : (s.modCurCore f).cur = s.cur := rfl
@[simp] theorem State.modCurCore_free (s : State) (f : Core → Core) : (s.modCurCore f).free = s.free := rfl
@[simp] theorem State.modCurCore_nextGang (s : State) (f : Core → Core) : (s.modCurCore f).nextGang = s.nextGang := rfl
@[simp] theorem State.modCurCore_ac (s : State) (f : Core → Core) : (s.modCurCore f).ac = s.ac := rfl
@[simp] theorem State.modCurCore_time (s : State) (f : Core → Core) : (s.modCurCore f).time = s.time := rfl
@[simp] theorem State.modCurCore_coord (s : State) (f : Core → Core) : (s.modCurCore f).coord = s.coord := rfl
@[simp] theorem State.modCurCore_denied (s : State) (f : Core → Core) : (s.modCurCore f).denied = s.denied := rfl
@[simp] theorem State.modCurCore_silent (s : State) (f : Core → Core) : (s.modCurCore f).silent = s.silent := rfl
@[simp] theorem State.modCurCore_linkReqs (s : State) (f : Core → Core) : (s.modCurCore f).linkReqs = s.linkReqs := rfl
@[simp] theorem State.modCurCore_late (s : State) (f : Core → Core) : (s.modCurCore f).late = s.late := rfl
@[simp] theorem State.modCurCore_busy (s : State) (f : Core → Core) : (s.modCurCore f).busy = s.busy := rfl
@[simp] theorem State.modCurCore_mem (s : State) (f : Core → Core) : (s.modCurCore f).mem = s.mem := rfl
@[simp] theorem State.modCurCore_poison (s : State) (f : Core → Core) : (s.modCurCore f).poison = s.poison := rfl
@[simp] theorem State.modCurCore_watch (s : State) (f : Core → Core) : (s.modCurCore f).watch = s.watch := rfl
@[simp] theorem State.modCurCore_l2 (s : State) (f : Core → Core) : (s.modCurCore f).l2 = s.l2 := rfl
@[simp] theorem State.modCurCore_bypass (s : State) (f : Core → Core) : (s.modCurCore f).bypass = s.bypass := rfl
@[simp] theorem State.modCurCore_compressed (s : State) (f : Core → Core) : (s.modCurCore f).compressed = s.compressed := rfl
@[simp] theorem State.modCurCore_chanMap (s : State) (f : Core → Core) : (s.modCurCore f).chanMap = s.chanMap := rfl
@[simp] theorem State.modCurCore_chanFailed (s : State) (f : Core → Core) : (s.modCurCore f).chanFailed = s.chanFailed := rfl
@[simp] theorem State.modCurCore_activations (s : State) (f : Core → Core) : (s.modCurCore f).activations = s.activations := rfl
@[simp] theorem State.modCurCore_held (s : State) (f : Core → Core) : (s.modCurCore f).held = s.held := rfl
@[simp] theorem State.modCurCore_actAt (s : State) (f : Core → Core) : (s.modCurCore f).actAt = s.actAt := rfl
@[simp] theorem State.modCurCore_dieTlb (s : State) (f : Core → Core) : (s.modCurCore f).dieTlb = s.dieTlb := rfl
@[simp] theorem State.modCurCore_walkers (s : State) (f : Core → Core) : (s.modCurCore f).walkers = s.walkers := rfl
@[simp] theorem State.modCurCore_pcores (s : State) (f : Core → Core) : (s.modCurCore f).pcores = s.pcores := rfl
@[simp] theorem State.modCurCore_vfs (s : State) (f : Core → Core) : (s.modCurCore f).vfs = s.vfs := rfl
@[simp] theorem State.modCurCore_parts (s : State) (f : Core → Core) : (s.modCurCore f).parts = s.parts := rfl
@[simp] theorem State.modCurCore_quadMap (s : State) (f : Core → Core) : (s.modCurCore f).quadMap = s.quadMap := rfl
@[simp] theorem State.modCurCore_layoutVer (s : State) (f : Core → Core) : (s.modCurCore f).layoutVer = s.layoutVer := rfl
@[simp] theorem State.modCurCore_shadow (s : State) (f : Core → Core) : (s.modCurCore f).shadow = s.shadow := rfl
@[simp] theorem State.modCurCore_periodAt (s : State) (f : Core → Core) : (s.modCurCore f).periodAt = s.periodAt := rfl
@[simp] theorem State.modCurCore_tensors (s : State) (f : Core → Core) : (s.modCurCore f).tensors = s.tensors := rfl
@[simp] theorem State.modCurCore_tensorBlocks (s : State) (f : Core → Core) : (s.modCurCore f).tensorBlocks = s.tensorBlocks := rfl
@[simp] theorem State.modCurCore_marks (s : State) (f : Core → Core) : (s.modCurCore f).marks = s.marks := rfl
@[simp] theorem State.modCurCore_markBlocks (s : State) (f : Core → Core) : (s.modCurCore f).markBlocks = s.markBlocks := rfl
@[simp] theorem State.modCurCore_landing (s : State) (f : Core → Core) : (s.modCurCore f).landing = s.landing := rfl
@[simp] theorem State.modCurCore_ports (s : State) (f : Core → Core) : (s.modCurCore f).ports = s.ports := rfl
@[simp] theorem State.modCurCore_msi (s : State) (f : Core → Core) : (s.modCurCore f).msi = s.msi := rfl
@[simp] theorem State.modCurCore_root (s : State) (f : Core → Core) : (s.modCurCore f).root = s.root := rfl
@[simp] theorem State.modCurCore_power (s : State) (f : Core → Core) : (s.modCurCore f).power = s.power := rfl
@[simp] theorem State.modCurCore_ready (s : State) (f : Core → Core) : (s.modCurCore f).ready = s.ready := rfl

@[simp] theorem State.modThread_agenda (s : State) (u : Tid) (f : Thread → Thread) : (s.modThread u f).agenda = s.agenda := by
  obtain ⟨g, c, w⟩ := u; cases w <;> rfl
@[simp] theorem State.modThread_cur (s : State) (u : Tid) (f : Thread → Thread) : (s.modThread u f).cur = s.cur := by
  obtain ⟨g, c, w⟩ := u; cases w <;> rfl
@[simp] theorem State.modThread_free (s : State) (u : Tid) (f : Thread → Thread) : (s.modThread u f).free = s.free := by
  obtain ⟨g, c, w⟩ := u; cases w <;> rfl
@[simp] theorem State.modThread_nextGang (s : State) (u : Tid) (f : Thread → Thread) : (s.modThread u f).nextGang = s.nextGang := by
  obtain ⟨g, c, w⟩ := u; cases w <;> rfl
@[simp] theorem State.modThread_ac (s : State) (u : Tid) (f : Thread → Thread) : (s.modThread u f).ac = s.ac := by
  obtain ⟨g, c, w⟩ := u; cases w <;> rfl
@[simp] theorem State.modThread_time (s : State) (u : Tid) (f : Thread → Thread) : (s.modThread u f).time = s.time := by
  obtain ⟨g, c, w⟩ := u; cases w <;> rfl
@[simp] theorem State.modThread_coord (s : State) (u : Tid) (f : Thread → Thread) : (s.modThread u f).coord = s.coord := by
  obtain ⟨g, c, w⟩ := u; cases w <;> rfl
@[simp] theorem State.modThread_denied (s : State) (u : Tid) (f : Thread → Thread) : (s.modThread u f).denied = s.denied := by
  obtain ⟨g, c, w⟩ := u; cases w <;> rfl
@[simp] theorem State.modThread_silent (s : State) (u : Tid) (f : Thread → Thread) : (s.modThread u f).silent = s.silent := by
  obtain ⟨g, c, w⟩ := u; cases w <;> rfl
@[simp] theorem State.modThread_linkReqs (s : State) (u : Tid) (f : Thread → Thread) : (s.modThread u f).linkReqs = s.linkReqs := by
  obtain ⟨g, c, w⟩ := u; cases w <;> rfl
@[simp] theorem State.modThread_late (s : State) (u : Tid) (f : Thread → Thread) : (s.modThread u f).late = s.late := by
  obtain ⟨g, c, w⟩ := u; cases w <;> rfl
@[simp] theorem State.modThread_busy (s : State) (u : Tid) (f : Thread → Thread) : (s.modThread u f).busy = s.busy := by
  obtain ⟨g, c, w⟩ := u; cases w <;> rfl
@[simp] theorem State.modThread_mem (s : State) (u : Tid) (f : Thread → Thread) : (s.modThread u f).mem = s.mem := by
  obtain ⟨g, c, w⟩ := u; cases w <;> rfl
@[simp] theorem State.modThread_poison (s : State) (u : Tid) (f : Thread → Thread) : (s.modThread u f).poison = s.poison := by
  obtain ⟨g, c, w⟩ := u; cases w <;> rfl
@[simp] theorem State.modThread_watch (s : State) (u : Tid) (f : Thread → Thread) : (s.modThread u f).watch = s.watch := by
  obtain ⟨g, c, w⟩ := u; cases w <;> rfl
@[simp] theorem State.modThread_l2 (s : State) (u : Tid) (f : Thread → Thread) : (s.modThread u f).l2 = s.l2 := by
  obtain ⟨g, c, w⟩ := u; cases w <;> rfl
@[simp] theorem State.modThread_bypass (s : State) (u : Tid) (f : Thread → Thread) : (s.modThread u f).bypass = s.bypass := by
  obtain ⟨g, c, w⟩ := u; cases w <;> rfl
@[simp] theorem State.modThread_compressed (s : State) (u : Tid) (f : Thread → Thread) : (s.modThread u f).compressed = s.compressed := by
  obtain ⟨g, c, w⟩ := u; cases w <;> rfl
@[simp] theorem State.modThread_chanMap (s : State) (u : Tid) (f : Thread → Thread) : (s.modThread u f).chanMap = s.chanMap := by
  obtain ⟨g, c, w⟩ := u; cases w <;> rfl
@[simp] theorem State.modThread_chanFailed (s : State) (u : Tid) (f : Thread → Thread) : (s.modThread u f).chanFailed = s.chanFailed := by
  obtain ⟨g, c, w⟩ := u; cases w <;> rfl
@[simp] theorem State.modThread_activations (s : State) (u : Tid) (f : Thread → Thread) : (s.modThread u f).activations = s.activations := by
  obtain ⟨g, c, w⟩ := u; cases w <;> rfl
@[simp] theorem State.modThread_held (s : State) (u : Tid) (f : Thread → Thread) : (s.modThread u f).held = s.held := by
  obtain ⟨g, c, w⟩ := u; cases w <;> rfl
@[simp] theorem State.modThread_actAt (s : State) (u : Tid) (f : Thread → Thread) : (s.modThread u f).actAt = s.actAt := by
  obtain ⟨g, c, w⟩ := u; cases w <;> rfl
@[simp] theorem State.modThread_dieTlb (s : State) (u : Tid) (f : Thread → Thread) : (s.modThread u f).dieTlb = s.dieTlb := by
  obtain ⟨g, c, w⟩ := u; cases w <;> rfl
@[simp] theorem State.modThread_walkers (s : State) (u : Tid) (f : Thread → Thread) : (s.modThread u f).walkers = s.walkers := by
  obtain ⟨g, c, w⟩ := u; cases w <;> rfl
@[simp] theorem State.modThread_pcores (s : State) (u : Tid) (f : Thread → Thread) : (s.modThread u f).pcores = s.pcores := by
  obtain ⟨g, c, w⟩ := u; cases w <;> rfl
@[simp] theorem State.modThread_vfs (s : State) (u : Tid) (f : Thread → Thread) : (s.modThread u f).vfs = s.vfs := by
  obtain ⟨g, c, w⟩ := u; cases w <;> rfl
@[simp] theorem State.modThread_parts (s : State) (u : Tid) (f : Thread → Thread) : (s.modThread u f).parts = s.parts := by
  obtain ⟨g, c, w⟩ := u; cases w <;> rfl
@[simp] theorem State.modThread_quadMap (s : State) (u : Tid) (f : Thread → Thread) : (s.modThread u f).quadMap = s.quadMap := by
  obtain ⟨g, c, w⟩ := u; cases w <;> rfl
@[simp] theorem State.modThread_layoutVer (s : State) (u : Tid) (f : Thread → Thread) : (s.modThread u f).layoutVer = s.layoutVer := by
  obtain ⟨g, c, w⟩ := u; cases w <;> rfl
@[simp] theorem State.modThread_shadow (s : State) (u : Tid) (f : Thread → Thread) : (s.modThread u f).shadow = s.shadow := by
  obtain ⟨g, c, w⟩ := u; cases w <;> rfl
@[simp] theorem State.modThread_periodAt (s : State) (u : Tid) (f : Thread → Thread) : (s.modThread u f).periodAt = s.periodAt := by
  obtain ⟨g, c, w⟩ := u; cases w <;> rfl
@[simp] theorem State.modThread_tensors (s : State) (u : Tid) (f : Thread → Thread) : (s.modThread u f).tensors = s.tensors := by
  obtain ⟨g, c, w⟩ := u; cases w <;> rfl
@[simp] theorem State.modThread_tensorBlocks (s : State) (u : Tid) (f : Thread → Thread) : (s.modThread u f).tensorBlocks = s.tensorBlocks := by
  obtain ⟨g, c, w⟩ := u; cases w <;> rfl
@[simp] theorem State.modThread_marks (s : State) (u : Tid) (f : Thread → Thread) : (s.modThread u f).marks = s.marks := by
  obtain ⟨g, c, w⟩ := u; cases w <;> rfl
@[simp] theorem State.modThread_markBlocks (s : State) (u : Tid) (f : Thread → Thread) : (s.modThread u f).markBlocks = s.markBlocks := by
  obtain ⟨g, c, w⟩ := u; cases w <;> rfl
@[simp] theorem State.modThread_landing (s : State) (u : Tid) (f : Thread → Thread) : (s.modThread u f).landing = s.landing := by
  obtain ⟨g, c, w⟩ := u; cases w <;> rfl
@[simp] theorem State.modThread_ports (s : State) (u : Tid) (f : Thread → Thread) : (s.modThread u f).ports = s.ports := by
  obtain ⟨g, c, w⟩ := u; cases w <;> rfl
@[simp] theorem State.modThread_msi (s : State) (u : Tid) (f : Thread → Thread) : (s.modThread u f).msi = s.msi := by
  obtain ⟨g, c, w⟩ := u; cases w <;> rfl
@[simp] theorem State.modThread_root (s : State) (u : Tid) (f : Thread → Thread) : (s.modThread u f).root = s.root := by
  obtain ⟨g, c, w⟩ := u; cases w <;> rfl
@[simp] theorem State.modThread_power (s : State) (u : Tid) (f : Thread → Thread) : (s.modThread u f).power = s.power := by
  obtain ⟨g, c, w⟩ := u; cases w <;> rfl
@[simp] theorem State.modThread_ready (s : State) (u : Tid) (f : Thread → Thread) : (s.modThread u f).ready = s.ready := by
  obtain ⟨g, c, w⟩ := u; cases w <;> rfl

@[simp] theorem State.setX_agenda (s : State) (u : Tid) (d : Reg) (v : Word) : (s.setX u d v).agenda = s.agenda := by
  obtain ⟨g, c, w⟩ := u; cases w <;> rfl
@[simp] theorem State.setX_cur (s : State) (u : Tid) (d : Reg) (v : Word) : (s.setX u d v).cur = s.cur := by
  obtain ⟨g, c, w⟩ := u; cases w <;> rfl
@[simp] theorem State.setX_free (s : State) (u : Tid) (d : Reg) (v : Word) : (s.setX u d v).free = s.free := by
  obtain ⟨g, c, w⟩ := u; cases w <;> rfl
@[simp] theorem State.setX_nextGang (s : State) (u : Tid) (d : Reg) (v : Word) : (s.setX u d v).nextGang = s.nextGang := by
  obtain ⟨g, c, w⟩ := u; cases w <;> rfl
@[simp] theorem State.setX_ac (s : State) (u : Tid) (d : Reg) (v : Word) : (s.setX u d v).ac = s.ac := by
  obtain ⟨g, c, w⟩ := u; cases w <;> rfl
@[simp] theorem State.setX_time (s : State) (u : Tid) (d : Reg) (v : Word) : (s.setX u d v).time = s.time := by
  obtain ⟨g, c, w⟩ := u; cases w <;> rfl
@[simp] theorem State.setX_coord (s : State) (u : Tid) (d : Reg) (v : Word) : (s.setX u d v).coord = s.coord := by
  obtain ⟨g, c, w⟩ := u; cases w <;> rfl
@[simp] theorem State.setX_denied (s : State) (u : Tid) (d : Reg) (v : Word) : (s.setX u d v).denied = s.denied := by
  obtain ⟨g, c, w⟩ := u; cases w <;> rfl
@[simp] theorem State.setX_silent (s : State) (u : Tid) (d : Reg) (v : Word) : (s.setX u d v).silent = s.silent := by
  obtain ⟨g, c, w⟩ := u; cases w <;> rfl
@[simp] theorem State.setX_linkReqs (s : State) (u : Tid) (d : Reg) (v : Word) : (s.setX u d v).linkReqs = s.linkReqs := by
  obtain ⟨g, c, w⟩ := u; cases w <;> rfl
@[simp] theorem State.setX_late (s : State) (u : Tid) (d : Reg) (v : Word) : (s.setX u d v).late = s.late := by
  obtain ⟨g, c, w⟩ := u; cases w <;> rfl
@[simp] theorem State.setX_busy (s : State) (u : Tid) (d : Reg) (v : Word) : (s.setX u d v).busy = s.busy := by
  obtain ⟨g, c, w⟩ := u; cases w <;> rfl
@[simp] theorem State.setX_mem (s : State) (u : Tid) (d : Reg) (v : Word) : (s.setX u d v).mem = s.mem := by
  obtain ⟨g, c, w⟩ := u; cases w <;> rfl
@[simp] theorem State.setX_poison (s : State) (u : Tid) (d : Reg) (v : Word) : (s.setX u d v).poison = s.poison := by
  obtain ⟨g, c, w⟩ := u; cases w <;> rfl
@[simp] theorem State.setX_watch (s : State) (u : Tid) (d : Reg) (v : Word) : (s.setX u d v).watch = s.watch := by
  obtain ⟨g, c, w⟩ := u; cases w <;> rfl
@[simp] theorem State.setX_l2 (s : State) (u : Tid) (d : Reg) (v : Word) : (s.setX u d v).l2 = s.l2 := by
  obtain ⟨g, c, w⟩ := u; cases w <;> rfl
@[simp] theorem State.setX_bypass (s : State) (u : Tid) (d : Reg) (v : Word) : (s.setX u d v).bypass = s.bypass := by
  obtain ⟨g, c, w⟩ := u; cases w <;> rfl
@[simp] theorem State.setX_compressed (s : State) (u : Tid) (d : Reg) (v : Word) : (s.setX u d v).compressed = s.compressed := by
  obtain ⟨g, c, w⟩ := u; cases w <;> rfl
@[simp] theorem State.setX_chanMap (s : State) (u : Tid) (d : Reg) (v : Word) : (s.setX u d v).chanMap = s.chanMap := by
  obtain ⟨g, c, w⟩ := u; cases w <;> rfl
@[simp] theorem State.setX_chanFailed (s : State) (u : Tid) (d : Reg) (v : Word) : (s.setX u d v).chanFailed = s.chanFailed := by
  obtain ⟨g, c, w⟩ := u; cases w <;> rfl
@[simp] theorem State.setX_activations (s : State) (u : Tid) (d : Reg) (v : Word) : (s.setX u d v).activations = s.activations := by
  obtain ⟨g, c, w⟩ := u; cases w <;> rfl
@[simp] theorem State.setX_held (s : State) (u : Tid) (d : Reg) (v : Word) : (s.setX u d v).held = s.held := by
  obtain ⟨g, c, w⟩ := u; cases w <;> rfl
@[simp] theorem State.setX_actAt (s : State) (u : Tid) (d : Reg) (v : Word) : (s.setX u d v).actAt = s.actAt := by
  obtain ⟨g, c, w⟩ := u; cases w <;> rfl
@[simp] theorem State.setX_dieTlb (s : State) (u : Tid) (d : Reg) (v : Word) : (s.setX u d v).dieTlb = s.dieTlb := by
  obtain ⟨g, c, w⟩ := u; cases w <;> rfl
@[simp] theorem State.setX_walkers (s : State) (u : Tid) (d : Reg) (v : Word) : (s.setX u d v).walkers = s.walkers := by
  obtain ⟨g, c, w⟩ := u; cases w <;> rfl
@[simp] theorem State.setX_pcores (s : State) (u : Tid) (d : Reg) (v : Word) : (s.setX u d v).pcores = s.pcores := by
  obtain ⟨g, c, w⟩ := u; cases w <;> rfl
@[simp] theorem State.setX_vfs (s : State) (u : Tid) (d : Reg) (v : Word) : (s.setX u d v).vfs = s.vfs := by
  obtain ⟨g, c, w⟩ := u; cases w <;> rfl
@[simp] theorem State.setX_parts (s : State) (u : Tid) (d : Reg) (v : Word) : (s.setX u d v).parts = s.parts := by
  obtain ⟨g, c, w⟩ := u; cases w <;> rfl
@[simp] theorem State.setX_quadMap (s : State) (u : Tid) (d : Reg) (v : Word) : (s.setX u d v).quadMap = s.quadMap := by
  obtain ⟨g, c, w⟩ := u; cases w <;> rfl
@[simp] theorem State.setX_layoutVer (s : State) (u : Tid) (d : Reg) (v : Word) : (s.setX u d v).layoutVer = s.layoutVer := by
  obtain ⟨g, c, w⟩ := u; cases w <;> rfl
@[simp] theorem State.setX_shadow (s : State) (u : Tid) (d : Reg) (v : Word) : (s.setX u d v).shadow = s.shadow := by
  obtain ⟨g, c, w⟩ := u; cases w <;> rfl
@[simp] theorem State.setX_periodAt (s : State) (u : Tid) (d : Reg) (v : Word) : (s.setX u d v).periodAt = s.periodAt := by
  obtain ⟨g, c, w⟩ := u; cases w <;> rfl
@[simp] theorem State.setX_tensors (s : State) (u : Tid) (d : Reg) (v : Word) : (s.setX u d v).tensors = s.tensors := by
  obtain ⟨g, c, w⟩ := u; cases w <;> rfl
@[simp] theorem State.setX_tensorBlocks (s : State) (u : Tid) (d : Reg) (v : Word) : (s.setX u d v).tensorBlocks = s.tensorBlocks := by
  obtain ⟨g, c, w⟩ := u; cases w <;> rfl
@[simp] theorem State.setX_marks (s : State) (u : Tid) (d : Reg) (v : Word) : (s.setX u d v).marks = s.marks := by
  obtain ⟨g, c, w⟩ := u; cases w <;> rfl
@[simp] theorem State.setX_markBlocks (s : State) (u : Tid) (d : Reg) (v : Word) : (s.setX u d v).markBlocks = s.markBlocks := by
  obtain ⟨g, c, w⟩ := u; cases w <;> rfl
@[simp] theorem State.setX_landing (s : State) (u : Tid) (d : Reg) (v : Word) : (s.setX u d v).landing = s.landing := by
  obtain ⟨g, c, w⟩ := u; cases w <;> rfl
@[simp] theorem State.setX_ports (s : State) (u : Tid) (d : Reg) (v : Word) : (s.setX u d v).ports = s.ports := by
  obtain ⟨g, c, w⟩ := u; cases w <;> rfl
@[simp] theorem State.setX_msi (s : State) (u : Tid) (d : Reg) (v : Word) : (s.setX u d v).msi = s.msi := by
  obtain ⟨g, c, w⟩ := u; cases w <;> rfl
@[simp] theorem State.setX_root (s : State) (u : Tid) (d : Reg) (v : Word) : (s.setX u d v).root = s.root := by
  obtain ⟨g, c, w⟩ := u; cases w <;> rfl
@[simp] theorem State.setX_power (s : State) (u : Tid) (d : Reg) (v : Word) : (s.setX u d v).power = s.power := by
  obtain ⟨g, c, w⟩ := u; cases w <;> rfl
@[simp] theorem State.setX_ready (s : State) (u : Tid) (d : Reg) (v : Word) : (s.setX u d v).ready = s.ready := by
  obtain ⟨g, c, w⟩ := u; cases w <;> rfl

@[simp] theorem State.jump_agenda (s : State) (u : Tid) (a : Word) : (s.jump u a).agenda = s.agenda := by
  obtain ⟨g, c, w⟩ := u; cases w <;> rfl
@[simp] theorem State.jump_cur (s : State) (u : Tid) (a : Word) : (s.jump u a).cur = s.cur := by
  obtain ⟨g, c, w⟩ := u; cases w <;> rfl
@[simp] theorem State.jump_free (s : State) (u : Tid) (a : Word) : (s.jump u a).free = s.free := by
  obtain ⟨g, c, w⟩ := u; cases w <;> rfl
@[simp] theorem State.jump_nextGang (s : State) (u : Tid) (a : Word) : (s.jump u a).nextGang = s.nextGang := by
  obtain ⟨g, c, w⟩ := u; cases w <;> rfl
@[simp] theorem State.jump_ac (s : State) (u : Tid) (a : Word) : (s.jump u a).ac = s.ac := by
  obtain ⟨g, c, w⟩ := u; cases w <;> rfl
@[simp] theorem State.jump_time (s : State) (u : Tid) (a : Word) : (s.jump u a).time = s.time := by
  obtain ⟨g, c, w⟩ := u; cases w <;> rfl
@[simp] theorem State.jump_coord (s : State) (u : Tid) (a : Word) : (s.jump u a).coord = s.coord := by
  obtain ⟨g, c, w⟩ := u; cases w <;> rfl
@[simp] theorem State.jump_denied (s : State) (u : Tid) (a : Word) : (s.jump u a).denied = s.denied := by
  obtain ⟨g, c, w⟩ := u; cases w <;> rfl
@[simp] theorem State.jump_silent (s : State) (u : Tid) (a : Word) : (s.jump u a).silent = s.silent := by
  obtain ⟨g, c, w⟩ := u; cases w <;> rfl
@[simp] theorem State.jump_linkReqs (s : State) (u : Tid) (a : Word) : (s.jump u a).linkReqs = s.linkReqs := by
  obtain ⟨g, c, w⟩ := u; cases w <;> rfl
@[simp] theorem State.jump_late (s : State) (u : Tid) (a : Word) : (s.jump u a).late = s.late := by
  obtain ⟨g, c, w⟩ := u; cases w <;> rfl
@[simp] theorem State.jump_busy (s : State) (u : Tid) (a : Word) : (s.jump u a).busy = s.busy := by
  obtain ⟨g, c, w⟩ := u; cases w <;> rfl
@[simp] theorem State.jump_mem (s : State) (u : Tid) (a : Word) : (s.jump u a).mem = s.mem := by
  obtain ⟨g, c, w⟩ := u; cases w <;> rfl
@[simp] theorem State.jump_poison (s : State) (u : Tid) (a : Word) : (s.jump u a).poison = s.poison := by
  obtain ⟨g, c, w⟩ := u; cases w <;> rfl
@[simp] theorem State.jump_watch (s : State) (u : Tid) (a : Word) : (s.jump u a).watch = s.watch := by
  obtain ⟨g, c, w⟩ := u; cases w <;> rfl
@[simp] theorem State.jump_l2 (s : State) (u : Tid) (a : Word) : (s.jump u a).l2 = s.l2 := by
  obtain ⟨g, c, w⟩ := u; cases w <;> rfl
@[simp] theorem State.jump_bypass (s : State) (u : Tid) (a : Word) : (s.jump u a).bypass = s.bypass := by
  obtain ⟨g, c, w⟩ := u; cases w <;> rfl
@[simp] theorem State.jump_compressed (s : State) (u : Tid) (a : Word) : (s.jump u a).compressed = s.compressed := by
  obtain ⟨g, c, w⟩ := u; cases w <;> rfl
@[simp] theorem State.jump_chanMap (s : State) (u : Tid) (a : Word) : (s.jump u a).chanMap = s.chanMap := by
  obtain ⟨g, c, w⟩ := u; cases w <;> rfl
@[simp] theorem State.jump_chanFailed (s : State) (u : Tid) (a : Word) : (s.jump u a).chanFailed = s.chanFailed := by
  obtain ⟨g, c, w⟩ := u; cases w <;> rfl
@[simp] theorem State.jump_activations (s : State) (u : Tid) (a : Word) : (s.jump u a).activations = s.activations := by
  obtain ⟨g, c, w⟩ := u; cases w <;> rfl
@[simp] theorem State.jump_held (s : State) (u : Tid) (a : Word) : (s.jump u a).held = s.held := by
  obtain ⟨g, c, w⟩ := u; cases w <;> rfl
@[simp] theorem State.jump_actAt (s : State) (u : Tid) (a : Word) : (s.jump u a).actAt = s.actAt := by
  obtain ⟨g, c, w⟩ := u; cases w <;> rfl
@[simp] theorem State.jump_dieTlb (s : State) (u : Tid) (a : Word) : (s.jump u a).dieTlb = s.dieTlb := by
  obtain ⟨g, c, w⟩ := u; cases w <;> rfl
@[simp] theorem State.jump_walkers (s : State) (u : Tid) (a : Word) : (s.jump u a).walkers = s.walkers := by
  obtain ⟨g, c, w⟩ := u; cases w <;> rfl
@[simp] theorem State.jump_pcores (s : State) (u : Tid) (a : Word) : (s.jump u a).pcores = s.pcores := by
  obtain ⟨g, c, w⟩ := u; cases w <;> rfl
@[simp] theorem State.jump_vfs (s : State) (u : Tid) (a : Word) : (s.jump u a).vfs = s.vfs := by
  obtain ⟨g, c, w⟩ := u; cases w <;> rfl
@[simp] theorem State.jump_parts (s : State) (u : Tid) (a : Word) : (s.jump u a).parts = s.parts := by
  obtain ⟨g, c, w⟩ := u; cases w <;> rfl
@[simp] theorem State.jump_quadMap (s : State) (u : Tid) (a : Word) : (s.jump u a).quadMap = s.quadMap := by
  obtain ⟨g, c, w⟩ := u; cases w <;> rfl
@[simp] theorem State.jump_layoutVer (s : State) (u : Tid) (a : Word) : (s.jump u a).layoutVer = s.layoutVer := by
  obtain ⟨g, c, w⟩ := u; cases w <;> rfl
@[simp] theorem State.jump_shadow (s : State) (u : Tid) (a : Word) : (s.jump u a).shadow = s.shadow := by
  obtain ⟨g, c, w⟩ := u; cases w <;> rfl
@[simp] theorem State.jump_periodAt (s : State) (u : Tid) (a : Word) : (s.jump u a).periodAt = s.periodAt := by
  obtain ⟨g, c, w⟩ := u; cases w <;> rfl
@[simp] theorem State.jump_tensors (s : State) (u : Tid) (a : Word) : (s.jump u a).tensors = s.tensors := by
  obtain ⟨g, c, w⟩ := u; cases w <;> rfl
@[simp] theorem State.jump_tensorBlocks (s : State) (u : Tid) (a : Word) : (s.jump u a).tensorBlocks = s.tensorBlocks := by
  obtain ⟨g, c, w⟩ := u; cases w <;> rfl
@[simp] theorem State.jump_marks (s : State) (u : Tid) (a : Word) : (s.jump u a).marks = s.marks := by
  obtain ⟨g, c, w⟩ := u; cases w <;> rfl
@[simp] theorem State.jump_markBlocks (s : State) (u : Tid) (a : Word) : (s.jump u a).markBlocks = s.markBlocks := by
  obtain ⟨g, c, w⟩ := u; cases w <;> rfl
@[simp] theorem State.jump_landing (s : State) (u : Tid) (a : Word) : (s.jump u a).landing = s.landing := by
  obtain ⟨g, c, w⟩ := u; cases w <;> rfl
@[simp] theorem State.jump_ports (s : State) (u : Tid) (a : Word) : (s.jump u a).ports = s.ports := by
  obtain ⟨g, c, w⟩ := u; cases w <;> rfl
@[simp] theorem State.jump_msi (s : State) (u : Tid) (a : Word) : (s.jump u a).msi = s.msi := by
  obtain ⟨g, c, w⟩ := u; cases w <;> rfl
@[simp] theorem State.jump_root (s : State) (u : Tid) (a : Word) : (s.jump u a).root = s.root := by
  obtain ⟨g, c, w⟩ := u; cases w <;> rfl
@[simp] theorem State.jump_power (s : State) (u : Tid) (a : Word) : (s.jump u a).power = s.power := by
  obtain ⟨g, c, w⟩ := u; cases w <;> rfl
@[simp] theorem State.jump_ready (s : State) (u : Tid) (a : Word) : (s.jump u a).ready = s.ready := by
  obtain ⟨g, c, w⟩ := u; cases w <;> rfl

@[simp] theorem State.setWait_agenda (s : State) (u : Tid) (w : Wait) : (s.setWait u w).agenda = s.agenda := by
  obtain ⟨g, c, w⟩ := u; cases w <;> rfl
@[simp] theorem State.setWait_cur (s : State) (u : Tid) (w : Wait) : (s.setWait u w).cur = s.cur := by
  obtain ⟨g, c, w⟩ := u; cases w <;> rfl
@[simp] theorem State.setWait_free (s : State) (u : Tid) (w : Wait) : (s.setWait u w).free = s.free := by
  obtain ⟨g, c, w⟩ := u; cases w <;> rfl
@[simp] theorem State.setWait_nextGang (s : State) (u : Tid) (w : Wait) : (s.setWait u w).nextGang = s.nextGang := by
  obtain ⟨g, c, w⟩ := u; cases w <;> rfl
@[simp] theorem State.setWait_ac (s : State) (u : Tid) (w : Wait) : (s.setWait u w).ac = s.ac := by
  obtain ⟨g, c, w⟩ := u; cases w <;> rfl
@[simp] theorem State.setWait_time (s : State) (u : Tid) (w : Wait) : (s.setWait u w).time = s.time := by
  obtain ⟨g, c, w⟩ := u; cases w <;> rfl
@[simp] theorem State.setWait_coord (s : State) (u : Tid) (w : Wait) : (s.setWait u w).coord = s.coord := by
  obtain ⟨g, c, w⟩ := u; cases w <;> rfl
@[simp] theorem State.setWait_denied (s : State) (u : Tid) (w : Wait) : (s.setWait u w).denied = s.denied := by
  obtain ⟨g, c, w⟩ := u; cases w <;> rfl
@[simp] theorem State.setWait_silent (s : State) (u : Tid) (w : Wait) : (s.setWait u w).silent = s.silent := by
  obtain ⟨g, c, w⟩ := u; cases w <;> rfl
@[simp] theorem State.setWait_linkReqs (s : State) (u : Tid) (w : Wait) : (s.setWait u w).linkReqs = s.linkReqs := by
  obtain ⟨g, c, w⟩ := u; cases w <;> rfl
@[simp] theorem State.setWait_late (s : State) (u : Tid) (w : Wait) : (s.setWait u w).late = s.late := by
  obtain ⟨g, c, w⟩ := u; cases w <;> rfl
@[simp] theorem State.setWait_busy (s : State) (u : Tid) (w : Wait) : (s.setWait u w).busy = s.busy := by
  obtain ⟨g, c, w⟩ := u; cases w <;> rfl
@[simp] theorem State.setWait_mem (s : State) (u : Tid) (w : Wait) : (s.setWait u w).mem = s.mem := by
  obtain ⟨g, c, w⟩ := u; cases w <;> rfl
@[simp] theorem State.setWait_poison (s : State) (u : Tid) (w : Wait) : (s.setWait u w).poison = s.poison := by
  obtain ⟨g, c, w⟩ := u; cases w <;> rfl
@[simp] theorem State.setWait_watch (s : State) (u : Tid) (w : Wait) : (s.setWait u w).watch = s.watch := by
  obtain ⟨g, c, w⟩ := u; cases w <;> rfl
@[simp] theorem State.setWait_l2 (s : State) (u : Tid) (w : Wait) : (s.setWait u w).l2 = s.l2 := by
  obtain ⟨g, c, w⟩ := u; cases w <;> rfl
@[simp] theorem State.setWait_bypass (s : State) (u : Tid) (w : Wait) : (s.setWait u w).bypass = s.bypass := by
  obtain ⟨g, c, w⟩ := u; cases w <;> rfl
@[simp] theorem State.setWait_compressed (s : State) (u : Tid) (w : Wait) : (s.setWait u w).compressed = s.compressed := by
  obtain ⟨g, c, w⟩ := u; cases w <;> rfl
@[simp] theorem State.setWait_chanMap (s : State) (u : Tid) (w : Wait) : (s.setWait u w).chanMap = s.chanMap := by
  obtain ⟨g, c, w⟩ := u; cases w <;> rfl
@[simp] theorem State.setWait_chanFailed (s : State) (u : Tid) (w : Wait) : (s.setWait u w).chanFailed = s.chanFailed := by
  obtain ⟨g, c, w⟩ := u; cases w <;> rfl
@[simp] theorem State.setWait_activations (s : State) (u : Tid) (w : Wait) : (s.setWait u w).activations = s.activations := by
  obtain ⟨g, c, w⟩ := u; cases w <;> rfl
@[simp] theorem State.setWait_held (s : State) (u : Tid) (w : Wait) : (s.setWait u w).held = s.held := by
  obtain ⟨g, c, w⟩ := u; cases w <;> rfl
@[simp] theorem State.setWait_actAt (s : State) (u : Tid) (w : Wait) : (s.setWait u w).actAt = s.actAt := by
  obtain ⟨g, c, w⟩ := u; cases w <;> rfl
@[simp] theorem State.setWait_dieTlb (s : State) (u : Tid) (w : Wait) : (s.setWait u w).dieTlb = s.dieTlb := by
  obtain ⟨g, c, w⟩ := u; cases w <;> rfl
@[simp] theorem State.setWait_walkers (s : State) (u : Tid) (w : Wait) : (s.setWait u w).walkers = s.walkers := by
  obtain ⟨g, c, w⟩ := u; cases w <;> rfl
@[simp] theorem State.setWait_pcores (s : State) (u : Tid) (w : Wait) : (s.setWait u w).pcores = s.pcores := by
  obtain ⟨g, c, w⟩ := u; cases w <;> rfl
@[simp] theorem State.setWait_vfs (s : State) (u : Tid) (w : Wait) : (s.setWait u w).vfs = s.vfs := by
  obtain ⟨g, c, w⟩ := u; cases w <;> rfl
@[simp] theorem State.setWait_parts (s : State) (u : Tid) (w : Wait) : (s.setWait u w).parts = s.parts := by
  obtain ⟨g, c, w⟩ := u; cases w <;> rfl
@[simp] theorem State.setWait_quadMap (s : State) (u : Tid) (w : Wait) : (s.setWait u w).quadMap = s.quadMap := by
  obtain ⟨g, c, w⟩ := u; cases w <;> rfl
@[simp] theorem State.setWait_layoutVer (s : State) (u : Tid) (w : Wait) : (s.setWait u w).layoutVer = s.layoutVer := by
  obtain ⟨g, c, w⟩ := u; cases w <;> rfl
@[simp] theorem State.setWait_shadow (s : State) (u : Tid) (w : Wait) : (s.setWait u w).shadow = s.shadow := by
  obtain ⟨g, c, w⟩ := u; cases w <;> rfl
@[simp] theorem State.setWait_periodAt (s : State) (u : Tid) (w : Wait) : (s.setWait u w).periodAt = s.periodAt := by
  obtain ⟨g, c, w⟩ := u; cases w <;> rfl
@[simp] theorem State.setWait_tensors (s : State) (u : Tid) (w : Wait) : (s.setWait u w).tensors = s.tensors := by
  obtain ⟨g, c, w⟩ := u; cases w <;> rfl
@[simp] theorem State.setWait_tensorBlocks (s : State) (u : Tid) (w : Wait) : (s.setWait u w).tensorBlocks = s.tensorBlocks := by
  obtain ⟨g, c, w⟩ := u; cases w <;> rfl
@[simp] theorem State.setWait_marks (s : State) (u : Tid) (w : Wait) : (s.setWait u w).marks = s.marks := by
  obtain ⟨g, c, w⟩ := u; cases w <;> rfl
@[simp] theorem State.setWait_markBlocks (s : State) (u : Tid) (w : Wait) : (s.setWait u w).markBlocks = s.markBlocks := by
  obtain ⟨g, c, w⟩ := u; cases w <;> rfl
@[simp] theorem State.setWait_landing (s : State) (u : Tid) (w : Wait) : (s.setWait u w).landing = s.landing := by
  obtain ⟨g, c, w⟩ := u; cases w <;> rfl
@[simp] theorem State.setWait_ports (s : State) (u : Tid) (w : Wait) : (s.setWait u w).ports = s.ports := by
  obtain ⟨g, c, w⟩ := u; cases w <;> rfl
@[simp] theorem State.setWait_msi (s : State) (u : Tid) (w : Wait) : (s.setWait u w).msi = s.msi := by
  obtain ⟨g, c, w⟩ := u; cases w <;> rfl
@[simp] theorem State.setWait_root (s : State) (u : Tid) (w : Wait) : (s.setWait u w).root = s.root := by
  obtain ⟨g, c, w⟩ := u; cases w <;> rfl
@[simp] theorem State.setWait_power (s : State) (u : Tid) (w : Wait) : (s.setWait u w).power = s.power := by
  obtain ⟨g, c, w⟩ := u; cases w <;> rfl
@[simp] theorem State.setWait_ready (s : State) (u : Tid) (w : Wait) : (s.setWait u w).ready = s.ready := by
  obtain ⟨g, c, w⟩ := u; cases w <;> rfl

@[simp] theorem State.done_agenda (s : State) (u : Tid) : (s.done u).agenda = s.agenda := by
  obtain ⟨g, c, w⟩ := u; cases w <;> rfl
@[simp] theorem State.done_cur (s : State) (u : Tid) : (s.done u).cur = s.cur := by
  obtain ⟨g, c, w⟩ := u; cases w <;> rfl
@[simp] theorem State.done_free (s : State) (u : Tid) : (s.done u).free = s.free := by
  obtain ⟨g, c, w⟩ := u; cases w <;> rfl
@[simp] theorem State.done_nextGang (s : State) (u : Tid) : (s.done u).nextGang = s.nextGang := by
  obtain ⟨g, c, w⟩ := u; cases w <;> rfl
@[simp] theorem State.done_ac (s : State) (u : Tid) : (s.done u).ac = s.ac := by
  obtain ⟨g, c, w⟩ := u; cases w <;> rfl
@[simp] theorem State.done_time (s : State) (u : Tid) : (s.done u).time = s.time := by
  obtain ⟨g, c, w⟩ := u; cases w <;> rfl
@[simp] theorem State.done_coord (s : State) (u : Tid) : (s.done u).coord = s.coord := by
  obtain ⟨g, c, w⟩ := u; cases w <;> rfl
@[simp] theorem State.done_denied (s : State) (u : Tid) : (s.done u).denied = s.denied := by
  obtain ⟨g, c, w⟩ := u; cases w <;> rfl
@[simp] theorem State.done_silent (s : State) (u : Tid) : (s.done u).silent = s.silent := by
  obtain ⟨g, c, w⟩ := u; cases w <;> rfl
@[simp] theorem State.done_linkReqs (s : State) (u : Tid) : (s.done u).linkReqs = s.linkReqs := by
  obtain ⟨g, c, w⟩ := u; cases w <;> rfl
@[simp] theorem State.done_late (s : State) (u : Tid) : (s.done u).late = s.late := by
  obtain ⟨g, c, w⟩ := u; cases w <;> rfl
@[simp] theorem State.done_busy (s : State) (u : Tid) : (s.done u).busy = s.busy := by
  obtain ⟨g, c, w⟩ := u; cases w <;> rfl
@[simp] theorem State.done_mem (s : State) (u : Tid) : (s.done u).mem = s.mem := by
  obtain ⟨g, c, w⟩ := u; cases w <;> rfl
@[simp] theorem State.done_poison (s : State) (u : Tid) : (s.done u).poison = s.poison := by
  obtain ⟨g, c, w⟩ := u; cases w <;> rfl
@[simp] theorem State.done_watch (s : State) (u : Tid) : (s.done u).watch = s.watch := by
  obtain ⟨g, c, w⟩ := u; cases w <;> rfl
@[simp] theorem State.done_l2 (s : State) (u : Tid) : (s.done u).l2 = s.l2 := by
  obtain ⟨g, c, w⟩ := u; cases w <;> rfl
@[simp] theorem State.done_bypass (s : State) (u : Tid) : (s.done u).bypass = s.bypass := by
  obtain ⟨g, c, w⟩ := u; cases w <;> rfl
@[simp] theorem State.done_compressed (s : State) (u : Tid) : (s.done u).compressed = s.compressed := by
  obtain ⟨g, c, w⟩ := u; cases w <;> rfl
@[simp] theorem State.done_chanMap (s : State) (u : Tid) : (s.done u).chanMap = s.chanMap := by
  obtain ⟨g, c, w⟩ := u; cases w <;> rfl
@[simp] theorem State.done_chanFailed (s : State) (u : Tid) : (s.done u).chanFailed = s.chanFailed := by
  obtain ⟨g, c, w⟩ := u; cases w <;> rfl
@[simp] theorem State.done_activations (s : State) (u : Tid) : (s.done u).activations = s.activations := by
  obtain ⟨g, c, w⟩ := u; cases w <;> rfl
@[simp] theorem State.done_held (s : State) (u : Tid) : (s.done u).held = s.held := by
  obtain ⟨g, c, w⟩ := u; cases w <;> rfl
@[simp] theorem State.done_actAt (s : State) (u : Tid) : (s.done u).actAt = s.actAt := by
  obtain ⟨g, c, w⟩ := u; cases w <;> rfl
@[simp] theorem State.done_dieTlb (s : State) (u : Tid) : (s.done u).dieTlb = s.dieTlb := by
  obtain ⟨g, c, w⟩ := u; cases w <;> rfl
@[simp] theorem State.done_walkers (s : State) (u : Tid) : (s.done u).walkers = s.walkers := by
  obtain ⟨g, c, w⟩ := u; cases w <;> rfl
@[simp] theorem State.done_pcores (s : State) (u : Tid) : (s.done u).pcores = s.pcores := by
  obtain ⟨g, c, w⟩ := u; cases w <;> rfl
@[simp] theorem State.done_vfs (s : State) (u : Tid) : (s.done u).vfs = s.vfs := by
  obtain ⟨g, c, w⟩ := u; cases w <;> rfl
@[simp] theorem State.done_parts (s : State) (u : Tid) : (s.done u).parts = s.parts := by
  obtain ⟨g, c, w⟩ := u; cases w <;> rfl
@[simp] theorem State.done_quadMap (s : State) (u : Tid) : (s.done u).quadMap = s.quadMap := by
  obtain ⟨g, c, w⟩ := u; cases w <;> rfl
@[simp] theorem State.done_layoutVer (s : State) (u : Tid) : (s.done u).layoutVer = s.layoutVer := by
  obtain ⟨g, c, w⟩ := u; cases w <;> rfl
@[simp] theorem State.done_shadow (s : State) (u : Tid) : (s.done u).shadow = s.shadow := by
  obtain ⟨g, c, w⟩ := u; cases w <;> rfl
@[simp] theorem State.done_periodAt (s : State) (u : Tid) : (s.done u).periodAt = s.periodAt := by
  obtain ⟨g, c, w⟩ := u; cases w <;> rfl
@[simp] theorem State.done_tensors (s : State) (u : Tid) : (s.done u).tensors = s.tensors := by
  obtain ⟨g, c, w⟩ := u; cases w <;> rfl
@[simp] theorem State.done_tensorBlocks (s : State) (u : Tid) : (s.done u).tensorBlocks = s.tensorBlocks := by
  obtain ⟨g, c, w⟩ := u; cases w <;> rfl
@[simp] theorem State.done_marks (s : State) (u : Tid) : (s.done u).marks = s.marks := by
  obtain ⟨g, c, w⟩ := u; cases w <;> rfl
@[simp] theorem State.done_markBlocks (s : State) (u : Tid) : (s.done u).markBlocks = s.markBlocks := by
  obtain ⟨g, c, w⟩ := u; cases w <;> rfl
@[simp] theorem State.done_landing (s : State) (u : Tid) : (s.done u).landing = s.landing := by
  obtain ⟨g, c, w⟩ := u; cases w <;> rfl
@[simp] theorem State.done_ports (s : State) (u : Tid) : (s.done u).ports = s.ports := by
  obtain ⟨g, c, w⟩ := u; cases w <;> rfl
@[simp] theorem State.done_msi (s : State) (u : Tid) : (s.done u).msi = s.msi := by
  obtain ⟨g, c, w⟩ := u; cases w <;> rfl
@[simp] theorem State.done_root (s : State) (u : Tid) : (s.done u).root = s.root := by
  obtain ⟨g, c, w⟩ := u; cases w <;> rfl
@[simp] theorem State.done_power (s : State) (u : Tid) : (s.done u).power = s.power := by
  obtain ⟨g, c, w⟩ := u; cases w <;> rfl
@[simp] theorem State.done_ready (s : State) (u : Tid) : (s.done u).ready = s.ready := by
  obtain ⟨g, c, w⟩ := u; cases w <;> rfl

@[simp] theorem State.endWait_agenda (s : State) (u : Tid) : (s.endWait u).agenda = s.agenda := by
  obtain ⟨g, c, w⟩ := u; cases w <;> rfl
@[simp] theorem State.endWait_cur (s : State) (u : Tid) : (s.endWait u).cur = s.cur := by
  obtain ⟨g, c, w⟩ := u; cases w <;> rfl
@[simp] theorem State.endWait_free (s : State) (u : Tid) : (s.endWait u).free = s.free := by
  obtain ⟨g, c, w⟩ := u; cases w <;> rfl
@[simp] theorem State.endWait_nextGang (s : State) (u : Tid) : (s.endWait u).nextGang = s.nextGang := by
  obtain ⟨g, c, w⟩ := u; cases w <;> rfl
@[simp] theorem State.endWait_ac (s : State) (u : Tid) : (s.endWait u).ac = s.ac := by
  obtain ⟨g, c, w⟩ := u; cases w <;> rfl
@[simp] theorem State.endWait_time (s : State) (u : Tid) : (s.endWait u).time = s.time := by
  obtain ⟨g, c, w⟩ := u; cases w <;> rfl
@[simp] theorem State.endWait_coord (s : State) (u : Tid) : (s.endWait u).coord = s.coord := by
  obtain ⟨g, c, w⟩ := u; cases w <;> rfl
@[simp] theorem State.endWait_denied (s : State) (u : Tid) : (s.endWait u).denied = s.denied := by
  obtain ⟨g, c, w⟩ := u; cases w <;> rfl
@[simp] theorem State.endWait_silent (s : State) (u : Tid) : (s.endWait u).silent = s.silent := by
  obtain ⟨g, c, w⟩ := u; cases w <;> rfl
@[simp] theorem State.endWait_linkReqs (s : State) (u : Tid) : (s.endWait u).linkReqs = s.linkReqs := by
  obtain ⟨g, c, w⟩ := u; cases w <;> rfl
@[simp] theorem State.endWait_late (s : State) (u : Tid) : (s.endWait u).late = s.late := by
  obtain ⟨g, c, w⟩ := u; cases w <;> rfl
@[simp] theorem State.endWait_busy (s : State) (u : Tid) : (s.endWait u).busy = s.busy := by
  obtain ⟨g, c, w⟩ := u; cases w <;> rfl
@[simp] theorem State.endWait_mem (s : State) (u : Tid) : (s.endWait u).mem = s.mem := by
  obtain ⟨g, c, w⟩ := u; cases w <;> rfl
@[simp] theorem State.endWait_poison (s : State) (u : Tid) : (s.endWait u).poison = s.poison := by
  obtain ⟨g, c, w⟩ := u; cases w <;> rfl
@[simp] theorem State.endWait_watch (s : State) (u : Tid) : (s.endWait u).watch = s.watch := by
  obtain ⟨g, c, w⟩ := u; cases w <;> rfl
@[simp] theorem State.endWait_l2 (s : State) (u : Tid) : (s.endWait u).l2 = s.l2 := by
  obtain ⟨g, c, w⟩ := u; cases w <;> rfl
@[simp] theorem State.endWait_bypass (s : State) (u : Tid) : (s.endWait u).bypass = s.bypass := by
  obtain ⟨g, c, w⟩ := u; cases w <;> rfl
@[simp] theorem State.endWait_compressed (s : State) (u : Tid) : (s.endWait u).compressed = s.compressed := by
  obtain ⟨g, c, w⟩ := u; cases w <;> rfl
@[simp] theorem State.endWait_chanMap (s : State) (u : Tid) : (s.endWait u).chanMap = s.chanMap := by
  obtain ⟨g, c, w⟩ := u; cases w <;> rfl
@[simp] theorem State.endWait_chanFailed (s : State) (u : Tid) : (s.endWait u).chanFailed = s.chanFailed := by
  obtain ⟨g, c, w⟩ := u; cases w <;> rfl
@[simp] theorem State.endWait_activations (s : State) (u : Tid) : (s.endWait u).activations = s.activations := by
  obtain ⟨g, c, w⟩ := u; cases w <;> rfl
@[simp] theorem State.endWait_held (s : State) (u : Tid) : (s.endWait u).held = s.held := by
  obtain ⟨g, c, w⟩ := u; cases w <;> rfl
@[simp] theorem State.endWait_actAt (s : State) (u : Tid) : (s.endWait u).actAt = s.actAt := by
  obtain ⟨g, c, w⟩ := u; cases w <;> rfl
@[simp] theorem State.endWait_dieTlb (s : State) (u : Tid) : (s.endWait u).dieTlb = s.dieTlb := by
  obtain ⟨g, c, w⟩ := u; cases w <;> rfl
@[simp] theorem State.endWait_walkers (s : State) (u : Tid) : (s.endWait u).walkers = s.walkers := by
  obtain ⟨g, c, w⟩ := u; cases w <;> rfl
@[simp] theorem State.endWait_pcores (s : State) (u : Tid) : (s.endWait u).pcores = s.pcores := by
  obtain ⟨g, c, w⟩ := u; cases w <;> rfl
@[simp] theorem State.endWait_vfs (s : State) (u : Tid) : (s.endWait u).vfs = s.vfs := by
  obtain ⟨g, c, w⟩ := u; cases w <;> rfl
@[simp] theorem State.endWait_parts (s : State) (u : Tid) : (s.endWait u).parts = s.parts := by
  obtain ⟨g, c, w⟩ := u; cases w <;> rfl
@[simp] theorem State.endWait_quadMap (s : State) (u : Tid) : (s.endWait u).quadMap = s.quadMap := by
  obtain ⟨g, c, w⟩ := u; cases w <;> rfl
@[simp] theorem State.endWait_layoutVer (s : State) (u : Tid) : (s.endWait u).layoutVer = s.layoutVer := by
  obtain ⟨g, c, w⟩ := u; cases w <;> rfl
@[simp] theorem State.endWait_shadow (s : State) (u : Tid) : (s.endWait u).shadow = s.shadow := by
  obtain ⟨g, c, w⟩ := u; cases w <;> rfl
@[simp] theorem State.endWait_periodAt (s : State) (u : Tid) : (s.endWait u).periodAt = s.periodAt := by
  obtain ⟨g, c, w⟩ := u; cases w <;> rfl
@[simp] theorem State.endWait_tensors (s : State) (u : Tid) : (s.endWait u).tensors = s.tensors := by
  obtain ⟨g, c, w⟩ := u; cases w <;> rfl
@[simp] theorem State.endWait_tensorBlocks (s : State) (u : Tid) : (s.endWait u).tensorBlocks = s.tensorBlocks := by
  obtain ⟨g, c, w⟩ := u; cases w <;> rfl
@[simp] theorem State.endWait_marks (s : State) (u : Tid) : (s.endWait u).marks = s.marks := by
  obtain ⟨g, c, w⟩ := u; cases w <;> rfl
@[simp] theorem State.endWait_markBlocks (s : State) (u : Tid) : (s.endWait u).markBlocks = s.markBlocks := by
  obtain ⟨g, c, w⟩ := u; cases w <;> rfl
@[simp] theorem State.endWait_landing (s : State) (u : Tid) : (s.endWait u).landing = s.landing := by
  obtain ⟨g, c, w⟩ := u; cases w <;> rfl
@[simp] theorem State.endWait_ports (s : State) (u : Tid) : (s.endWait u).ports = s.ports := by
  obtain ⟨g, c, w⟩ := u; cases w <;> rfl
@[simp] theorem State.endWait_msi (s : State) (u : Tid) : (s.endWait u).msi = s.msi := by
  obtain ⟨g, c, w⟩ := u; cases w <;> rfl
@[simp] theorem State.endWait_root (s : State) (u : Tid) : (s.endWait u).root = s.root := by
  obtain ⟨g, c, w⟩ := u; cases w <;> rfl
@[simp] theorem State.endWait_power (s : State) (u : Tid) : (s.endWait u).power = s.power := by
  obtain ⟨g, c, w⟩ := u; cases w <;> rfl
@[simp] theorem State.endWait_ready (s : State) (u : Tid) : (s.endWait u).ready = s.ready := by
  obtain ⟨g, c, w⟩ := u; cases w <;> rfl


@[simp] theorem gang_modGang_self (s : State) (g : Nat) (f : Gang → Gang) : (s.modGang g f).gang g = f (s.gang g) := by
  simp [State.gang, State.modGang]
theorem gang_modGang_ne (s : State) {g h : Nat} (f : Gang → Gang) (n : h ≠ g) : (s.modGang g f).gang h = s.gang h := by
  simp [State.gang, State.modGang, tabGet_tabPut_ne _ _ _ n]
theorem gangs_modGang_ne (s : State) {g h : Nat} (f : Gang → Gang) (n : h ≠ g) :
    tabGet? (s.modGang g f).gangs h = tabGet? s.gangs h := tabGet?_tabPut_ne _ _ n
@[simp] theorem core_modCore_self (s : State) (g c : Nat) (f : Core → Core) : (s.modCore g c f).core g c = f (s.core g c) := by
  simp [State.core, State.modCore]
theorem core_modCore_ne (s : State) {g c h d : Nat} (f : Core → Core) (n : h ≠ g ∨ d ≠ c) :
    (s.modCore g c f).core h d = s.core h d := by
  unfold State.core State.modCore
  by_cases e : h = g
  · subst e
    simp [tabGet_tabPut_ne Core.start _ _ (n.resolve_left (by simp))]
  · rw [gang_modGang_ne _ _ e]
@[simp] theorem taper_modTaper_self (s : State) (g c : Nat) (f : Taper → Taper) :
    ((s.modTaper g c f).core g c) = { s.core g c with taper := f (s.core g c).taper } := by simp [State.modTaper]
@[simp] theorem core_modWick_self (s : State) (g c : Nat) (w : Fin 8) (f : Wick → Wick) :
    (s.modWick g c w f).core g c = { s.core g c with wicks := (s.core g c).wicks.set w (f (s.core g c).wicks[w]) } := by
  simp [State.modWick]
@[simp] theorem wick_modWick_self (s : State) (g c : Nat) (w : Fin 8) (f : Wick → Wick) :
    (s.modWick g c w f).wick g c w = f (s.wick g c w) := by simp [State.wick]
theorem wick_modWick_ne (s : State) (g c : Nat) {w v : Fin 8} (f : Wick → Wick) (n : v ≠ w) :
    (s.modWick g c w f).wick g c v = s.wick g c v := by
  have : w.val ≠ v.val := fun e => n (Fin.ext e.symm)
  simp [State.wick, this]
@[simp] theorem thread_modThread_self (s : State) (u : Tid) (f : Thread → Thread) : (s.modThread u f).thread u = f (s.thread u) := by
  obtain ⟨g, c, w⟩ := u
  cases w <;> simp [State.thread, State.modThread]
@[simp] theorem thread_progress (s : State) (g : Nat) (u : Tid) : (s.progress g).thread u = s.thread u := by
  obtain ⟨h, c, w⟩ := u
  by_cases e : h = g
  · subst e; cases w <;> simp [State.thread, State.progress, State.wick, State.core]
  · cases w <;> simp [State.thread, State.progress, State.wick, State.core, gang_modGang_ne _ _ e]
@[simp] theorem core_progress (s : State) (g h c : Nat) : (s.progress g).core h c = s.core h c := by
  by_cases e : h = g
  · subst e; simp [State.progress, State.core]
  · simp [State.progress, State.core, gang_modGang_ne _ _ e]
@[simp] theorem wick_progress (s : State) (g h c : Nat) (w : Fin 8) : (s.progress g).wick h c w = s.wick h c w := by
  simp [State.wick]
theorem thread_modThread_ne (s : State) {u v : Tid} (f : Thread → Thread) (n : v ≠ u) : (s.modThread u f).thread v = s.thread v := by
  obtain ⟨g, c, w⟩ := u
  obtain ⟨h, d, x⟩ := v
  by_cases e : h = g ∧ d = c
  · obtain ⟨rfl, rfl⟩ := e
    cases w <;> cases x <;> simp_all [State.thread, State.modThread, State.wick]
    case wick.wick w x =>
      have : w.val ≠ x.val := fun e => n (Fin.ext e.symm)
      simp [this]
  · have n' : h ≠ g ∨ d ≠ c := by by_cases a : h = g <;> simp_all
    cases w <;> cases x <;>
      simp [State.thread, State.modThread, State.wick, State.modTaper, State.modWick, core_modCore_ne _ _ n']

@[simp] theorem Thread.getX_zero (th : Thread) : th.getX 0 = 0 := rfl
theorem Thread.getX_setX (th : Thread) (d r : Reg) (v : Word) :
    (th.setX d v).getX r = if r = 0 then 0 else if r = d then v else th.getX r := by
  unfold Thread.getX Thread.setX
  by_cases hr : r = 0#5
  · simp [hr]
  · by_cases hd : d = 0#5
    · subst hd; simp [hr]
    · by_cases e : r = d
      · subst e; simp [hr]
      · have : d.toNat ≠ r.toNat := fun h => e (BitVec.eq_of_toNat_eq h.symm)
        simp [hr, hd, e, this]
@[simp] theorem Thread.setX_zero (th : Thread) (v : Word) : th.setX 0 v = th := rfl
theorem getX_setX (s : State) (u : Tid) (d r : Reg) (v : Word) :
    (s.setX u d v).getX u r = if r = 0 then 0 else if r = d then v else s.getX u r := by
  simp [State.getX, State.setX, Thread.getX_setX]

end Sys2Proof.Machine
end

