-- ==== Sys2Proof/Laws/Ops.lean ====
section
/-! SUPPORT. What the shared operations do to memory and to threads, said once: the directory of the shared cache leaves the bytes of memory and
every thread as they are, a queued store changes the bytes that it carries, and a trap changes no byte. -/

namespace Sys2Proof.Machine

/-- What every step of a fold keeps, the fold keeps. -/
theorem foldl_keeps {α β : Type} (P : α → Prop) {f : α → β → α} (h : ∀ a b, P a → P (f a b)) (l : List β) {a : α} (ha : P a) :
    P (l.foldl f a) := by
  induction l generalizing a with
  | nil => exact ha
  | cons b l ih => exact ih (h a b ha)

/-- What no step of a fold changes, the fold leaves as it was. -/
theorem foldl_same {α β γ : Type} (g : α → γ) {f : α → β → α} (h : ∀ a b, g (f a b) = g a) (l : List β) (a : α) :
    g (l.foldl f a) = g a := foldl_keeps (fun x => g x = g a) (fun x b hx => (h x b).trans hx) l rfl

@[simp] theorem vmap_getElem {α β : Type} {n : Nat} (f : α → β) (v : Vector α n) (i : Nat) (h : i < n) : (vmap f v)[i] = f v[i] := by
  simp [vmap, Vector.toList]
@[simp] theorem vof_getElem {α : Type} {n : Nat} (f : Fin n → α) (i : Nat) (h : i < n) : (vof f)[i] = f ⟨i, h⟩ := by
  simp [vof]

/-! The links: a flit changes ports and the root's keys, no byte of memory and no gang. -/

@[simp] theorem modPort_mem (s : State) (k : Fin 6) (f : Port → Port) : (s.modPort k f).mem = s.mem := rfl
@[simp] theorem modPort_gangs (s : State) (k : Fin 6) (f : Port → Port) : (s.modPort k f).gangs = s.gangs := rfl
@[simp] theorem dropRequest_mem (s : State) (p d : Nat) : (dropRequest s p d).mem = s.mem := by unfold dropRequest; split <;> rfl
@[simp] theorem dropRequest_gangs (s : State) (p d : Nat) : (dropRequest s p d).gangs = s.gangs := by unfold dropRequest; split <;> rfl
@[simp] theorem noteRequest_mem (s : State) (p d : Nat) : (noteRequest s p d).mem = s.mem := by unfold noteRequest; split <;> rfl
@[simp] theorem noteRequest_gangs (s : State) (p d : Nat) : (noteRequest s p d).gangs = s.gangs := by unfold noteRequest; split <;> rfl
@[simp] theorem linkKeys_mem (s : State) (k : Fin 6) (p : Nat) : (linkKeys s k p).2.mem = s.mem := by unfold linkKeys; split <;> rfl
@[simp] theorem linkKeys_gangs (s : State) (k : Fin 6) (p : Nat) : (linkKeys s k p).2.gangs = s.gangs := by unfold linkKeys; split <;> rfl
@[simp] theorem sealFlit_mem (s : State) (k : Fin 6) (p : Nat) (bs : List Byte) : (sealFlit s k p bs).2.mem = s.mem := by
  unfold sealFlit; split <;> simp
@[simp] theorem sealFlit_gangs (s : State) (k : Fin 6) (p : Nat) (bs : List Byte) : (sealFlit s k p bs).2.gangs = s.gangs := by
  unfold sealFlit; split <;> simp
@[simp] theorem sendFlitOut_mem (s : State) (p d : Nat) (r : Bool) (bs : List Byte) : (sendFlitOut s p d r bs).mem = s.mem := by
  unfold sendFlitOut; split
  · split <;> simp
  · rfl
@[simp] theorem sendFlitOut_gangs (s : State) (p d : Nat) (r : Bool) (bs : List Byte) : (sendFlitOut s p d r bs).gangs = s.gangs := by
  unfold sendFlitOut; split
  · split <;> simp
  · rfl
@[simp] theorem requestFlit_mem (s : State) (vf pa : Nat) (bs : List Byte) : (requestFlit s vf pa bs).mem = s.mem := by simp [requestFlit]
@[simp] theorem requestFlit_gangs (s : State) (vf pa : Nat) (bs : List Byte) : (requestFlit s vf pa bs).gangs = s.gangs := by simp [requestFlit]
@[simp] theorem requestFlits_mem (vf n : Nat) (s : State) (pa : Nat) (bs : List Byte) : (requestFlits vf n s pa bs).mem = s.mem := by
  induction n generalizing s pa bs with
  | zero => rfl
  | succ n ih => unfold requestFlits; split <;> simp [ih]
@[simp] theorem requestFlits_gangs (vf n : Nat) (s : State) (pa : Nat) (bs : List Byte) : (requestFlits vf n s pa bs).gangs = s.gangs := by
  induction n generalizing s pa bs with
  | zero => rfl
  | succ n ih => unfold requestFlits; split <;> simp [ih]
@[simp] theorem remoteTouch_mem (s : State) (vf pa : Nat) (u : L2Use) : (remoteTouch s vf pa u).mem = s.mem := by
  unfold remoteTouch; split <;> simp
@[simp] theorem remoteTouch_gangs (s : State) (vf pa : Nat) (u : L2Use) : (remoteTouch s vf pa u).gangs = s.gangs := by
  unfold remoteTouch; split <;> simp
@[simp] theorem noRoom_mem (s : State) (vf pa : Nat) : (noRoom s vf pa).mem = s.mem := by unfold noRoom; split <;> simp
@[simp] theorem noRoom_gangs (s : State) (vf pa : Nat) : (noRoom s vf pa).gangs = s.gangs := by unfold noRoom; split <;> simp

/-! The directory of the shared cache. -/

@[simp] theorem countVf_mem (s : State) (v : Nat) (f : Vf → Vf) : (s.countVf v f).mem = s.mem := by
  unfold State.countVf; split <;> rfl
@[simp] theorem countVf_gangs (s : State) (v : Nat) (f : Vf → Vf) : (s.countVf v f).gangs = s.gangs := by
  unfold State.countVf; split <;> rfl
@[simp] theorem writeBackLine_mem (s : State) (vf line : Nat) (c : Bool) : (writeBackLine s vf line c).mem = s.mem := by
  unfold writeBackLine; repeat' split <;> simp
@[simp] theorem writeBackLine_gangs (s : State) (vf line : Nat) (c : Bool) : (writeBackLine s vf line c).gangs = s.gangs := by
  unfold writeBackLine; repeat' split <;> simp
@[simp] theorem hbmRead_mem (s : State) (vf line : Nat) : (hbmRead s vf line).mem = s.mem := by
  unfold hbmRead; repeat' split <;> simp
@[simp] theorem hbmRead_gangs (s : State) (vf line : Nat) : (hbmRead s vf line).gangs = s.gangs := by
  unfold hbmRead; repeat' split <;> simp
@[simp] theorem evictLine_mem (s : State) (l : L2Line) : (evictLine s l).mem = s.mem := by
  unfold evictLine; split
  · rfl
  · dsimp only; repeat' split <;> simp
@[simp] theorem evictLine_gangs (s : State) (l : L2Line) : (evictLine s l).gangs = s.gangs := by
  unfold evictLine; split
  · rfl
  · dsimp only; repeat' split <;> simp
@[simp] theorem insertLine_mem (s : State) (l : L2Line) : (insertLine s l).mem = s.mem := by
  unfold insertLine; split
  · rfl
  · dsimp only; split <;> simp
@[simp] theorem insertLine_gangs (s : State) (l : L2Line) : (insertLine s l).gangs = s.gangs := by
  unfold insertLine; split
  · rfl
  · dsimp only; split <;> simp
@[simp] theorem countPrefetchHit_mem (s : State) (l : L2Line) : (countPrefetchHit s l).mem = s.mem := by
  unfold countPrefetchHit; split
  · rfl
  · split <;> rfl
/-- A demand hit of a prefetched line moves counters only: threads and wicks stay. -/
theorem countPrefetchHit_core (s : State) (l : L2Line) (g c : Nat) :
    ((countPrefetchHit s l).core g c).taper = (s.core g c).taper ∧ ((countPrefetchHit s l).core g c).wicks = (s.core g c).wicks := by
  unfold countPrefetchHit
  split
  · simp
  · rename_i k d _
    split
    · simp
    · rename_i G hG
      by_cases hg : g = k
      · subst hg
        by_cases hc : c = d
        · subst hc; simp [State.core, State.gang, tabGet, hG, tabGet?_tabPut_self]
        · simp [State.core, State.gang, tabGet, hG, tabGet?_tabPut_self, tabGet?_tabPut_ne _ _ hc]
      · simp [State.core, State.gang, tabGet_tabPut_ne Gang.start _ _ hg]

/-- The record of a core depends on the gangs alone. -/
theorem core_of_gangs {s t : State} (h : s.gangs = t.gangs) (g c : Nat) : s.core g c = t.core g c := by simp [State.core, State.gang, h]

/-- An access at the shared cache changes no byte of memory: bytes change where they are written. -/
@[simp] theorem l2Touch_mem (s : State) (vf pa : Nat) (u : L2Use) (c : Bool) (pf : Option (Nat × Nat)) : (l2Touch s vf pa u c pf).mem = s.mem := by
  unfold l2Touch
  split
  · simp
  · dsimp only
    split
    · dsimp only; split <;> split <;> simp
    · split
      · split <;> simp
      · split <;> simp

/-- An access at the shared cache leaves every taper and every wick as it was. -/
theorem l2Touch_core (s : State) (vf pa : Nat) (u : L2Use) (cmp : Bool) (pf : Option (Nat × Nat)) (g c : Nat) :
    ((l2Touch s vf pa u cmp pf).core g c).taper = (s.core g c).taper ∧ ((l2Touch s vf pa u cmp pf).core g c).wicks = (s.core g c).wicks := by
  unfold l2Touch
  split
  · rw [core_of_gangs (remoteTouch_gangs s vf pa u) g c]; exact ⟨rfl, rfl⟩
  · dsimp only
    split
    · rename_i l _
      have k (x : State) (hx : x.gangs = s.gangs) :
          ((countPrefetchHit x l).core g c).taper = (s.core g c).taper ∧ ((countPrefetchHit x l).core g c).wicks = (s.core g c).wicks := by
        simp [countPrefetchHit_core, core_of_gangs hx]
      split <;> split
      all_goals first | exact k _ (by simp) | exact k _ rfl | simp [State.core, State.gang]
    · split
      · split <;> simp [State.core, State.gang]
      · split <;> simp [State.core, State.gang]

/-- What leaves tapers and wicks as they are leaves threads as they are. -/
theorem thread_of_core {s t : State} (h : ∀ g c, (s.core g c).taper = (t.core g c).taper ∧ (s.core g c).wicks = (t.core g c).wicks) (u : Tid) :
    s.thread u = t.thread u := by
  obtain ⟨g, c, w⟩ := u
  cases w <;> simp [State.thread, State.wick, (h g c).1, (h g c).2]
@[simp] theorem l2Touch_thread (s : State) (vf pa : Nat) (u : L2Use) (c : Bool) (pf : Option (Nat × Nat)) (v : Tid) :
    (l2Touch s vf pa u c pf).thread v = s.thread v := thread_of_core (l2Touch_core s vf pa u c pf) v
@[simp] theorem l2Touch_wick (s : State) (vf pa : Nat) (u : L2Use) (b : Bool) (pf : Option (Nat × Nat)) (g c : Nat) (w : Fin 8) :
    (l2Touch s vf pa u b pf).wick g c w = s.wick g c w := by simp [State.wick, (l2Touch_core s vf pa u b pf g c).2]

@[simp] theorem dropTiles_mem (s : State) (p : Nat → Nat → Bool) : (dropTiles s p).mem = s.mem := rfl
@[simp] theorem dropTiles_gangs (s : State) (p : Nat → Nat → Bool) : (dropTiles s p).gangs = s.gangs := rfl
@[simp] theorem unpin_mem (s : State) (g c : Nat) : (unpin s g c).mem = s.mem := rfl
@[simp] theorem unpin_gangs (s : State) (g c : Nat) : (unpin s g c).gangs = s.gangs := rfl

/-- Bytes written at the shared cache are the bytes of memory afterwards, and nothing else of memory changes. -/
@[simp] theorem l2WriteBytes_mem (s : State) (vf pa : Nat) (bs : List Byte) (c : Bool) :
    (l2WriteBytes s vf pa bs c).mem = memWriteBytes s.mem pa bs := by
  unfold l2WriteBytes
  split
  · rename_i h
    rw [List.isEmpty_iff] at h
    simp [h, memWriteBytes]
  · dsimp only
    rw [foldl_same State.mem (fun a k => by dsimp only; split <;> simp)]
    split <;> simp

/-! Queued accesses. -/

/-- A queued store performed changes the bytes that it carries. -/
@[simp] theorem performStore_mem (s : State) (u : Tid) (p : PendAccess) : (performStore s u p).mem = memPend s.mem p.bytes := by
  unfold performStore
  dsimp only
  split
  all_goals
    first
    | rw [foldl_same State.mem (fun a k => by split <;> simp)]
    | (simp only [State.modPcore_mem]; rw [foldl_same State.mem (fun a k => by split <;> simp)])

/-- A queued store performed changes no thread. -/
theorem performStore_core (s : State) (u : Tid) (p : PendAccess) (g c : Nat) :
    ((performStore s u p).core g c).taper = (s.core g c).taper ∧ ((performStore s u p).core g c).wicks = (s.core g c).wicks := by
  let F (x : State) : Taper × Vector Wick 8 := ((x.core g c).taper, (x.core g c).wicks)
  have ht (a : State) (vf pa : Nat) (us : L2Use) (b : Bool) (pf : Option (Nat × Nat)) : F (l2Touch a vf pa us b pf) = F a :=
    Prod.ext (l2Touch_core a vf pa us b pf g c).1 (l2Touch_core a vf pa us b pf g c).2
  have : F (performStore s u p) = F s := by
    unfold performStore
    dsimp only
    split
    · rw [foldl_same F]
      · rfl
      · intro a k; split
        · exact ht ..
        · exact ht ..
    · change F (List.foldl _ _ _) = F s
      rw [foldl_same F]
      · rfl
      · intro a k; split
        · exact ht ..
        · exact ht ..
  exact ⟨congrArg Prod.fst this, congrArg Prod.snd this⟩
@[simp] theorem performStore_thread (s : State) (u v : Tid) (p : PendAccess) : (performStore s u p).thread v = s.thread v :=
  thread_of_core (performStore_core s u p) v
@[simp] theorem performStore_wick (s : State) (u : Tid) (p : PendAccess) (g c : Nat) (w : Fin 8) :
    (performStore s u p).wick g c w = s.wick g c w := by simp [State.wick, (performStore_core s u p g c).2]

/-- What a queued access leaves in memory: a store its bytes, a load nothing. -/
def PendAccess.onMem (m : Mem) (p : PendAccess) : Mem := if p.load.isNone then memPend m p.bytes else m

@[simp] theorem fillScalar_mem (s : State) (u : Tid) (pa : Nat) : (fillScalar s u pa).mem = s.mem := by unfold fillScalar; split <;> rfl
/-- A queued load performed changes no byte of memory. -/
@[simp] theorem performLoad_mem (s : State) (u : Tid) (p : PendAccess) (d : LoadInto) : (performLoad s u p d).mem = s.mem := by
  have h : (((p.bytes.map fun b => sectorOf b.pa).eraseDups).foldl (fun s k => l2Touch s (s.vfOf u) (k * 64) .read p.cmp none) s).mem = s.mem :=
    foldl_same State.mem (fun a k => by simp) _ _
  unfold performLoad
  dsimp only
  split
  · simp [State.setX, h]
  · split
    · simp [h]
    · exact h
/-- A queued access performed changes memory as `onMem` says. -/
@[simp] theorem performAccess_mem (s : State) (u : Tid) (p : PendAccess) : (performAccess s u p).mem = p.onMem s.mem := by
  unfold performAccess PendAccess.onMem
  split <;> rename_i h <;> simp [h]
/-- Queued accesses performed in order, as memory sees them. -/
@[simp] theorem performAll_mem (s : State) (u : Tid) (q : List PendAccess) : (performAll s u q).mem = q.foldl PendAccess.onMem s.mem := by
  unfold performAll
  induction q generalizing s with
  | nil => rfl
  | cons p q ih => simp [ih]
/-- Flushing marked accesses performs them, in order. -/
@[simp] theorem flushMarked_mem (s : State) (u : Tid) (ms : List Bool) :
    (flushMarked s u ms).mem = ((((s.thread u).pend.zip ms).filter (·.2)).map (·.1)).foldl PendAccess.onMem s.mem := by
  simp [flushMarked]
/-- Flushing performs every queued access of the thread, in order. -/
@[simp] theorem flushStores_mem (s : State) (u : Tid) : (flushStores s u).mem = (s.thread u).pend.foldl PendAccess.onMem s.mem := by
  simp [flushStores]
/-- Stores performed change no thread. -/
theorem performAll_thread (s : State) (u v : Tid) {q : List PendAccess} (h : ∀ p ∈ q, p.load = none) :
    (performAll s u q).thread v = s.thread v := by
  unfold performAll
  induction q generalizing s with
  | nil => rfl
  | cons p q ih =>
    simp only [List.foldl_cons, ih _ fun x hx => h x (List.mem_cons_of_mem _ hx)]
    simp [performAccess, h p List.mem_cons_self]
/-- After a flush of stores the thread has an empty queue, and is as it was otherwise. -/
theorem flushStores_thread (s : State) (u : Tid) (h : ∀ p ∈ (s.thread u).pend, p.load = none) :
    (flushStores s u).thread u = { s.thread u with pend := [] } := by
  simp [flushStores, performAll_thread s u u h]
/-- A flush of stores changes no other thread. -/
theorem flushStores_thread_ne (s : State) {u v : Tid} (n : v ≠ u) (h : ∀ p ∈ (s.thread u).pend, p.load = none) :
    (flushStores s u).thread v = s.thread v := by
  simp [flushStores, thread_modThread_ne _ _ n, performAll_thread s u v h]
@[simp] theorem countRelease_mem (s : State) (u : Tid) : (countRelease s u).mem = s.mem := by simp [countRelease]
@[simp] theorem release_mem (s : State) (u : Tid) : (release s u).mem = (s.thread u).pend.foldl PendAccess.onMem s.mem := by simp [release]
@[simp] theorem queueStore_mem (s : State) (u : Tid) (p : PendAccess) : (queueStore s u p).mem = s.mem := by simp [queueStore]
@[simp] theorem raiseFlags_mem (s : State) (u : Tid) (f : BitVec 7) : (raiseFlags s u f).mem = s.mem := by simp [raiseFlags]

/-! The canonical form of memory is kept by every operation that writes memory. -/

theorem wf_onMem {m : Mem} (h : Memory.wf m = true) (p : PendAccess) : Memory.wf (p.onMem m) = true := by
  unfold PendAccess.onMem; split
  · exact wf_memPend h p.bytes
  · exact h
theorem wf_foldl_onMem {m : Mem} (h : Memory.wf m = true) (q : List PendAccess) : Memory.wf (q.foldl PendAccess.onMem m) = true :=
  foldl_keeps (fun x => Memory.wf x = true) (fun _ p hx => wf_onMem hx p) q h
theorem wf_l2WriteBytes {s : State} (h : Memory.wf s.mem = true) (vf pa : Nat) (bs : List Byte) (c : Bool) :
    Memory.wf (l2WriteBytes s vf pa bs c).mem = true := by simpa using wf_memWriteBytes h pa bs
theorem wf_performStore {s : State} (h : Memory.wf s.mem = true) (u : Tid) (p : PendAccess) : Memory.wf (performStore s u p).mem = true := by
  simpa using wf_memPend h p.bytes
theorem wf_performAccess {s : State} (h : Memory.wf s.mem = true) (u : Tid) (p : PendAccess) : Memory.wf (performAccess s u p).mem = true := by
  simpa using wf_onMem h p
theorem wf_flushMarked {s : State} (h : Memory.wf s.mem = true) (u : Tid) (ms : List Bool) : Memory.wf (flushMarked s u ms).mem = true := by
  simpa using wf_foldl_onMem h _
theorem wf_flushStores {s : State} (h : Memory.wf s.mem = true) (u : Tid) : Memory.wf (flushStores s u).mem = true := by
  simpa using wf_foldl_onMem h _
theorem wf_release {s : State} (h : Memory.wf s.mem = true) (u : Tid) : Memory.wf (release s u).mem = true := by
  simpa using wf_foldl_onMem h _
theorem wf_drainReleased {s : State} (h : Memory.wf s.mem = true) (u : Tid) (c : BitVec 3) : Memory.wf (drainReleased s u c).mem = true := by
  unfold drainReleased
  refine foldl_keeps (fun (x : State) => Memory.wf x.mem = true) (fun a v hx => ?_) _ h
  dsimp only
  split
  · exact wf_flushMarked hx _ _
  · exact hx
@[simp] theorem emptyScalar_mem (s : State) (u : Tid) : (emptyScalar s u).mem = s.mem := by simp [emptyScalar]
theorem wf_acquire {s : State} (h : Memory.wf s.mem = true) (u : Tid) (c : BitVec 3) : Memory.wf (acquire s u c).mem = true := by
  simpa [acquire] using wf_drainReleased h u c
theorem wf_acquireAll {s : State} (h : Memory.wf s.mem = true) (ts : List Tid) (c : BitVec 3) :
    Memory.wf (acquireAll s ts c).mem = true :=
  foldl_keeps (fun (x : State) => Memory.wf x.mem = true) (fun _ _ hx => by simpa using hx) ts
    (foldl_keeps (fun (x : State) => Memory.wf x.mem = true) (fun _ u hx => wf_drainReleased hx u c) ts h)
theorem wf_performNth {s : State} (h : Memory.wf s.mem = true) (u : Tid) (k : Nat) : Memory.wf (performNth s u k).mem = true := by
  unfold performNth
  dsimp only
  split
  · split
    · exact foldl_keeps (fun (x : State) => Memory.wf x.mem = true) (fun _ _ hx => by simpa using hx) _ h
    · split
      · simpa using wf_onMem h _
      · exact h
  · exact h

/-! Traps and halts change no byte of memory. -/

@[simp] theorem wickFault_mem (s : State) (g c : Nat) (w : Fin 8) (x : Cause) (v : Word) : (wickFault s g c w x v).mem = s.mem := by
  simp [wickFault]
@[simp] theorem dissolve_mem (s : State) (g c : Nat) : (dissolve s g c).mem = s.mem := by
  unfold dissolve
  refine (foldl_same State.mem (fun a k => foldl_same State.mem (fun b w => ?_) _ _) _ _).trans (by simp)
  split <;> simp
@[simp] theorem haltTaper_mem (s : State) (g c : Nat) : (haltTaper s g c).mem = s.mem := by
  unfold haltTaper
  simp only [dissolve_mem, unpin_mem, State.progress_mem, State.modCore_mem]
  refine foldl_same State.mem (fun a w => ?_) _ _
  split
  · exact State.modGang_mem ..
  · rfl
@[simp] theorem doubleTrap_mem (s : State) (g c : Nat) (x : BitVec 8) : (doubleTrap s g c x).mem = s.mem := by simp [doubleTrap]
@[simp] theorem taperTrap_mem (s : State) (g c : Nat) (x : Cause) (v : Word) : (taperTrap s g c x v).mem = s.mem := by
  unfold taperTrap
  dsimp only
  split <;> simp
@[simp] theorem trap_mem (s : State) (u : Tid) (x : Cause) (v : Word) : (trap s u x v).mem = s.mem := by
  unfold trap
  split
  · simp
  · dsimp only; split <;> simp

end Sys2Proof.Machine
end

