-- ==== Sys2Proof/Laws/Access.lean ====
section
/-! SUPPORT. What translation and the accesses of threads and engines do to memory: a read changes no byte, a translation changes one byte at most,
the dirty bit of a leaf, and each of them keeps memory in its canonical form. -/

namespace Sys2Proof.Machine

@[simp] theorem cacheXlat_mem (s : State) (p : Nat) (e : TlbEntry) : (cacheXlat s p e).mem = s.mem := rfl
/-- Setting D writes one byte, at the leaf (09 R217). -/
@[simp] theorem setDirty_mem (s : State) (vf : Nat) (l : Leaf2) :
    (setDirty s vf l).mem = memWriteBytes s.mem (l.entry + 1) [memByte s.mem (l.entry + 1) ||| 1] := by
  unfold setDirty; dsimp only; split <;> simp [State.modVf]
@[simp] theorem keepDirty_mem (s : State) (vf pa : Nat) : (keepDirty s vf pa).mem = s.mem := rfl
/-- The entries that a walk reads are reads of the L2, which change no byte (09 R219). -/
@[simp] theorem noteWalk_mem (s : State) (die : Fin 4) (vf : Nat) (tr : List WalkRead) : (noteWalk s die vf tr).mem = s.mem := by
  unfold noteWalk
  refine foldl_same State.mem (fun a r => ?_) _ _
  dsimp only
  split
  · exact l2Touch_mem ..
  · exact l2Touch_mem ..

/-- A translation leaves memory as it is, or sets D in one leaf (09 R217). -/
theorem translateBy_mem (s : State) (p vf : Nat) (va : Word) (k : Kind) (x d : Bool) :
    (translateBy s p vf va k x d).2.mem = s.mem ∨
      ∃ a, (translateBy s p vf va k x d).2.mem = memWriteBytes s.mem a [memByte s.mem a ||| 1] := by
  unfold translateBy
  dsimp only
  repeat' split
  all_goals first
    | exact .inl rfl
    | exact .inl (noteWalk_mem ..)
    | exact .inl ((cacheXlat_mem ..).trans (noteWalk_mem ..))
    | exact .inr ⟨_, by simp only [cacheXlat_mem, keepDirty_mem, setDirty_mem, noteWalk_mem]; rfl⟩
theorem wf_translateBy {s : State} (h : Memory.wf s.mem = true) (p vf : Nat) (va : Word) (k : Kind) (x d : Bool) :
    Memory.wf (translateBy s p vf va k x d).2.mem = true := by
  obtain e | ⟨a, e⟩ := translateBy_mem s p vf va k x d
  · rw [e]; exact h
  · rw [e]; exact wf_memWriteBytes h ..

@[simp] theorem raiseMiss_mem (s : State) (vf : Nat) (va : Word) (k : Kind) (m : Miss) : (raiseMiss s vf va k m).2.mem = s.mem := by
  unfold raiseMiss; dsimp only; repeat' split <;> simp
@[simp] theorem pushFault_mem (s : State) (vf : Nat) (r : FaultRec) : (pushFault s vf r).mem = s.mem := rfl
@[simp] theorem trapXlat_mem (s : State) (u : Tid) (c : Cause) (va : Word) (k : Kind) (p : FaultPlace) : (trapXlat s u c va k p).mem = s.mem := by
  simp [trapXlat]

/-- The state that a thread's translation leaves, whichever way it ends. -/
def Acc.after : Acc → State
  | .ok _ s => s
  | .stop s => s
theorem wf_threadXlatBy {s : State} (h : Memory.wf s.mem = true) (u : Tid) (va : Word) (k : Kind) (d : Bool) :
    Memory.wf (threadXlatBy s u va k d).after.mem = true := by
  have w := wf_translateBy h (s.pcoreNum u) (s.vfOf u) va k false d
  unfold threadXlatBy
  split <;> rename_i e <;> rw [e] at w
  · split <;> simpa [Acc.after] using w
  all_goals simpa [Acc.after] using w

/-- A scalar load changes memory only by the queued accesses that it must follow (14 R318). -/
theorem wf_scalarRead {s : State} (h : Memory.wf s.mem = true) (u : Tid) (x : Xlat) (n : Nat) :
    Memory.wf (scalarRead s u x n).2.mem = true := by
  unfold scalarRead
  split
  · exact h
  · simpa [flushScalar] using wf_flushMarked h u _
@[simp] theorem countFetchHit_mem (s : State) (u : Tid) (p : Nat) (l : CacheLine) : (countFetchHit s u p l).mem = s.mem := rfl
/-- A fetch changes no byte of memory. -/
@[simp] theorem fetchLine_mem (s : State) (u : Tid) (x : Xlat) : (fetchLine s u x).2.mem = s.mem := by
  unfold fetchLine; dsimp only; split
  · dsimp only; split <;> simp
  · simp
@[simp] theorem icacheFill_mem (s : State) (p line : Nat) : (icacheFill s p line).mem = s.mem := rfl

/-- The state that a range's translation leaves. -/
def RangeX.after : RangeX → State
  | .ok _ s => s
  | .fail _ _ _ s => s
  | .miss _ _ s => s
  | .logFull _ s => s
theorem wf_xlatRange (p vf : Nat) (k : Kind) (fuel : Nat) {s : State} (h : Memory.wf s.mem = true) (va : Word) (n : Nat)
    (acc : List (Word × Xlat × Nat)) : Memory.wf (xlatRange p vf k fuel s va n acc).after.mem = true := by
  induction fuel generalizing s va n acc with
  | zero => exact h
  | succ m ih =>
    unfold xlatRange
    split
    · exact h
    · have w := wf_translateBy h p vf va k false true
      change Memory.wf (translate s p vf va k false).2.mem = true at w
      split <;> rename_i e <;> rw [e] at w
      · exact ih w _ _ _
      all_goals exact w

/-- Reading a range changes no byte of memory. -/
@[simp] theorem readRange_mem (s : State) (vf : Nat) (pcs : List (Word × Xlat × Nat)) : (readRange s vf pcs).2.mem = s.mem := by
  induction pcs generalizing s with
  | nil => rfl
  | cons p ps ih =>
    obtain ⟨va, x, n⟩ := p
    simp only [readRange]
    rw [ih]
    exact foldl_same State.mem (fun a k => by simp) _ _

/-- The state that an engine's read leaves. -/
def EngineRead.after : EngineRead → State
  | .full s => s
  | .ok _ s => s
  | .fail _ _ _ s => s
  | .miss _ _ s => s
  | .logFull _ s => s
theorem piecesRoom_mem {s t : State} {vf : Nat} {pcs : List (Word × Xlat × Nat)} (h : piecesRoom s vf pcs = some t) : t.mem = s.mem := by
  unfold piecesRoom at h
  split at h
  · cases h; simp
  · cases h
theorem wf_engineRead {s : State} (h : Memory.wf s.mem = true) (p vf : Nat) (va : Word) (n : Nat) :
    Memory.wf (engineRead s p vf va n).after.mem = true := by
  have w := wf_xlatRange p vf .read (n / 4096 + 2) h va n []
  unfold engineRead
  split <;> rename_i e <;> rw [e] at w
  · exact w
  · exact w
  · exact w
  · split
    · exact w
    · split
      · rename_i r; simpa [EngineRead.after, RangeX.after, piecesRoom_mem r] using w
      · simpa [EngineRead.after, RangeX.after] using w
theorem wf_engineWrite {s : State} (h : Memory.wf s.mem = true) (vf : Nat) (pcs : List (Word × Xlat × Nat)) (bs : List Byte) :
    Memory.wf (engineWrite s vf pcs bs).mem = true := by
  induction pcs generalizing s bs with
  | nil => exact h
  | cons p ps ih => exact ih (wf_l2WriteBytes h ..) _
theorem wf_zeroGranule {s : State} (h : Memory.wf s.mem = true) (granule : Nat) : Memory.wf (zeroGranule s granule).mem = true := by
  unfold zeroGranule
  dsimp only
  generalize (List.replicate 4096 (0 : Byte)) = bs
  exact wf_memWriteBytes h _ bs

end Sys2Proof.Machine
end

