-- ==== Sys2Proof/Laws/Sweep.lean ====
section
/-! SUPPORT. Elements of a row read and written, and what a sweep leaves in a row: each element that the sweep's function gives a value holds it,
and every other element is as it was (03 R60, 07 R157). -/

namespace Sys2Proof.Machine

/-- The bits of an element. -/
theorem testBit_elemAt (row : BitVec 65536) (w e i : Nat) :
    (elemAt row w e).testBit i = (decide (i < w) && row.getLsbD (w * e + i)) := by
  simp [elemAt, Nat.testBit_mod_two_pow, Nat.testBit_div_two_pow, BitVec.getLsbD, Nat.add_comm]

/-- The bits of a row with an element replaced. -/
theorem getLsbD_elemSet (row : BitVec 65536) (w e v j : Nat) :
    (elemSet row w e v).getLsbD j =
      (decide (j < 65536) && if w * e ≤ j ∧ j < w * e + w then v.testBit (j - w * e) else row.getLsbD j) := by
  have low (x : Nat) (k : Nat) (hk : k < 65536) : (BitVec.ofNat 65536 x).getLsbD k = x.testBit k := by
    simp only [BitVec.getLsbD, BitVec.toNat_ofNat, Nat.testBit_mod_two_pow, hk, decide_true, Bool.true_and]
  by_cases hj : j < 65536
  · have hk : j - w * e < 65536 := by omega
    simp only [elemSet, BitVec.getLsbD_or, BitVec.getLsbD_and, BitVec.getLsbD_not, BitVec.getLsbD_shiftLeft, low _ _ hk,
      Nat.testBit_two_pow_sub_one, Nat.testBit_mod_two_pow, hj, decide_true, Bool.true_and]
    by_cases h1 : w * e ≤ j
    · by_cases h2 : j < w * e + w
      · simp [h1, h2, Nat.not_lt.mpr h1, show j - w * e < w by omega]
      · simp [h1, h2, Nat.not_lt.mpr h1, show ¬ j - w * e < w by omega]
    · simp [h1, Nat.lt_of_not_le h1]
  · simp [hj, BitVec.getLsbD_of_ge _ _ (Nat.le_of_not_lt hj)]

/-- An element written is read back, modulo its width. -/
theorem elemAt_elemSet_self (row : BitVec 65536) (w e v : Nat) (h : w * e + w ≤ 65536) : elemAt (elemSet row w e v) w e = v % 2 ^ w := by
  apply Nat.eq_of_testBit_eq
  intro i
  rw [testBit_elemAt, getLsbD_elemSet, Nat.testBit_mod_two_pow]
  by_cases hi : i < w
  · simp [hi, show w * e + i < 65536 by omega, show w * e + i - w * e = i by omega]
  · simp [hi]

/-- The other elements stay. -/
theorem elemAt_elemSet_ne (row : BitVec 65536) (w : Nat) {e d : Nat} (v : Nat) (n : d ≠ e) :
    elemAt (elemSet row w e v) w d = elemAt row w d := by
  apply Nat.eq_of_testBit_eq
  intro i
  rw [testBit_elemAt, testBit_elemAt, getLsbD_elemSet]
  by_cases hi : i < w
  · by_cases hj : w * d + i < 65536
    · have : ¬(w * e ≤ w * d + i ∧ w * d + i < w * e + w) := by
        rcases Nat.lt_or_gt_of_ne n with h | h
        · have : w * (d + 1) ≤ w * e := Nat.mul_le_mul_left w h
          rw [Nat.mul_add] at this; omega
        · have : w * (e + 1) ≤ w * d := Nat.mul_le_mul_left w h
          rw [Nat.mul_add] at this; omega
      simp [hi, hj, this]
    · simp [hj, BitVec.getLsbD_of_ge row _ (Nat.le_of_not_lt hj)]
  · simp [hi]

/-- What a sweep of a row leaves in an element that it does not reach. -/
theorem elemAt_sweepRow_ne (w : Nat) (f : Nat → Option Flagged) (es : List Nat) (o : RowOut) {d : Nat} (n : d ∉ es) :
    elemAt (sweepRow w f es o).row w d = elemAt o.row w d := by
  induction es generalizing o with
  | nil => rfl
  | cons e es ih =>
    rw [List.mem_cons, not_or] at n
    unfold sweepRow
    split
    · exact ih _ n.2
    · rw [ih _ n.2]; exact elemAt_elemSet_ne _ _ _ n.1

/-- What a sweep of a row leaves in an element that it reaches: the value that the function gives, or what was there. -/
theorem elemAt_sweepRow (w : Nat) (f : Nat → Option Flagged) (es : List Nat) (o : RowOut) {d : Nat} (m : d ∈ es) (nd : es.Nodup)
    (h : w * d + w ≤ 65536) :
    elemAt (sweepRow w f es o).row w d = match f d with | some (v, _) => v % 2 ^ w | none => elemAt o.row w d := by
  induction es generalizing o with
  | nil => cases m
  | cons e es ih =>
    rw [List.nodup_cons] at nd
    unfold sweepRow
    by_cases hd : d = e
    · subst hd
      split
      · rw [elemAt_sweepRow_ne _ _ _ _ nd.1]; simp [*]
      · rw [elemAt_sweepRow_ne _ _ _ _ nd.1]; simp [*, elemAt_elemSet_self]
    · have m' : d ∈ es := (List.mem_cons.mp m).resolve_left hd
      split
      · exact ih _ m' nd.2
      · rw [ih _ m' nd.2]; simp only [elemAt_elemSet_ne _ _ _ hd]

/-- The flags that a sweep of a row raises are those of the elements that it writes. -/
theorem sweepRow_flags (w : Nat) (f : Nat → Option Flagged) (es : List Nat) (o : RowOut) :
    (sweepRow w f es o).flags = (es.filterMap f).foldl (fun a p => a ||| p.2) o.flags := by
  induction es generalizing o with
  | nil => rfl
  | cons e es ih => unfold sweepRow; split <;> simp [*]

theorem mem_natsFrom (lo n k : Nat) : k ∈ natsFrom lo n ↔ lo ≤ k ∧ k < lo + n := by
  induction n generalizing lo with
  | zero => simp [natsFrom]
  | succ n ih => simp only [natsFrom, List.mem_cons, ih]; omega
theorem natsFrom_nodup (lo n : Nat) : (natsFrom lo n).Nodup := by
  induction n generalizing lo with
  | zero => simp [natsFrom]
  | succ n ih => simp only [natsFrom, List.nodup_cons, ih, mem_natsFrom, and_true]; omega

end Sys2Proof.Machine
end

