-- ==== Sys2Proof/Laws/Vigil.lean ====
section
/-! SUPPORT. The length of the check of a spill image, and an image that verifies (11 R267, R269). -/

namespace Sys2Proof.Machine

theorem natsFrom_length (lo n : Nat) : (natsFrom lo n).length = n := by
  induction n generalizing lo with
  | zero => rfl
  | succ n ih => simp [natsFrom, ih]

theorem leBytes_length (n v : Nat) : (leBytes n v).length = n := by
  induction n generalizing v with
  | zero => rfl
  | succ n ih => simp [leBytes, ih]

theorem keccakF_length (a : List (BitVec 64)) (h : a.length = 25) : (keccakF a).length = 25 := by
  unfold keccakF
  suffices ∀ (rs : List (BitVec 64)) (a : List (BitVec 64)), a.length = 25 → (rs.foldl keccakRound a).length = 25 from this _ _ h
  intro rs
  induction rs with
  | nil => intro a h; exact h
  | cons r rs ih => intro a _; exact ih _ (by simp [keccakRound, natsFrom_length])

theorem absorb_length (a : List (BitVec 64)) (bs : List Byte) : (absorb a bs).length = 25 :=
  keccakF_length _ (by simp [natsFrom_length])

theorem absorbAll_length (n : Nat) (a : List (BitVec 64)) (bs : List Byte) (h : a.length = 25) : (absorbAll n a bs).length = 25 := by
  induction n generalizing a bs with
  | zero => exact h
  | succ n ih =>
    simp only [absorbAll]
    split
    · exact ih _ _ (absorb_length _ _)
    · exact absorb_length _ _

/-- The check of an image has 32 bytes. -/
theorem shake256_length (bs : List Byte) : (shake256 bs).length = 32 := by
  have h := absorbAll_length (bs.length / 136 + 1) (List.replicate 25 0) bs (by simp)
  unfold shake256
  simp only
  generalize absorbAll (bs.length / 136 + 1) (List.replicate 25 0) bs = a at h
  match a, h with
  | a :: b :: c :: d :: t, _ => simp [leBytes_length]

/-- A field of a header is that of its front. -/
theorem imageField_append (f t : List Byte) {lo hi : Nat} (h : hi ≤ f.length) (hl : lo ≤ hi) : imageField (f ++ t) lo hi = imageField f lo hi := by
  unfold imageField
  rw [List.drop_append_of_le_length (by omega), List.take_append_of_le_length (by simp; omega)]

/-- An image with a front of its form and the check of it verifies, whatever its cells. -/
theorem readImage_isSome (f cells : List Byte) (w : Fin 8) (b : Word) (hl : f.length = 224)
    (hf : imageField f 0 4 = 0x56494731 ∧ imageField f 4 6 = 1 ∧ imageField f 6 8 = 0 ∧ imageField f 28 32 = 0 ∧ imageField f 40 224 = 0) :
    ∃ im, readImage (f ++ shake256 (f ++ cells) ++ cells) w b = some im := by
  have hs := shake256_length (f ++ cells)
  have e (lo hi : Nat) (h : hi ≤ 224) (h2 : lo ≤ hi) :
      imageField (f ++ shake256 (f ++ cells) ++ cells) lo hi = imageField f lo hi := by
    rw [List.append_assoc]; exact imageField_append _ _ (by omega) h2
  have t1 : (f ++ shake256 (f ++ cells) ++ cells).take 224 = f := by
    rw [List.append_assoc, List.take_append_of_le_length (by omega), List.take_of_length_le (by omega)]
  have t2 : ((f ++ shake256 (f ++ cells) ++ cells).drop 224).take 32 = shake256 (f ++ cells) := by
    rw [List.append_assoc, List.drop_append, List.drop_of_length_le (by omega), hl]
    simp only [Nat.sub_self, List.drop_zero, List.nil_append]
    rw [List.take_append_of_le_length (by omega), List.take_of_length_le (by omega)]
  have t3 : (f ++ shake256 (f ++ cells) ++ cells).drop 256 = cells := by
    rw [List.drop_append, List.drop_of_length_le (by simp; omega)]; simp [hl, hs]
  obtain ⟨h1, h2, h3, h4, h5⟩ := hf
  unfold readImage
  simp only [e 0 4 (by omega) (by omega), e 4 6 (by omega) (by omega), e 6 8 (by omega) (by omega), e 28 32 (by omega) (by omega),
    e 40 224 (by omega) (by omega), h1, h2, h3, h4, h5, t1, t2, t3]
  simp

end Sys2Proof.Machine
end

