-- ==== Sys2Proof/Safety.lean ====
section
/-! DEFINITION. What a safe run is: every step of it answers a next state, and memory keeps its canonical form. -/

namespace Sys2Proof.Safety

open Sys2Proof.Machine

/-- The state after `n` steps, if each answers a next state. -/
def after : Nat → State → Option State
  | 0, s => some s
  | n + 1, s =>
    match step s with
    | .next t => after n t
    | .fault _ => none
    | .refused _ => none

/-- A run of `n` steps is safe: no step of it faults or is refused, and each state of it has memory in canonical form. -/
def SafeRun (n : Nat) (s : State) : Prop := ∀ k, k ≤ n → ∃ t, after k s = some t ∧ Memory.wf t.mem = true

/-- A state is safe to step from: it answers a next state. -/
def Steps (s : State) : Prop := ∃ t, step s = .next t

end Sys2Proof.Safety
end

