-- ==== Sys2Proof/Tests/Setup.lean ====
section
/-! SUPPORT. Small states for the tests and the witnesses: one gang on one core, about to act, and changes of one part of it. -/

namespace Sys2Proof.Tests

open Sys2Proof.Machine Sys2Proof.Claims

/-- Gang 0 on one core, its taper about to act. -/
def taper0 : State := placeState State.reset .taper 0x08000000
/-- The same gang, its free-running wick 0 about to act. -/
def wick0 : State := placeState State.reset (.wick 0) 0x08000000
/-- The taper changed. -/
def taperWith (f : Taper → Taper) : State := taper0.modTaper 0 0 f
/-- The wick changed. -/
def wickWith (f : Wick → Wick) : State := wick0.modWick 0 0 0 f
/-- A state with registers x1, x2, x3 of its acting thread set. -/
def withX (s : State) (a b c : Word) : State := ((s.setX s.cur 1 a).setX s.cur 2 b).setX s.cur 3 c
/-- A block-driven wick on the first of two words. -/
def block0 : State :=
  wickWith fun W => { W with state := .blockDriven, queue := [{ base := 0x10000, words := [0x08000000, 0x08000000], pos := 0 }] }
/-- A block-driven wick on the last word of its block. -/
def blockLast : State :=
  wickWith fun W => { W with state := .blockDriven, queue := [{ base := 0x10000, words := [0x08000000, 0x08000000], pos := 1 }] }
/-- A wick with one row of 32 bits of capacity, `et` and a length. -/
def laneWick (et : Nat) (vl : Nat) : State :=
  wickWith fun W => { W with vlcapLg := 2, vl := BitVec.ofNat 16 vl, th := { W.th with vtype := BitVec.ofNat 8 et } }
/-- The state that an outcome answers. -/
def nextOf (o : Host.Outcome State Fault Refusal) : State := match o with | .next t => t | _ => State.reset
/-- Whether an outcome answers a state of which a test holds. -/
def next? (o : Host.Outcome State Fault Refusal) (p : State → Bool) : Bool := match o with | .next t => p t | _ => false
/-- Whether an access translates, to what a test accepts. -/
def accOk (a : Acc) (p : Xlat → State → Bool) : Bool := match a with | .ok x s => p x s | .stop _ => false
/-- Whether an access stops. -/
def accStops (a : Acc) : Bool := match a with | .stop _ => true | .ok _ _ => false
/-- Whether a translation succeeds, to what a test accepts. -/
def xlatOk (a : Xres × State) (p : Xlat → State → Bool) : Bool := match a with | (.ok x, s) => p x s | _ => false
/-- Whether a translation fails. -/
def xlatFails (a : Xres × State) : Bool := match a with | (.fail _ _, _) => true | _ => false
/-- A word far outside the page that the tests map, whose translation fails. -/
def unmapped : Word := 0x8000000000000000

end Sys2Proof.Tests
end

