-- ==== Sys2Proof/Tests/WitnessVector.lean ====
section
/-! SUPPORT. For each claim about the vector pipes, the vector memory forms and the matrix array that has hypotheses, states and operands that
meet them, clause by clause. -/

namespace Sys2Proof.Tests

open Sys2Proof.Machine Sys2Proof.Claims

/-- The only lane of a full row, its tail past the length; an empty sweep; a mask at its edge. -/
theorem witness_LaneResult :
    let s := laneWick 1 3
    let W := s.curWick 0
    let e := (laneWick 1 0).curWick 0
    s.cur.who = .wick 0 ∧ ((laneSpec s W (.vadd 0 8 16 7 0)).map (·.legal)) = some true ∧ W.group? 0 = some [0] ∧ W.group? 8 = some [8] ∧
    W.group? 16 = some [16] ∧ W.vln ≤ W.cap ∧ W.emptySweep = false ∧ e.emptySweep = true ∧
    ((laneSpec s W (.vid 0 31 1 1)).map (·.legal)) = some true := by decide

theorem witness_GroupRegisters :
    ((laneWick 1 3).curWick 0).vrows = 1 ∧ ((wickWith fun W => { W with vrows := 8, split := true }).curWick 0).group? 8 ≠ none ∧
    ((wickWith fun W => { W with vrows := 8 }).curWick 0).wide? 16 ≠ none ∧ ((wickWith fun W => { W with vrows := 8 }).curWick 0).group? 1 = none ∧
    ((wickWith fun W => { W with vrows := 8 }).curWick 0).wide? 8 = none := by decide

theorem witness_CompareResult :
    let s := laneWick 1 3
    let W := s.curWick 0
    s.cur.who = .wick 0 ∧ (compareSpec W (.vcmp 7 16 8 0 0 7)).isSome = true ∧ isIntEt W.et = true ∧ namesMask 1 ∧ namesMask 7 ∧
    W.positions ≤ 32768 ∧ W.group? 16 = some [16] ∧ W.emptySweep = false := by
  unfold namesMask; decide

theorem witness_WideningResult :
    let s := laneWick 1 3
    let W := s.curWick 0
    s.cur.who = .wick 0 ∧ (wideSpec W (.vwmacc 2 0 1 0 0)).isSome = true ∧ isNarrowEt W.et = true ∧ W.maskFits 0 = true ∧
    W.wide? 2 = some [2, 3] ∧ W.group? 0 = some [0] ∧ W.group? 1 = some [1] ∧ W.vln ≤ W.cap ∧ W.emptySweep = false ∧
    W.wide? 0 = some [0, 1] := by decide

theorem witness_NarrowingResult :
    let s := laneWick 1 3
    let W := s.curWick 0
    s.cur.who = .wick 0 ∧ (narrowSpec W (.vnclip 4 2 1 0 0)).isSome = true ∧ isNarrowEt W.et = true ∧ W.group? 4 = some [4] ∧
    W.wide? 2 = some [2, 3] ∧ W.vln ≤ W.cap ∧ W.emptySweep = false ∧ W.group? 3 = some [3] := by decide

theorem witness_ReductionResult :
    let W := (laneWick 1 3).curWick 0
    let F := (laneWick 5 3).curWick 0
    W.group? 0 = some [0] ∧ W.nrows ≠ 0 ∧ W.maskFits 1 = true ∧ W.emptySweep = false ∧ W.vln ≤ W.cap ∧ isIntEt W.et = true ∧
    F.emptySweep = false ∧ F.vln ≤ F.cap ∧ isFloatEt F.et = true := by decide

theorem witness_PermutationResult :
    let W := (laneWick 1 3).curWick 0
    let P := ({ W with vstart := 1 } : Wick)
    W.group? 0 = some [0] ∧ W.group? 1 = some [1] ∧ W.group? 2 = some [2] ∧ W.maskFits 1 = true ∧ W.emptySweep = false ∧ W.vln ≤ W.cap ∧
    (slideSpec W (.vslide1 0 1 2 0 0)).isSome = true ∧ W.vstart = 0 ∧ P.vstart ≠ 0 ∧ P.emptySweep = false := by decide

theorem witness_ScalarElementMoves :
    let W := (laneWick 1 3).curWick 0
    W.group? 31 = some [31] ∧ W.nrows ≠ 0 ∧ W.cap ≠ 0 ∧ (0 : Nat) < W.positions := by decide

theorem witness_MaskResult :
    let W := (laneWick 1 3).curWick 0
    W.positions ≤ 32768 ∧ (maskSpec (.mandn 1 7 2)).isSome = true ∧ namesMask 1 ∧ namesMask 7 ∧ ((2 : Reg).toNat ≤ 2) ∧ 0 < W.positions := by
  unfold namesMask; decide

/-- A lane form in the taper; a float form on integers; a compare into m0; a widening form on 32-bit elements; a misaligned group. -/
theorem witness_VectorChecks :
    let s := laneWick 1 3
    let W := s.curWick 0
    let G := (wickWith fun W => { W with vrows := 2, vl := 3 }).curWick 0
    (taper0.cur.who = .taper ∧ (laneSpec taper0 (taper0.curWick 0) (.vadd 0 8 16 0 0)).isSome = true) ∧
    ((laneSpec s W (.vfadd 0 8 16 0 0)).map (·.legal)) = some false ∧ G.group? 1 = none ∧
    (compareSpec W (.vcmp 0 16 8 0 0 7)).isSome = true ∧ ¬namesMask 0 ∧ ¬namesMask 8 ∧ isNarrowEt 5 = false ∧
    (wideSpec W (.vwadd 1 0 2 0 0)).isSome = true ∧ W.wide? 1 = none ∧ (narrowSpec W (.vnclip 4 3 1 0 0)).isSome = true ∧ W.wide? 3 = none := by
  unfold namesMask; decide

/-! Vector memory forms. The page of address 0 is in the translation cache of the core after one access. -/

/-- A wick of bytes whose core has the mapping of its page cached. -/
def vmemWick (vl : Nat) : State :=
  let s := nextOf (exec (.lw 0 6 0) (withX (laneWick 1 vl) 0x20000 0x20000 0))
  { s with gangs := (laneWick 1 vl).gangs } |>.setX (laneWick 1 vl).cur 1 0x20000

/-- The cached mapping that serves it. -/
def vmemEntry : TlbEntry :=
  ((((vmemWick 3).pcoreOf 0).tlb.find? (·.grants 1 0x20000 (needOf .read false) true)).getD
    { vf := 0, va := 0, lg := 0, pa := 0, ipa := 0, r := false, w := false, x := false, s1r := false, s1w := false, s1x := false, d := false
      wch := false, cmp := false, tables := [] })

/-- Whether every byte of an access is served by the cached mapping, with room, no poison and no race, as `passes` asks. -/
def passesB (s : State) (x : TlbEntry) (load : Bool) (a m : Nat) : Bool :=
  let n := (a % 8 + m + 7) / 8
  decide (16 ≤ m → a / 8 % (m / 8) = 0) && decide (a / 8 + n ≤ 2 ^ 64) && decide (a / 8 % 2 ^ x.lg + n ≤ 2 ^ x.lg) &&
  (List.range n).all (fun j =>
    (s.pcoreOf (s.pcoreNum s.cur)).tlb.find? (·.grants (s.vfOf s.cur) (BitVec.ofNat 64 (a / 8 + j)) (needOf (if load then .read else .write) false) true) ==
      some x && (!load || (decide (readable s (under x (a / 8) + j)) && !isRemote s (under x (a / 8) + j))) &&
      l2Room s (s.vfOf s.cur) (under x (a / 8) + j) &&
      !raceAt s s.cur { x.out (BitVec.ofNat 64 (a / 8)) with pa := under x (a / 8) + j } && !isHost (under x (a / 8) + j))

theorem witness_VectorLoadResult :
    let s := vmemWick 3
    let W := s.curWick 0
    s.cur.who = .wick 0 ∧ (memForm s W (.vld 0 1 0 0 1)).isSome = true ∧
    ((memForm s W (.vld 0 1 0 0 1)).map fun F => F.load && F.legal) = some true ∧ W.vmem = none ∧ W.emptySweep = false ∧ W.vln ≤ W.cap ∧
    W.nrows ≠ 0 ∧ W.rotate (W.fieldReg 0) = 0 ∧ W.fieldReg 0 + 1 * W.nrows ≤ 2 * W.rotBase ∧
    passesB s vmemEntry true (8 * 0x20000) 8 = true ∧ passesB s vmemEntry true (8 * 0x20000 + 16) 8 = true := by decide

/-- The same form, left for later by the agenda. -/
theorem witness_VectorLoadLeft :
    let s := { vmemWick 3 with late := true }
    let W := s.curWick 0
    s.cur.who = .wick 0 ∧ ((memForm s W (.vld 0 1 0 0 1)).map fun F => F.load && F.legal) = some true ∧ W.vmem = none ∧ W.emptySweep = false ∧
    W.vln ≤ W.cap ∧ ((memForm s W (.vld 0 1 0 0 1)).map fun F => accesses W F) = some [(0, 0), (1, 0), (2, 0)] ∧
    passesB s vmemEntry true (8 * 0x20000) 8 = true ∧ passesB s vmemEntry true (8 * 0x20000 + 16) 8 = true := by decide +kernel

/-- The load in flight that the first of those accesses becomes: its place is the first element of v0. -/
theorem witness_LateElementLanded :
    let s := nextOf (exec (.vld 0 1 0 0 1) { vmemWick 3 with late := true })
    ((s.thread s.cur).pend.map fun p => match p.load with | some (.v y) => (y.reg, y.w * y.e + y.w) | _ => (none, 0)) =
      [(some 0, 16), (some 0, 32), (some 0, 48)] ∧ 48 ≤ ((s.curWick 0)).regBits := by decide +kernel

theorem witness_VectorStoreResult :
    let s := vmemWick 3
    let W := s.curWick 0
    ((memForm s W (.vst 0 1 0 0 1)).map fun F => !F.load && F.legal) = some true ∧ W.vmem = none ∧ W.emptySweep = false ∧ W.vln ≤ W.cap ∧
    passesB s vmemEntry false (8 * 0x20000) 8 = true ∧ passesB s vmemEntry false (8 * 0x20000 + 16) 8 = true := by decide

theorem witness_ElementStorePerformed : 4 + 4 ≤ 8 * 1 := by decide

/-- The first 16-bit element at an odd address. -/
theorem witness_VectorMemoryFault :
    let s := (vmemWick 3).setX (vmemWick 3).cur 1 0x20001
    let W := s.curWick 0
    ((memForm s W (.vld 0 1 0 0 0)).map fun F => F.load && F.legal) = some true ∧ W.vmem = none ∧ W.emptySweep = false ∧ W.vln ≤ W.cap ∧
    W.positions < 2 ^ 18 ∧ holdsJoined s s.cur.gang s.cur.core 0 = false ∧ 16 ≤ memBits W 0 ∧ 0x20001 % (memBits W 0 / 8) ≠ 0 := by decide

theorem witness_MxResult :
    let s := vmemWick 3
    let s := s.modWick 0 0 0 fun W => { W with th := { W.th with vtype := 5 } }
    let W := s.curWick 0
    mxFormat 13 = true ∧ mxFormat 15 = true ∧ isFloatEt W.et = true ∧ W.maskFits 0 = true ∧ W.group? 0 = some [0] ∧ W.emptySweep = false ∧
    W.vln ≤ W.cap ∧ passesB s vmemEntry true (8 * 0x20000) 8 = true ∧ passesB s vmemEntry false (8 * 0x20000) 8 = true := by decide

theorem witness_MxScaleRule :
    FVal.nan false ∈ [FVal.nan false] ∧ (∀ v ∈ [FVal.fin false 0 0], v.isNan = false) ∧
    (∀ v ∈ [FVal.inf true, FVal.inf false], v.isInf = true) ∧ (∀ v ∈ [FVal.fin false 3 1, FVal.fin true 1 0], v.isNan = false) := by decide

/-- Wick 0 exports v2; the index of each element is 0; then an index of a core that the gang lacks. -/
theorem witness_LanternResult :
    let s := laneWick 5 3
    let W := s.curWick 0
    pairs W 5 = true ∧ mxFormat 5 = false ∧ 8 ≤ memBits W 5 ∧ W.vl.toNat ≤ W.capBits / 32 ∧ W.maskFits 1 = true ∧ W.group? 0 = some [0] ∧
    W.group? 1 = some [1] ∧ W.emptySweep = false ∧ W.vln ≤ W.cap ∧ lanternSpec s 0 (2 ^ 25) 32 = none ∧
    (lanternSpec (s.modCurCore fun C => { C with windows := C.windows.set 0 { C.windows[(0 : Fin 8)] with valid := true, rows := 1, rb := 4 } })
      0 0 32).isSome = true := by decide

theorem witness_PrefetchResult :
    reg wick0 1 = 0 ∧ reg (withX wick0 1 0x10000 unmapped) 1 = 1 ∧
    xlatFails (translate wick0 (wick0.pcoreNum wick0.cur) (wick0.vfOf wick0.cur) unmapped .prefetch false) = true ∧
    xlatOk (translate wick0 (wick0.pcoreNum wick0.cur) (wick0.vfOf wick0.cur) 0x10000 .prefetch false) (fun _ _ => true) = true := by decide

/-! The matrix array. -/

/-- A wick with rows of 4,096 bits: 128 lanes of BF16 take half a row. -/
def arrayWick : State := wickWith fun W => { W with vlcapLg := 7, vl := 128, th := { W.th with vtype := 5 } }
/-- The same with another wick owning tile 3. -/
def ownedTile : State :=
  arrayWick.modCurCore fun C => { C with owners := C.owners.set 3 { C.owners[(3 : Fin 4)] with owner := some 1 } }

theorem witness_TileCleared :
    arrayFree arrayWick 0 ∧ mayOwn arrayWick 0 3 = true ∧ (curEntry arrayWick 3).pinned = false ∧ arrayFree ownedTile 0 ∧
    mayOwn ownedTile 0 3 = false := by
  refine ⟨⟨rfl, by decide⟩, by decide, by decide, ⟨rfl, by decide⟩, by decide⟩

theorem witness_RegisterProduct :
    let W := arrayWick.curWick 0
    let j := { arrayWick with gangs := arrayWick.gangs.map fun e => (e.1, { e.2 with quadMode := [(0, { joined := some 3 })] }) }
    (arrayBusy arrayWick arrayWick.cur 0 = false ∧ (regForm (.mxp 3 0 2 0)).isSome = true) ∧
    (W.group? 0 = some [0] ∧ W.wide? 2 = some [2, 3] ∧ W.vstart.toNat % 16 = 0) ∧ mayOwn arrayWick 0 3 = true ∧ isJoined arrayWick 3 = false ∧
    isJoined j 3 = true ∧ arrayBusy j j.cur 0 = false ∧ mayOwn j 0 3 = true ∧ mayOwn ownedTile 0 3 = false ∧ W.wide? 1 = none := by decide

theorem witness_ArrayIssue :
    let busy := arrayWick.modWick 0 0 1 fun W => { W with state := .freeRunning, th := { W.th with wait := some (.joint (.mxp 3 0 2 0)) } }
    arrayForm (.mseg 0 2 1) = true ∧ taper0.cur.who = .taper ∧ arrayBusy busy busy.cur 0 = true := by decide

theorem witness_TileMoves :
    let s := withX arrayWick 127 0 0
    let W := s.curWick 0
    let E := (s.modWick 0 0 0 fun W => { W with vl := 0 }).curWick 0
    let B := (s.modWick 0 0 0 fun W => { W with vrows := 4 }).curWick 0
    W.group? 0 = some [0] ∧ ((reg s 1).toNat % 128 * 256 + W.positions ≤ 32768 ∧ W.maskFits 0 = true) ∧ mayOwn s 0 0 = true ∧ W.vln ≤ W.cap ∧
    W.emptySweep = false ∧ E.emptySweep = true ∧ mayOwn ownedTile 0 3 = false ∧ ¬(127 % 128 * 256 + B.positions ≤ 32768) ∧
    B.group? 1 = none := by decide

theorem witness_ArrayWait :
    let w := arrayWick.setWait arrayWick.cur (.mwait 5)
    let busy := w.modWick 0 0 1 fun W => { W with state := .freeRunning, th := { W.th with wait := some (.joint (.mxp 3 0 2 0)) } }
    arrayBusy arrayWick arrayWick.cur 0 = false ∧ (w.thread w.cur).wait = some (.mwait 5) ∧ arrayBusy w w.cur 0 = false ∧
    (busy.thread busy.cur).wait = some (.mwait 5) ∧ arrayBusy busy busy.cur 0 = true ∧
    ((w.modWick 0 0 1 fun W => { W with th := { W.th with wait := some (.mwait 2) } }).curWick 1).th.wait = some (.mwait 2) := by decide

/-- Counts 128 and 0, which fill the rows, and 129. -/
theorem witness_SegmentResult :
    let s (n : Nat) := arrayWick.modWick 0 0 0 fun W => { W with vl := 2, rows := [(2, BitVec.ofNat 65536 n)] }
    let W := (s 128).curWick 0
    W.group? 0 = some [0] ∧ W.group? 2 = some [2] ∧ (1 : BitVec 3) ≠ 0 ∧ W.vl.toNat ≤ W.capBits / 32 ∧ 128 ≤ W.nrows * (W.capBits / 32) ∧
    W.nrows ≠ 0 ∧ ((List.range 2).map fun k => elemAt (W.reg 2) 32 k).sum ≤ 128 ∧
    128 < ((List.range 2).map fun k => elemAt (((s 129).curWick 0).reg 2) 32 k).sum := by decide +kernel

/-- A gang of the four cores of a quad, the wick 0 of each core waiting as `wait` says. -/
def quadGang (wait : Nat → Wait) : State :=
  let core (k : Nat) : Core :=
    let C := arrayWick.curCore
    { C with wicks := C.wicks.set 0 { C.wicks[(0 : Fin 8)] with th := { C.wicks[(0 : Fin 8)].th with wait := some (wait k) } } }
  arrayWick.modGang 0 fun G => { G with desc := { G.desc with ncm1 := 3 }, cores := [(0, core 0), (1, core 1), (2, core 2), (3, core 3)] }

theorem witness_QuadJoin :
    let s := (quadGang fun _ => .mquad true 2).modWick 0 0 0 fun W => { W with th := { W.th with wait := none } }
    let j := s.modGang 0 fun G => { G with quadMode := [(0, { joined := some 2 })] }
    let same := quadGang fun _ => .mquad true 2
    let differ := quadGang fun k => .mquad true (if k = 3 then 1 else 2)
    let taken := same.modOwner 0 3 2 fun o => { o with owner := some 1 }
    (arrayBusy s s.cur 0 = false ∧ joinedTile s 0 0 = none ∧ (curEntry s 2).vigil = false ∧ mayOwn s 0 2 = true ∧
      (List.range 4).all (fun k => quadCore 0 k ≤ (s.gang 0).desc.ncm1.toNat && (s.core 0 (quadCore 0 k)).taper.run == .running) = true) ∧
    (arrayBusy j j.cur 0 = false ∧ joinedTile j 0 0 = some 2 ∧ mayOwn j 0 2 = true) ∧
    (List.range 4).all (fun k => quadWaiter same 0 (quadCore 0 k) == some (0, true, 2)) = true ∧
    (List.range 4).all (fun k => quadWaiter differ 0 (quadCore 0 k) == some (0, true, if k = 3 then 1 else 2)) = true ∧
    (List.range 4).all (fun k => mayOwnIn same 0 (quadCore 0 k) 0 2) = true ∧ joinedTile taken 0 0 = none ∧
    (List.range 4).all (fun k => quadWaiter taken 0 (quadCore 0 k) == some (0, true, 2)) = true ∧
    mayOwnIn taken 0 (quadCore 0 3) 0 2 = false := by decide

theorem witness_JointProduct :
    let s := quadGang fun _ => .joint (.mxp 2 0 2 0)
    let W (k : Nat) := s.wick 0 (quadCore 0 k) 0
    let d := s.modWick 0 3 0 fun W => { W with vrows := 2 }
    (List.range 4).all (fun k => jointWaiter s 0 (quadCore 0 k) == some (0, .mxp 2 0 2 0) &&
      jointKey (W k) (.mxp 2 0 2 0) == jointKey (W 0) (.mxp 2 0 2 0) && (W k).group? 0 == some [0] && (W k).wide? 2 == some [2, 3]) = true ∧
    (regForm (.mxp 2 0 2 0)).isSome = true ∧ (W 0).vstart.toNat % 16 = 0 ∧
    (List.range 4).all (fun k => (W k).fetch.isNone && mayOwnIn s 0 (quadCore 0 k) 0 2) = true ∧
    (jointTrap s 0 0 0 (.mxp 2 0 1 0)).isSome = true ∧
    jointKey (d.wick 0 3 0) (.mxp 2 0 2 0) ≠ jointKey (d.wick 0 0 0) (.mxp 2 0 2 0) := by decide

end Sys2Proof.Tests
end

