-- ==== Sys2Proof/Tests/WitnessTiles.lean ====
section
/-! SUPPORT. States and operands that meet the hypotheses of the claims about tile operands, vigil tiles and the tensor table, clause by
clause. -/

namespace Sys2Proof.Tests

open Sys2Proof.Machine Sys2Proof.Claims

/-- Whether a fetch succeeds. -/
def fetched {α : Type} (f : Fetch α) : Bool := match f with | .ok _ _ => true | _ => false
/-- Whether a fetch fails. -/
def fetchFails {α : Type} (f : Fetch α) : Bool := match f with | .fail _ _ _ _ => true | _ => false
/-- Whether a fetch succeeds and another one from the state that it leaves. -/
def fetchedThen {α β : Type} (f : Fetch α) (h : State → Fetch β) : Bool := match f with | .ok _ s => fetched (h s) | _ => false
/-- Whether a result is there. -/
def exceptOk {ε α : Type} (e : Except ε α) : Bool := match e with | .ok _ => true | .error _ => false
/-- Whether an engine's read succeeds. -/
def engineOk (e : EngineRead) : Bool := match e with | .ok _ _ => true | _ => false

/-- A tensor of 8 rows of 16 BF16 elements at an address. -/
def smallTensor (base : Word) : Tensor :=
  { base := base, scalebase := 0, fmt := 0, rank := 2, dim0 := 16, dim1 := 8, dim2 := 1, dim3 := 1, stride1 := 64, stride2 := 0, stride3 := 0 }
/-- `arrayWick` with that tensor as entry 0 of its VF's block. -/
def tensorWick (base : Word) : State := { arrayWick with tensorBlocks := [(0, 1)], tensors := [(0, smallTensor base)] }
/-- The supply of operand a, or b, of an MXPT with both operands tiles. -/
def tileSupply (base : Word) (lanes : Nat) : Supply :=
  { core := 0, wick := 0, op := .tile { tid := 0, bidx := 0, morg := 0, k0 := 0, ten := smallTensor base }, code := 0, lanes := lanes }

/-- What a tile fetch of that wick reads with, and the line that it asks for. -/
def tileGet (r : TileRef) (m kl : Nat) (s : State) : Fetch (List Byte) := tileLine 0 0 1 r.tid r.bidx r.ten m kl (engineReader 0 1) s

/-- Both operands tiles, both registers; formats that do not pair; an operand register that names no entry; a tensor outside memory; the fetch
left for later. -/
theorem witness_TileProductResult :
    let s := tensorWick 0x20000
    let f := tensorWick unmapped
    let l := { s with late := true }
    let W := s.curWick 0
    let i := Instr.mxpt 1 3 0 0 0 0 0
    let op (b : Word) := (tileSupply b 128).op
    let s0 (s : State) := flushStores ((takeTile s 0 1).modCurCore fun C => { C with resident := 1 }) s.cur
    let s1 (s : State) (b : Word) := ((s0 s).modCur 0 fun W => { W with fetch := some { instr := i, a := op b, b := op b, joint := false } }).endWait s.cur
    (mxptFormats 3 0 0 = true ∧ mxptFormats 0 0 0 = true ∧ mxptFormats 0 1 0 = false ∧ W.vstart.toNat % 16 = 0 ∧ mxptAligned W 3 0 0 = true) ∧
    mayOwn s 0 1 = true ∧ mayOwn ownedTile 0 3 = false ∧ isJoined s 1 = false ∧ arrayBusy s s.cur 0 = false ∧ arrayBusy f f.cur 0 = false ∧
    W.fetch = none ∧ (match matOperands s 0 0 0 i with | .ok o => o == (op 0x20000, op 0x20000) | .error _ => false) = true ∧ exceptOk (matOperands arrayWick 0 0 0 i) = false ∧
    W.depth 0 0 = 2 ∧
    fetchedThen (supplyChunk 0 (engineReader 0 1) tileGet (s1 s 0x20000) (tileSupply 0x20000 128))
      (fun s2 => supplyChunk 0 (engineReader 0 1) tileGet s2 (tileSupply 0x20000 256)) = true ∧
    fetchFails (supplyChunk 0 (engineReader 0 1) tileGet (s1 f unmapped) (tileSupply unmapped 128)) = true ∧
    (leaveFetch (s0 l) l.cur 0 1 0 0 0 (op 0x20000) (op 0x20000)).isSome = true := by decide +kernel

/-- A state with the tile line of that tensor pinned for core 0 of gang 0, and the same once its pin is released. -/
def lineState : State :=
  match tileLine 0 0 1 0 0 (smallTensor 0x20000) 0 0 (engineReader 0 1) arrayWick with | .ok _ s => s | _ => arrayWick
def lineFree : State := { lineState with l2 := lineState.l2.map fun l => { l with pins := [] } }

/-- A wick that waits for a way inside an MXPT of that tensor. -/
def lineWaiter : State :=
  (tensorWick 0x20000).modWick 0 0 0 fun W =>
    { W with fetch := some { instr := .mxpt 1 3 0 0 0 0 0, a := (tileSupply 0x20000 128).op, b := (tileSupply 0x20000 256).op, joint := false }
             th := { W.th with wait := some .tile } }

/-- The last row inside, the first row outside; the line in the L2, with its pin and without one; no line; the line that a waiting product
wants. -/
theorem witness_TileLines :
    let T := smallTensor 0x20000
    let w := lineWaiter
    let find (s : State) := s.l2.find? (fun x => x.tag == .tile 1 0 0 0 0 && (!x.stale || x.pins.contains (0, 0)))
    let place := tilePlace 0 (tileIndex T 0 0 0)
    T.fmt ≤ 13 ∧ ((0 + 7 < T.dim1 ∧ 0 < T.dim0 ∧ 0 / T.dim2 < T.dim3) ∧ ¬(0 + 8 < T.dim1)) ∧
    fetched (engineReader 0 1 arrayWick (T.base + BitVec.ofNat 64 (7 * 64)) 32) = true ∧
    (find lineState).any (fun l => l.pins != []) = true ∧ (find lineFree).any (fun l => l.pins == []) = true ∧
    mayPin lineFree place.1 place.2 = true ∧ (find arrayWick).isNone = true ∧ (arrayWick.vf 1).wayMask ≠ 0 ∧
    (chooseWay arrayWick 1 place.1 place.2).isSome = true ∧ fetched (fetchTileData T 0 0 0 (engineReader 0 1) arrayWick) = true ∧
    (w.gangs.map (·.1) = [0] ∧ (w.gang 0).vf = 1 ∧ (w.gang 0).life = .running ∧ (w.gang 0).cores.map (·.1) = [0]) ∧
    (lineWanted w 0 0 0 0 0 0 0).isSome = true ∧
    fetched (tileLine 0 0 1 0 0 T 0 0 (engineReader ((w.gang 0).pcore 0) 1) w) = true := by decide +kernel

/-- A wick that owns tile 1 as a vigil of `X[1]`'s dimensions, and whose length is one token. -/
def vigilWick (dims : Word) : State :=
  let s := nextOf (exec (.mpin 1 1) (withX arrayWick dims 0x3F800000 0))
  s.modWick 0 0 0 fun W => { W with vl := 1 }

/-- The largest vigil, dimensions past it, a tile of another wick, a vigil and an ordinary tile, a joined tile. -/
theorem witness_VigilPinned :
    let s := withX arrayWick 0x7FFF 0x8000 0
    let o := withX ownedTile 0x7FFF 0 0
    let v := vigilWick 0x7FFF
    let j := { s with gangs := s.gangs.map fun e => (e.1, { e.2 with quadMode := [(0, { joined := some 3 })] }) }
    (s.cur.who = .wick 0 ∧ arrayBusy s s.cur 0 = false ∧ isJoined s 1 = false ∧ (reg s 1).toNat < 2 ^ 15 ∧ 2 ^ 15 ≤ (reg s 2).toNat ∧
      mayOwn s 0 1 = true ∧ (curEntry s 1).vigil = false ∧ (curEntry s 1).owner = none) ∧
    (arrayBusy o o.cur 0 = false ∧ isJoined o 3 = false ∧ mayOwn o 0 3 = false) ∧
    (arrayBusy v v.cur 0 = false ∧ isJoined v 1 = false ∧ mayOwn v 0 1 = true ∧ ownVigil v 0 1) ∧
    (arrayBusy j j.cur 0 = false ∧ isJoined j 3 = true) := by decide

/-- Groups apart and not, a length at its limit and past it, an own vigil, an ordinary tile and a tile of another wick. -/
theorem witness_DeltaResult :
    let s := vigilWick 0x7FFF
    let W := s.curWick 0
    let L := (s.modWick 0 0 0 fun W => { W with vl := 2 }).curWick 0
    let o := (ownedTile.modWick 0 0 0 fun W => { W with vl := 1 })
    (W.wide? 2 = some [2, 3] ∧ W.group? 1 = some [1] ∧ W.wide? 4 = some [4, 5] ∧ W.group? 3 = some [3]) ∧
    (isFloatEt W.et = true ∧ W.vl.toNat ≤ W.nrows * W.cap / 128 ∧ ¬(L.vl.toNat ≤ L.nrows * L.cap / 128)) ∧
    ((∀ n ∈ [1], n ∉ [2, 3] ∧ n ∉ [4, 5]) ∧ ¬(∀ n ∈ [3], n ∉ [2, 3])) ∧
    (ownVigil s 0 1 ∧ ¬ownVigil s 0 0 ∧ mayOwn s 0 0 = true ∧ W.cap ≠ 0 ∧ arrayBusy s s.cur 0 = false ∧ isJoined s 1 = false) ∧
    (mayOwn o 0 3 = false ∧ arrayBusy o o.cur 0 = false ∧ isJoined o 3 = false) := by decide

theorem witness_ReadQueryResult :
    let s := vigilWick 0x7FFF
    let W := s.curWick 0
    W.wide? 2 = some [2, 3] ∧ W.group? 1 = some [1] ∧ W.group? 3 = some [3] ∧ isFloatEt W.et = true ∧ W.vl.toNat ≤ W.nrows * W.cap / 128 ∧
    (∀ n ∈ [1], n ∉ [2, 3]) ∧ ¬(∀ n ∈ [3], n ∉ [2, 3]) ∧ ownVigil s 0 1 ∧ ¬ownVigil s 0 0 ∧ mayOwn s 0 0 = true ∧ W.cap ≠ 0 := by decide

/-- A cached mapping of the first 2 MiB onto themselves. -/
def wideEntry : TlbEntry :=
  { vf := 1, va := 0, lg := 21, pa := 0, ipa := 0, r := true, w := true, x := true, s1r := true, s1w := true, s1x := true, d := true
    wch := false, cmp := false, tables := [] }
/-- A vigil's wick whose core has that mapping alone cached, and X[1] an address. -/
def spillWick (a : Word) : State :=
  let s := vigilWick 0x7FFF
  { s.setX s.cur 1 a with pcores := [(0, { PCore.reset with tlb := [wideEntry] })] }

/-- With an empty L2, a VF that may use the first way finds room for any line of this device's memory. -/
theorem room_empty (s : State) (vf pa : Nat) (hl : s.l2 = []) (hc : s.coord = 0) (hm : bitOf (s.vf vf).wayMask 0 = true) (h : pa < 2 ^ 44) :
    l2Room s vf pa = true := by
  have hr : isRemote s pa = false := by
    unfold isRemote paCoord; rw [hc]; simp; omega
  have hz : ((s.vf vf).wayMask == 0) = false := by
    rcases hh : ((s.vf vf).wayMask == 0) with _ | _
    · rfl
    · rw [beq_iff_eq.1 hh] at hm; simp [bitOf] at hm
  unfold l2Room
  rw [hr, hz]; simp [chooseWay, hl, natsFrom, wayAllowed, hm]

theorem wideEntry_serves (k : Kind) (hk : k = .read ∨ k = .write) (va n : Nat) (h : va + n ≤ 2 ^ 21) :
    plainRange (spillWick 0x20000) wideEntry va n k := by
  have ht : ((spillWick 0x20000).pcoreOf ((spillWick 0x20000).pcoreNum (spillWick 0x20000).cur)).tlb = [wideEntry] := by decide
  have hv : (spillWick 0x20000).vfOf (spillWick 0x20000).cur = 1 := by decide
  refine ⟨by omega, ⟨?_, fun j hj => ?_⟩, fun j hj => ⟨?_, ?_⟩⟩
  · show va % 2 ^ 21 + n ≤ 2 ^ 21
    rcases Nat.lt_or_ge va (2 ^ 21) with h1 | h1
    · omega
    · have : n = 0 := by omega
      subst this; omega
  · rw [ht, hv]
    have e : (BitVec.ofNat 64 (va + j)).toNat / 2 ^ 21 * 2 ^ 21 = 0 := by
      rw [BitVec.toNat_ofNat]; omega
    rcases hk with rfl | rfl <;>
      simp [TlbEntry.grants, wideEntry, needOf, Need.within] <;> (rw [BitVec.toNat_ofNat] at e; omega)
  · refine room_empty _ _ _ (by decide) (by decide) (by rw [hv]; decide) ?_
    show 0 + va % 2 ^ 21 + j < 2 ^ 44
    omega
  · simp [raceAt, TlbEntry.out, wideEntry]

/-- 128 as vstart, 129; another wick's tile; an address off 256. -/
theorem witness_SpillResult :
    let s := spillWick 0x20000
    let o := { ownedTile with pcores := s.pcores }
    (s.cur.who = .wick 0 ∧ arrayBusy s s.cur 0 = false ∧ isJoined s 1 = false ∧ (s.curWick 0).vstart.toNat ≤ 128 ∧ mayOwn s 0 1 = true ∧
      (reg s 1).toNat % 256 = 0 ∧ (reg (spillWick 0x20080) 1).toNat % 256 ≠ 0) ∧
    128 < ((s.modWick 0 0 0 fun W => { W with vstart := 129 }).curWick 0).vstart.toNat ∧ mayOwn o 0 3 = false ∧ (reg s 1).toNat = 0x20000 := by
  decide
theorem witness_SpillResult_range : plainRange (spillWick 0x20000) wideEntry 0x20000 131328 .write := wideEntry_serves .write (.inr rfl) _ _ (by decide)

/-- The front of the image of an ordinary tile, and 128 rows of zero cells. -/
def plainFront : List Byte := leBytes 4 0x56494731 ++ leBytes 2 1 ++ List.replicate 218 0
theorem plainFront_length : plainFront.length = 224 := by
  rw [plainFront, List.length_append, List.length_append, leBytes_length, leBytes_length, List.length_replicate]
theorem plainFront_fields :
    imageField plainFront 0 4 = 0x56494731 ∧ imageField plainFront 4 6 = 1 ∧ imageField plainFront 6 8 = 0 ∧ imageField plainFront 28 32 = 0 ∧
    imageField plainFront 40 224 = 0 := by decide +kernel
def plainCells : List Byte := List.replicate 131072 0
/-- A verifying image in memory at 0x20000. -/
def imageWick : State :=
  { spillWick 0x20000 with
    mem := memWriteBytes (spillWick 0x20000).mem 0x20000 (plainFront ++ shake256 (plainFront ++ plainCells) ++ plainCells) }

theorem witness_FillResult :
    let s := spillWick 0x20000
    let o := { ownedTile with pcores := s.pcores }
    s.cur.who = .wick 0 ∧ arrayBusy s s.cur 0 = false ∧ isJoined s 1 = false ∧ mayOwn s 0 1 = true ∧ (reg s 1).toNat = 0x20000 ∧
    (reg (spillWick 0x20080) 1).toNat % 256 ≠ 0 ∧ mayOwn o 0 3 = false ∧ (s.poison = [] ∧ s.denied = []) ∧ (s.thread s.cur).pend = [] ∧
    imageField (memBytes s.mem 0x20000 131328) 0 4 = 0 := by decide
theorem witness_FillResult_range : plainRange (spillWick 0x20000) wideEntry 0x20000 131328 .read := wideEntry_serves .read (.inl rfl) _ _ (by decide)
/-- The bytes of that image, which verifies. -/
theorem witness_FillResult_image :
    ∃ im, readImage (memBytes imageWick.mem 0x20000 131328) 0 0x20000 = some im := by
  have hl : (plainFront ++ shake256 (plainFront ++ plainCells) ++ plainCells).length = 131328 := by
    rw [List.length_append, List.length_append, shake256_length, plainFront_length, plainCells, List.length_replicate]
  have h := memBytes_memWriteBytes (spillWick 0x20000).mem 0x20000 (plainFront ++ shake256 (plainFront ++ plainCells) ++ plainCells)
  rw [hl] at h
  have e : imageWick.mem =
      memWriteBytes (spillWick 0x20000).mem 0x20000 (plainFront ++ shake256 (plainFront ++ plainCells) ++ plainCells) := by simp only [imageWick]
  rw [e, h]
  exact readImage_isSome plainFront plainCells 0 0x20000 plainFront_length plainFront_fields
theorem witness_FillResult_none : readImage (memBytes (spillWick 0x20000).mem 0x20000 131328) 0 0x20000 = none := by
  have h : imageField (memBytes (spillWick 0x20000).mem 0x20000 131328) 0 4 = 0 := witness_FillResult.2.2.2.2.2.2.2.2.2
  unfold readImage; simp only [h]; rfl

/-- A vigil of the largest dimensions; an ordinary tile. -/
theorem witness_ImageRoundTrip :
    let v := (vigilWick 0x7FFF).core 0 0
    v.owners[(1 : Fin 4)].vigil = v.owners[(1 : Fin 4)].pinned ∧ v.owners[(1 : Fin 4)].vigil = true ∧ v.owners[(1 : Fin 4)].dk.toNat = 256 ∧
    v.owners[(1 : Fin 4)].dv.toNat = 128 ∧ v.owners[(0 : Fin 4)].vigil = v.owners[(0 : Fin 4)].pinned ∧
    v.owners[(0 : Fin 4)].vigil = false := by decide

/-- Descriptors at 0x20000: one whose first dimension is the largest, and one of zeros. -/
def describedWick (id : Word) (ds : List Byte) : State :=
  let s := { vmemWick 3 with tensorBlocks := [(127, 1)], tensors := [(8191, smallTensor 0x20000)] }
  { s.setX s.cur 2 id with mem := memWriteBytes s.mem 0x20000 ds }

theorem witness_TensorDefined :
    let d := leBytes 8 0x30000 ++ leBytes 8 0 ++ leBytes 8 0x100 ++ leBytes 4 65536 ++ leBytes 4 1 ++ leBytes 4 1 ++ leBytes 4 1
    let keeps (s : State) (want : Bool) := accOk (threadXlat s s.cur (reg s 1) .read) fun X s1 =>
      decide (readable s1 X.pa) && decide (descriptorKeeps fun lo n => memRead (flushWhere s1 s.cur (·.meets (vectorAt X.pa 64))).mem X.pa 64 / 2 ^ (8 * lo) % 2 ^ (8 * n)) == want
    let s := describedWick 8191 d
    s.cur.who = .wick 0 ∧ namesTensor s (reg s 2) ∧ (reg s 1).toNat % 64 = 0 ∧ keeps s true = true ∧
    keeps (describedWick 8191 []) false = true ∧ ¬namesTensor (describedWick 8192 d) 8192 ∧
    (reg (s.setX s.cur 1 0x20020) 1).toNat % 64 ≠ 0 := by decide +kernel

/-- An entry of the VF's block, one of no block; a range that meets an entry, and an empty range. -/
theorem witness_TensorLinesDropped :
    let s := (describedWick 0x20000 []).setX (describedWick 0x20000 []).cur 3 1
    s.cur.who = .wick 0 ∧ namesTensor s 8191 ∧ ¬namesTensor s 8192 ∧ ¬namesTensor s 0 ∧
    ((8191, smallTensor 0x20000) ∈ s.tensors ∧ tabGet? s.tensorBlocks (8191 / 64) = some (s.vfOf s.cur) ∧ 0 < (reg s 3).toNat ∧
      0 < (8 - 1) * 64 + (16 * matWidth 0 + 7) / 8 ∧ (reg s 2).toNat + 0 = (smallTensor 0x20000).base.toNat + 0) ∧
    (reg s 4).toNat = 0 := by decide

theorem witness_TensorTaper : taper0.cur.who = .taper := by decide

end Sys2Proof.Tests
end

