-- ==== Sys2Proof/Tests/Effects.lean ====
section
/-! SUPPORT. Tests of what single instructions do, one step each; the expected values are worked out by hand from the rules, or stand in the worked
examples of chapters 03, 07, 10, 11 and 15. -/

namespace Sys2Proof.Tests

set_option Elab.async false

open Sys2Proof.Machine Sys2Proof.Claims

/-- Register `d` of the acting thread after an instruction. -/
def xd' (d : Reg) (i : Instr) (s : State) : Word := (nextOf (exec i s)).getX s.cur d
/-- The state with a handler for the taper at 0x40. -/
def handled (s : State) : State := s.modTaper 0 0 fun T => { T with tvec := 16 }
/-- Register x5. -/
def xd (i : Instr) (s : State) : Word := xd' 5 i s
/-- The bytes 0x80, 0xFF, 0x7F, 0x01 at 0x20000. -/
def bytesAt : State := { taper0 with mem := memWrite taper0.mem 0x20000 4 0x017FFF80 }
/-- A row of elements of a width, from element 0 on. -/
def rowOf (w : Nat) (xs : List Nat) : BitVec 65536 := BitVec.ofNat 65536 (xs.foldr (fun x a => x + 2 ^ w * a) 0)
/-- A wick of an element type and a length, with two rows. -/
def rowsWick (et vl w : Nat) (a b : List Nat) : State := (laneWick et vl).modWick 0 0 0 fun W => { W with rows := [(1, rowOf w a), (2, rowOf w b)] }
/-- The first elements of a register. -/
def elems (t : State) (r w n : Nat) : List Nat := (List.range n).map fun k => elemAt ((t.wick 0 0 0).reg r) w k
/-- 128 BF16 elements of one value. -/
def bf16Row (v : Nat) : BitVec 65536 := BitVec.ofNat 65536 (v * ((2 ^ 2048 - 1) / 65535))
/-- The wick of the example of chapter 10. -/
def productWick : State :=
  wickWith fun W =>
    { W with
      vlcapLg := 6, vrows := 2, vl := 128, th := { W.th with vtype := 6 }
      rows := [(0, bf16Row 0x3F80), (1, bf16Row 0x3B80), (4, bf16Row 0x3F80), (5, bf16Row 0x3F80), (6, bf16Row 0x3780), (7, bf16Row 0x3780)]
      masks := [(1, BitVec.ofNat 32768 (1 + 2 ^ 128))] }
/-- Elements of a row at places. -/
def sparseRow (xs : List (Nat × Nat)) : BitVec 65536 := BitVec.ofNat 65536 (xs.foldl (fun a e => a + e.2 <<< (32 * e.1)) 0)
/-- The wick of the example of chapter 11, its vigil pinned. -/
def deltaWick : State :=
  let one := 0x3F800000
  let s := wickWith fun W =>
    { W with
      vl := 3, th := { W.th with vtype := 5 }
      rows := [(4, sparseRow [(0, one), (257, one), (512, one)]), (6, sparseRow [(0, one), (256, one), (512, one)]),
               (8, sparseRow [(0, 0x40400000), (1, one), (128, 0x40000000), (129, 0x40000000), (256, 0x40A00000), (257, 0xBF800000)])] }
  nextOf (exec (.mpin 2 12) (((s.setX s.cur 10 0x3F000000).setX s.cur 11 one).setX s.cur 12 0x0103))

/-! Scalar integers (04 R90 to R94). -/

/-- The sum modulo 2^64. -/
theorem test_ADD_wraps : xd (.add 5 1 2) (withX taper0 0xFFFFFFFFFFFFFFFF 2 0) = 1 := by decide +kernel
/-- The difference modulo 2^64. -/
theorem test_SUB_borrows : xd (.sub 5 1 2) (withX taper0 1 2 0) = 0xFFFFFFFFFFFFFFFF := by decide +kernel
theorem test_AND : xd (.and 5 1 2) (withX taper0 0xFF00 0x0FF0 0) = 0x0F00 := by decide +kernel
theorem test_OR : xd (.or 5 1 2) (withX taper0 0xFF00 0x0FF0 0) = 0xFFF0 := by decide +kernel
theorem test_XOR : xd (.xor 5 1 2) (withX taper0 0xFF00 0x0FF0 0) = 0xF0F0 := by decide +kernel
/-- The low six bits of the amount. -/
theorem test_SLL_amount : xd (.sll 5 1 2) (withX taper0 1 65 0) = 2 := by decide +kernel
theorem test_SRL_zero_fill : xd (.srl 5 1 2) (withX taper0 0x8000000000000000 63 0) = 1 := by decide +kernel
theorem test_SRA_sign_fill : xd (.sra 5 1 2) (withX taper0 0x8000000000000000 63 0) = 0xFFFFFFFFFFFFFFFF := by decide +kernel
theorem test_SLT_signed : xd (.slt 5 1 2) (withX taper0 0xFFFFFFFFFFFFFFFF 0 0) = 1 := by decide +kernel
theorem test_SLTU_unsigned : xd (.sltu 5 1 2) (withX taper0 0xFFFFFFFFFFFFFFFF 0 0) = 0 := by decide +kernel
theorem test_MIN_signed : xd (.min 5 1 2) (withX taper0 0xFFFFFFFFFFFFFFFF 0 0) = 0xFFFFFFFFFFFFFFFF := by decide +kernel
theorem test_MAX_signed : xd (.max 5 1 2) (withX taper0 0xFFFFFFFFFFFFFFFF 0 0) = 0 := by decide +kernel
theorem test_MINU_unsigned : xd (.minu 5 1 2) (withX taper0 0xFFFFFFFFFFFFFFFF 0 0) = 0 := by decide +kernel
theorem test_MAXU_unsigned : xd (.maxu 5 1 2) (withX taper0 0xFFFFFFFFFFFFFFFF 0 0) = 0xFFFFFFFFFFFFFFFF := by decide +kernel
/-- (-1) times 3. -/
theorem test_MUL_low : xd (.mul 5 1 2) (withX taper0 0xFFFFFFFFFFFFFFFF 3 0) = 0xFFFFFFFFFFFFFFFD := by decide +kernel
/-- (-1) times 1 is -1: its upper half is all ones. -/
theorem test_MULH_signed : xd (.mulh 5 1 2) (withX taper0 0xFFFFFFFFFFFFFFFF 1 0) = 0xFFFFFFFFFFFFFFFF := by decide +kernel
/-- (2^64 - 1) squared is 2^128 - 2^65 + 1. -/
theorem test_MULHU_unsigned : xd (.mulhu 5 1 2) (withX taper0 0xFFFFFFFFFFFFFFFF 0xFFFFFFFFFFFFFFFF 0) = 0xFFFFFFFFFFFFFFFE := by decide +kernel
/-- -7 by 2 is -3. -/
theorem test_DIV_truncates : xd (.div 5 1 2) (withX taper0 0xFFFFFFFFFFFFFFF9 2 0) = 0xFFFFFFFFFFFFFFFD := by decide +kernel
/-- The least number by -1 saturates (04 R91). -/
theorem test_DIV_overflow : xd (.div 5 1 2) (withX taper0 0x8000000000000000 0xFFFFFFFFFFFFFFFF 0) = 0x7FFFFFFFFFFFFFFF := by decide +kernel
/-- All ones. -/
theorem test_DIVU_by_zero : xd (.divu 5 1 2) (withX taper0 7 0 0) = 0xFFFFFFFFFFFFFFFF := by decide +kernel
/-- -7 by 2 leaves -1. -/
theorem test_REM_sign : xd (.rem 5 1 2) (withX taper0 0xFFFFFFFFFFFFFFF9 2 0) = 0xFFFFFFFFFFFFFFFF := by decide +kernel
/-- The dividend. -/
theorem test_REMU_by_zero : xd (.remu 5 1 2) (withX taper0 7 0 0) = 7 := by decide +kernel
theorem test_CLZ_zero : xd (.clz 5 1) (withX taper0 0 0 0) = 64 := by decide +kernel
theorem test_CTZ : xd (.ctz 5 1) (withX taper0 0x10 0 0) = 4 := by decide +kernel
theorem test_CPOP : xd (.cpop 5 1) (withX taper0 0xFFFFFFFFFFFFFFFF 0 0) = 64 := by decide +kernel
/-- 32 g + h = 40. -/
theorem test_SLLI_40 : xd (.slli 5 1 8 1) (withX taper0 1 0 0) = 0x10000000000 := by decide +kernel
theorem test_SRLI_33 : xd (.srli 5 1 1 1) (withX taper0 0x200000000 0 0) = 1 := by decide +kernel
theorem test_SRAI_63 : xd (.srai 5 1 31 1) (withX taper0 0x8000000000000000 0 0) = 0xFFFFFFFFFFFFFFFF := by decide +kernel
/-- The immediate is sign-extended. -/
theorem test_ADDI_sign : xd (.addi 5 1 0xFFFF) (withX taper0 0 0 0) = 0xFFFFFFFFFFFFFFFF := by decide +kernel
/-- The immediate is zero-extended. -/
theorem test_ANDI_zero : xd (.andi 5 1 0xFFFF) (withX taper0 0xFFFFFFFFFFFFFFFF 0 0) = 0xFFFF := by decide +kernel
theorem test_ORI_zero : xd (.ori 5 1 0x8000) (withX taper0 0 0 0) = 0x8000 := by decide +kernel
theorem test_XORI_zero : xd (.xori 5 1 0xFFFF) (withX taper0 0xFFFFFFFFFFFFFFFF 0 0) = 0xFFFFFFFFFFFF0000 := by decide +kernel
theorem test_SLTI_sign : xd (.slti 5 1 0xFFFF) (withX taper0 0xFFFFFFFFFFFFFFFE 0 0) = 1 := by decide +kernel
/-- The immediate is sign-extended, and compared as unsigned. -/
theorem test_SLTIU_sign : xd (.sltiu 5 1 0xFFFF) (withX taper0 5 0 0) = 1 := by decide +kernel
/-- LUI x5, 0x1_2345. -/
theorem test_LUI : xd (.lui 5 0x12345) (withX taper0 0 0 0) = 0x123450000 := by decide +kernel
theorem test_LUI_negative : xd (.lui 5 0x1FFFFF) (withX taper0 0 0 0) = 0xFFFFFFFFFFFF0000 := by decide +kernel
/-- At 0x10000. -/
theorem test_AUIPC : xd (.auipc 5 1) (withX taper0 0 0 0) = 0x20000 := by decide +kernel
/-- Forty bytes back from 0x10000. -/
theorem test_JAL_back : next? (exec (.jal 1 0x1FFFF6) (withX taper0 0 0 0)) (fun t => t.pcOf t.cur == 0xFFD8) = true := by decide +kernel
/-- The register plus the immediate. -/
theorem test_JALR : next? (exec (.jalr 1 1 4) (withX taper0 0x20000 0 0)) (fun t => t.pcOf t.cur == 0x20004) = true := by decide +kernel
/-- The link is the next word, even into the base register. -/
theorem test_JALR_link : xd' 1 (.jalr 1 1 4) (withX taper0 0x20000 0 0) = 0x10004 := by decide +kernel
/-- One word back. -/
theorem test_BEQ_taken : next? (exec (.beq 1 2 0xFFFF) (withX taper0 3 3 0)) (fun t => t.pcOf t.cur == 0xFFFC) = true := by decide +kernel
theorem test_BEQ_not : next? (exec (.beq 1 2 0xFFFF) (withX taper0 3 4 0)) (fun t => t.pcOf t.cur == 0x10004) = true := by decide +kernel
theorem test_BNE_taken : next? (exec (.bne 1 2 4) (withX taper0 3 4 0)) (fun t => t.pcOf t.cur == 0x10010) = true := by decide +kernel
theorem test_BLT_signed :
    next? (exec (.blt 1 2 4) (withX taper0 0xFFFFFFFFFFFFFFFF 0 0)) (fun t => t.pcOf t.cur == 0x10010) = true := by decide +kernel
theorem test_BGE_equal : next? (exec (.bge 1 2 4) (withX taper0 5 5 0)) (fun t => t.pcOf t.cur == 0x10010) = true := by decide +kernel
theorem test_BLTU_not :
    next? (exec (.bltu 1 2 4) (withX taper0 0xFFFFFFFFFFFFFFFF 0 0)) (fun t => t.pcOf t.cur == 0x10004) = true := by decide +kernel
theorem test_BGEU_taken :
    next? (exec (.bgeu 1 2 4) (withX taper0 0xFFFFFFFFFFFFFFFF 0 0)) (fun t => t.pcOf t.cur == 0x10010) = true := by decide +kernel
/-! Scalar memory (04 R97 to R102, 08 R206). The bytes 0x80, 0xFF, 0x7F, 0x01 lie at 0x20000. -/

theorem test_LB_sign : xd (.lb 5 1 0) (withX bytesAt 0x20000 5 0) = 0xFFFFFFFFFFFFFF80 := by decide +kernel
theorem test_LBU_zero : xd (.lbu 5 1 0) (withX bytesAt 0x20000 5 0) = 0x80 := by decide +kernel
theorem test_LH_sign : xd (.lh 5 1 0) (withX bytesAt 0x20000 5 0) = 0xFFFFFFFFFFFFFF80 := by decide +kernel
theorem test_LHU_zero : xd (.lhu 5 1 0) (withX bytesAt 0x20000 5 0) = 0xFF80 := by decide +kernel
theorem test_LW : xd (.lw 5 1 0) (withX bytesAt 0x20000 5 0) = 0x017FFF80 := by decide +kernel
theorem test_LWU_offset : xd (.lwu 5 1 0) (withX bytesAt 0x20000 5 0) = 0x017FFF80 := by decide +kernel
theorem test_LD : xd (.ld 5 1 0) (withX bytesAt 0x20000 5 0) = 0x017FFF80 := by decide +kernel
/-- The trap saves cause 3 and the address (08 R195). -/
theorem test_LW_misaligned :
    next? (exec (.lw 5 1 1) (handled (withX bytesAt 0x20000 0 0))) (fun t => t.curCore.taper.code == 3 && t.curCore.taper.tval == 0x20001) = true := by decide +kernel
theorem test_SB :
    next? (exec (.sb 2 1 0) (withX bytesAt 0x20000 0x1122334455667788 0)) (fun t => memRead (flushStores t t.cur).mem 0x20000 8 == 0x017FFF88) = true := by decide +kernel
theorem test_SH :
    next? (exec (.sh 2 1 2) (withX bytesAt 0x20000 0x1122334455667788 0)) (fun t => memRead (flushStores t t.cur).mem 0x20000 8 == 0x7788FF80) = true := by decide +kernel
theorem test_SW :
    next? (exec (.sw 2 1 4) (withX bytesAt 0x20000 0x1122334455667788 0)) (fun t => memRead (flushStores t t.cur).mem 0x20000 8 == 0x55667788017FFF80) = true := by decide +kernel
theorem test_SD :
    next? (exec (.sd 2 1 0) (withX bytesAt 0x20000 0x1122334455667788 0)) (fun t => memRead (flushStores t t.cur).mem 0x20000 8 == 0x1122334455667788) = true := by decide +kernel
theorem test_AMOADD :
    next? (exec (.amoadd 5 1 2 0 0 0 0) (withX bytesAt 0x20000 0x80 0)) (fun t => t.getX t.cur 5 == 0x017FFF80 && memRead t.mem 0x20000 4 == 0x01800000) = true := by decide +kernel
theorem test_AMOSWAP :
    next? (exec (.amoswap 5 1 2 0 0 0 0) (withX bytesAt 0x20000 7 0)) (fun t => t.getX t.cur 5 == 0x017FFF80 && memRead t.mem 0x20000 4 == 7) = true := by decide +kernel
theorem test_AMOAND :
    next? (exec (.amoand 5 1 2 0 0 0 0) (withX bytesAt 0x20000 0xFF 0)) (fun t => t.getX t.cur 5 == 0x017FFF80 && memRead t.mem 0x20000 4 == 0x80) = true := by decide +kernel
theorem test_AMOOR :
    next? (exec (.amoor 5 1 2 0 0 0 0) (withX bytesAt 0x20000 1 0)) (fun t => t.getX t.cur 5 == 0x017FFF80 && memRead t.mem 0x20000 4 == 0x017FFF81) = true := by decide +kernel
theorem test_AMOXOR :
    next? (exec (.amoxor 5 1 2 0 0 0 0) (withX bytesAt 0x20000 0xFF 0)) (fun t => t.getX t.cur 5 == 0x017FFF80 && memRead t.mem 0x20000 4 == 0x017FFF7F) = true := by decide +kernel
/-- -1 is the less. -/
theorem test_AMOMIN :
    next? (exec (.amomin 5 1 2 0 0 0 0) (withX bytesAt 0x20000 0xFFFFFFFF 0)) (fun t => t.getX t.cur 5 == 0x017FFF80 && memRead t.mem 0x20000 4 == 0xFFFFFFFF) = true := by decide +kernel
theorem test_AMOMAX :
    next? (exec (.amomax 5 1 2 0 0 0 0) (withX bytesAt 0x20000 0xFFFFFFFF 0)) (fun t => t.getX t.cur 5 == 0x017FFF80 && memRead t.mem 0x20000 4 == 0x017FFF80) = true := by decide +kernel
theorem test_AMOMINU :
    next? (exec (.amominu 5 1 2 0 0 0 0) (withX bytesAt 0x20000 0xFFFFFFFF 0)) (fun t => t.getX t.cur 5 == 0x017FFF80 && memRead t.mem 0x20000 4 == 0x017FFF80) = true := by decide +kernel
theorem test_AMOMAXU :
    next? (exec (.amomaxu 5 1 2 0 0 0 0) (withX bytesAt 0x20000 0xFFFFFFFF 0)) (fun t => t.getX t.cur 5 == 0x017FFF80 && memRead t.mem 0x20000 4 == 0xFFFFFFFF) = true := by decide +kernel
/-- rd holds the comparand. -/
theorem test_AMOCAS_match :
    next? (exec (.amocas 5 1 2 0 0 0 0) ((withX bytesAt 0x20000 9 0).setX taper0.cur 5 0x017FFF80)) (fun t => t.getX t.cur 5 == 0x017FFF80 && memRead t.mem 0x20000 4 == 9) = true := by decide +kernel
theorem test_AMOCAS_differs :
    next? (exec (.amocas 5 1 2 0 0 0 0) (withX bytesAt 0x20000 9 0)) (fun t => t.getX t.cur 5 == 0x017FFF80 && memRead t.mem 0x20000 4 == 0x017FFF80) = true := by decide +kernel
/-- 1.0 + 1.0 = 2.0 in F32. -/
theorem test_AMOFADD :
    next? (exec (.amofadd 5 1 2 0 0 0) (withX { taper0 with mem := memWrite taper0.mem 0x20000 4 0x3F800000 } 0x20000 0x3F800000 0)) (fun t => memRead t.mem 0x20000 4 == 0x40000000) = true := by decide +kernel
theorem test_LDA : xd (.lda 5 1 0 0) (withX bytesAt 0x20000 5 0) = 0x017FFF80 := by decide +kernel
/-- Performed at once. -/
theorem test_STL : next? (exec (.stl 1 2 0 0) (withX bytesAt 0x20000 7 0)) (fun t => memRead t.mem 0x20000 4 == 7) = true := by decide +kernel
/-! Scalar floating point (04 R102 to R105): F32 bits in the low half. -/

/-- 1 + 2 = 3. -/
theorem test_FADD_exact :
    next? (exec (.fadd 5 1 2 0) (withX taper0 0x3F800000 0x40000000 0)) (fun t => (t.getX t.cur 5).setWidth 32 == (0x40400000 : BitVec 32) && (t.thread t.cur).fflags == 0) = true := by decide +kernel
/-- 2 - 2 = +0 under RNE. -/
theorem test_FSUB_cancels :
    next? (exec (.fsub 5 1 2 0) (withX taper0 0x40000000 0x40000000 0)) (fun t => (t.getX t.cur 5).setWidth 32 == (0x00000000 : BitVec 32) && (t.thread t.cur).fflags == 0) = true := by decide +kernel
theorem test_FMUL :
    next? (exec (.fmul 5 1 2 0) (withX taper0 0x40400000 0x40000000 0)) (fun t => (t.getX t.cur 5).setWidth 32 == (0x40C00000 : BitVec 32) && (t.thread t.cur).fflags == 0) = true := by decide +kernel
/-- 1/3 rounds to 0x3EAAAAAB, NX. -/
theorem test_FDIV_inexact :
    next? (exec (.fdiv 5 1 2 0) (withX taper0 0x3F800000 0x40400000 0)) (fun t => (t.getX t.cur 5).setWidth 32 == (0x3EAAAAAB : BitVec 32) && (t.thread t.cur).fflags == 1) = true := by decide +kernel
/-- 1/0 is an infinity, DZ. -/
theorem test_FDIV_by_zero :
    next? (exec (.fdiv 5 1 2 0) (withX taper0 0x3F800000 0 0)) (fun t => (t.getX t.cur 5).setWidth 32 == (0x7F800000 : BitVec 32) && (t.thread t.cur).fflags == 8) = true := by decide +kernel
/-- 2 times 3 plus 1 is 7. -/
theorem test_FMA :
    next? (exec (.fma 5 1 2 0) ((withX taper0 0x40000000 0x40400000 0).setX taper0.cur 5 0x3F800000)) (fun t => t.getX t.cur 5 == 0x40E00000) = true := by decide +kernel
theorem test_FMIN :
    next? (exec (.fmin 5 1 2) (withX taper0 0x3F800000 0x40000000 0)) (fun t => (t.getX t.cur 5).setWidth 32 == (0x3F800000 : BitVec 32) && (t.thread t.cur).fflags == 0) = true := by decide +kernel
theorem test_FMAX :
    next? (exec (.fmax 5 1 2) (withX taper0 0x3F800000 0x40000000 0)) (fun t => (t.getX t.cur 5).setWidth 32 == (0x40000000 : BitVec 32) && (t.thread t.cur).fflags == 0) = true := by decide +kernel
/-- Condition 1 of R105: 1 < 2. -/
theorem test_FCMP_less : xd (.fcmp 5 1 2 1) (withX taper0 0x3F800000 0x40000000 0) = 1 := by decide +kernel
theorem test_FCVT_F :
    next? (exec (.fcvtF 5 1 0) (withX taper0 3 0 0)) (fun t => (t.getX t.cur 5).setWidth 32 == (0x40400000 : BitVec 32) && (t.thread t.cur).fflags == 0) = true := by decide +kernel
/-! Control and status registers, threads, traps (04 R88, 05, 18). -/

/-- The old value is returned, the new one written. -/
theorem test_CSRW_fflags :
    next? (exec (.csrw 5 1 1) (withX taper0 0x15 0 0)) (fun t => t.getX t.cur 5 == 0 && (t.thread t.cur).fflags == 0x15) = true := by decide +kernel
theorem test_CSRS_fflags :
    next? (exec (.csrs 5 1 1) (withX (taper0.modThread taper0.cur fun th => { th with fflags := 1 }) 0x10 0 0)) (fun t => t.getX t.cur 5 == 1 && (t.thread t.cur).fflags == 0x11) = true := by decide +kernel
theorem test_CSRC_fflags :
    next? (exec (.csrc 5 1 1) (withX (taper0.modThread taper0.cur fun th => { th with fflags := 0x11 }) 0x10 0 0)) (fun t => t.getX t.cur 5 == 0x11 && (t.thread t.cur).fflags == 1) = true := by decide +kernel
theorem test_CSRR_fflags : xd (.csrr 5 1) (taper0.modThread taper0.cur fun th => { th with fflags := 0x11 }) = 0x11 := by decide +kernel
theorem test_CSRW_imm : next? (exec (.csrwImm 5 7 1) taper0) (fun t => (t.thread t.cur).fflags == 7) = true := by decide +kernel
theorem test_CSRS_imm :
    next? (exec (.csrsImm 5 7 1) (taper0.modThread taper0.cur fun th => { th with fflags := 8 })) (fun t => (t.thread t.cur).fflags == 15) = true := by decide +kernel
theorem test_CSRC_imm :
    next? (exec (.csrcImm 5 7 1) (taper0.modThread taper0.cur fun th => { th with fflags := 15 })) (fun t => (t.thread t.cur).fflags == 8) = true := by decide +kernel
/-- Cause 16, to the handler. -/
theorem test_ECALL :
    next? (exec .ecall (taperWith fun T => { T with tvec := 0x1000 })) (fun t => t.curCore.taper.code == 16 && t.pcOf t.cur == 0x4000 && t.curCore.taper.tepc == 0x10000 && t.curCore.taper.act) = true := by decide +kernel
/-- Back to the saved address, by its tepc. -/
theorem test_TRAPRET :
    next? (exec .trapret (taperWith fun T => { T with act := true, disp := 0, tepc := 0x20000 })) (fun t => t.pcOf t.cur == 0x20000 && !t.curCore.taper.act) = true := by decide +kernel
theorem test_HALT : next? (exec .halt taper0) (fun t => t.curCore.taper.run == .halted) = true := by decide +kernel
/-- The wick stops with its code. -/
theorem test_STOP :
    next? (exec (.stop 7) wick0) (fun t => (t.wick 0 0 0).state == .stopped && (t.wick 0 0 0).stopcode == 7) = true := by decide +kernel
theorem test_WSTAT : next? (exec (.wstat 5 0 0) taper0) (fun t => !(t.thread t.cur).wait.isSome) = true := by decide +kernel
theorem test_YIELD : next? (exec .yield wick0) (fun t => t.pcOf t.cur == 0x10004) = true := by decide +kernel
/-- A word without an encoding: cause 1, the word in tval. -/
theorem test_ILLEGAL :
    next? (exec (.illegalEncoding 0xFFFFFFFF) (handled taper0)) (fun t => t.curCore.taper.code == 1 && t.curCore.taper.tval == 0xFFFFFFFF) = true := by decide +kernel
/-! Vector configuration (06). -/

/-- vl is the lesser of the request and the elements of a row: 64 of F32 at 4,096 bits (chapter 10). -/
theorem test_VSETT :
    next? (exec (.vsett 5 1 1 1 0 5) (withX (wickWith fun W => { W with vlcapLg := 6 }) 64 0 0)) (fun t => (t.wick 0 0 0).vl == 64 && t.getX t.cur 5 == 64) = true := by decide +kernel
/-- Split mode is toggled. -/
theorem test_VMODE : next? (exec (.vmode 5) wick0) (fun t => (t.wick 0 0 0).split) = true := by decide +kernel
/-! Vector lanes (07): rows of 32-bit elements but where said; v1 and v2 the operands, v3 the result. -/

theorem test_VADD :
    next? (exec (.vadd 3 1 2 0 0) (rowsWick 0 2 32 [1, 4294967295] [2, 1])) (fun t => elems t 3 32 2 == [3, 0]) = true := by decide +kernel
theorem test_VSUB :
    next? (exec (.vsub 3 1 2 0 0) (rowsWick 0 2 32 [1, 0] [2, 1])) (fun t => elems t 3 32 2 == [4294967295, 4294967295]) = true := by decide +kernel
/-- b - a. -/
theorem test_VRSUB :
    next? (exec (.vrsub 3 1 2 0 0) (rowsWick 0 2 32 [1, 5] [2, 1])) (fun t => elems t 3 32 2 == [1, 4294967292]) = true := by decide +kernel
theorem test_VMUL :
    next? (exec (.vmul 3 1 2 0 0) (rowsWick 0 2 32 [3, 4294967295] [5, 2])) (fun t => elems t 3 32 2 == [15, 4294967294]) = true := by decide +kernel
theorem test_VMULH :
    next? (exec (.vmulh 3 1 2 0 0) (rowsWick 0 1 32 [4294967295] [2])) (fun t => elems t 3 32 1 == [4294967295]) = true := by decide +kernel
theorem test_VMULHU :
    next? (exec (.vmulhu 3 1 2 0 0) (rowsWick 0 1 32 [4294967295] [2])) (fun t => elems t 3 32 1 == [1]) = true := by decide +kernel
/-- 2^31 - 1 for a >= 0 and -2^31 below (07 R161). -/
theorem test_VDIV_by_zero :
    next? (exec (.vdiv 3 1 2 0 0) (rowsWick 0 2 32 [5, 4294967291] [0, 0])) (fun t => elems t 3 32 2 == [2147483647, 2147483648]) = true := by decide +kernel
theorem test_VREM_by_zero :
    next? (exec (.vrem 3 1 2 0 0) (rowsWick 0 2 32 [5, 2147483648] [0, 4294967295])) (fun t => elems t 3 32 2 == [5, 0]) = true := by decide +kernel
theorem test_VMIN :
    next? (exec (.vmin 3 1 2 0 0) (rowsWick 0 1 32 [4294967295] [0])) (fun t => elems t 3 32 1 == [4294967295]) = true := by decide +kernel
theorem test_VMAX : next? (exec (.vmax 3 1 2 0 0) (rowsWick 0 1 32 [4294967295] [0])) (fun t => elems t 3 32 1 == [0]) = true := by decide +kernel
theorem test_VMINU : next? (exec (.vminu 3 1 2 0 0) (rowsWick 0 1 32 [4294967295] [0])) (fun t => elems t 3 32 1 == [0]) = true := by decide +kernel
theorem test_VMAXU :
    next? (exec (.vmaxu 3 1 2 0 0) (rowsWick 0 1 32 [4294967295] [0])) (fun t => elems t 3 32 1 == [4294967295]) = true := by decide +kernel
theorem test_VAND : next? (exec (.vand 3 1 2 0 0) (rowsWick 0 1 32 [65280] [4080])) (fun t => elems t 3 32 1 == [3840]) = true := by decide +kernel
theorem test_VOR : next? (exec (.vor 3 1 2 0 0) (rowsWick 0 1 32 [65280] [4080])) (fun t => elems t 3 32 1 == [65520]) = true := by decide +kernel
theorem test_VXOR : next? (exec (.vxor 3 1 2 0 0) (rowsWick 0 1 32 [65280] [4080])) (fun t => elems t 3 32 1 == [61680]) = true := by decide +kernel
theorem test_VSLL : next? (exec (.vsll 3 1 2 0 0) (rowsWick 0 1 32 [1] [33])) (fun t => elems t 3 32 1 == [2]) = true := by decide +kernel
theorem test_VSRL : next? (exec (.vsrl 3 1 2 0 0) (rowsWick 0 1 32 [2147483648] [31])) (fun t => elems t 3 32 1 == [1]) = true := by decide +kernel
theorem test_VSRA :
    next? (exec (.vsra 3 1 2 0 0) (rowsWick 0 1 32 [2147483648] [31])) (fun t => elems t 3 32 1 == [4294967295]) = true := by decide +kernel
/-- At I2 1 + 1 saturates to 1, SAT. -/
theorem test_VSADD_I2 :
    next? (exec (.vsadd 3 1 2 0 0) (rowsWick 4 1 2 [1] [1])) (fun t => elems t 3 2 1 == [1] && (t.wick 0 0 0).th.fflags == 32) = true := by decide +kernel
/-- At I2 1 + 1 is -2. -/
theorem test_VADD_I2 :
    next? (exec (.vadd 3 1 2 0 0) (rowsWick 4 1 2 [1] [1])) (fun t => elems t 3 2 1 == [2] && (t.wick 0 0 0).th.fflags == 0) = true := by decide +kernel
theorem test_VSSUB :
    next? (exec (.vssub 3 1 2 0 0) (rowsWick 0 1 32 [2147483648] [1])) (fun t => elems t 3 32 1 == [2147483648] && (t.wick 0 0 0).th.fflags == 32) = true := by decide +kernel
theorem test_VSADDU :
    next? (exec (.vsaddu 3 1 2 0 0) (rowsWick 0 1 32 [4294967295] [1])) (fun t => elems t 3 32 1 == [4294967295] && (t.wick 0 0 0).th.fflags == 32) = true := by decide +kernel
theorem test_VSSUBU :
    next? (exec (.vssubu 3 1 2 0 0) (rowsWick 0 1 32 [1] [2])) (fun t => elems t 3 32 1 == [0] && (t.wick 0 0 0).th.fflags == 32) = true := by decide +kernel
/-- The destination is added to: v1 itself. -/
theorem test_VMACC : next? (exec (.vmacc 1 1 2 0 0) (rowsWick 0 1 32 [3] [5])) (fun t => elems t 1 32 1 == [18]) = true := by decide +kernel
theorem test_VNMSAC :
    next? (exec (.vnmsac 1 1 2 0 0) (rowsWick 0 1 32 [3] [5])) (fun t => elems t 1 32 1 == [4294967284]) = true := by decide +kernel
/-- b where the mask bit is 1, a elsewhere (07 R163). -/
theorem test_VMERGE :
    next? (exec (.vmerge 3 1 2 1 0) ((rowsWick 0 2 32 [3, 4] [5, 6]).modWick 0 0 0 fun W => { W with masks := [(1, 1)] })) (fun t => elems t 3 32 2 == [5, 4]) = true := by decide +kernel
theorem test_VMV : next? (exec (.vmv 3 2 0 0) (rowsWick 0 1 32 [3] [5])) (fun t => elems t 3 32 1 == [5]) = true := by decide +kernel
/-- m1 gets the bits of the equal elements. -/
theorem test_VCMP_equal :
    next? (exec (.vcmp 1 1 2 0 0 0) (rowsWick 0 3 32 [1, 2, 3] [1, 5, 3])) (fun t => ((t.wick 0 0 0).mask 1).toNat % 8 == 5) = true := by decide +kernel
/-- The example of 07 R169 at I4: quotients by 4 of 37, -37, 100, -6 are 7, -8, 7, -2, SAT. -/
theorem test_VNCLIP :
    next? (exec (.vnclip 1 2 5 0 1) (((wickWith fun W => { W with vlcapLg := 6, vl := 4, rows := [(2, BitVec.ofNat 65536 0xFA64DB25)], th := { W.th with vtype := 3 } }).setX wick0.cur 5 2))) (fun t => ((t.wick 0 0 0).reg 1).toNat % 65536 == 0xE787 && (t.wick 0 0 0).th.fflags == 32) = true := by decide +kernel
/-- 16-bit elements, the sums 32-bit in v4. -/
theorem test_VWADD : next? (exec (.vwadd 4 1 2 0 0) (rowsWick 1 1 16 [32767] [1])) (fun t => elems t 4 16 1 == [32768]) = true := by decide +kernel
/-- -1 by -1 is 1, in v4. -/
theorem test_VWMUL : next? (exec (.vwmul 4 1 2 0 0) (rowsWick 1 1 16 [65535] [65535])) (fun t => elems t 4 16 1 == [1]) = true := by decide +kernel
/-! Vector floating point (07 R165 to R178). -/

theorem test_VFADD :
    next? (exec (.vfadd 3 1 2 0 0) (rowsWick 5 1 32 [1065353216] [1073741824])) (fun t => elems t 3 32 1 == [1077936128] && (t.wick 0 0 0).th.fflags == 0) = true := by decide +kernel
theorem test_VFSUB :
    next? (exec (.vfsub 3 1 2 0 0) (rowsWick 5 1 32 [1077936128] [1073741824])) (fun t => elems t 3 32 1 == [1065353216] && (t.wick 0 0 0).th.fflags == 0) = true := by decide +kernel
theorem test_VFMUL :
    next? (exec (.vfmul 3 1 2 0 0) (rowsWick 5 1 32 [1077936128] [1073741824])) (fun t => elems t 3 32 1 == [1086324736] && (t.wick 0 0 0).th.fflags == 0) = true := by decide +kernel
theorem test_VFDIV :
    next? (exec (.vfdiv 3 1 2 0 0) (rowsWick 5 1 32 [1065353216] [1077936128])) (fun t => elems t 3 32 1 == [1051372203] && (t.wick 0 0 0).th.fflags == 1) = true := by decide +kernel
theorem test_VFSQRT :
    next? (exec (.vfsqrt 3 1 0) (rowsWick 5 1 32 [1082130432] [0])) (fun t => elems t 3 32 1 == [1073741824] && (t.wick 0 0 0).th.fflags == 0) = true := by decide +kernel
/-- a b + d into v1. -/
theorem test_VFMA :
    next? (exec (.vfma 1 1 2 0 0) (rowsWick 5 1 32 [1073741824] [1077936128])) (fun t => elems t 1 32 1 == [1090519040]) = true := by decide +kernel
theorem test_VFMIN :
    next? (exec (.vfmin 3 1 2 0 0) (rowsWick 5 1 32 [1065353216] [3212836864])) (fun t => elems t 3 32 1 == [3212836864]) = true := by decide +kernel
theorem test_VFMAX :
    next? (exec (.vfmax 3 1 2 0 0) (rowsWick 5 1 32 [1065353216] [3212836864])) (fun t => elems t 3 32 1 == [1065353216]) = true := by decide +kernel
theorem test_VFCVT_FX :
    next? (exec (.vfcvtFx 3 1 0) (rowsWick 5 1 32 [4294967295] [0])) (fun t => elems t 3 32 1 == [3212836864]) = true := by decide +kernel
/-- 2.5 rounds to 2, NX. -/
theorem test_VFCVT_XF :
    next? (exec (.vfcvtXf 3 1 0) (rowsWick 5 1 32 [1075838976] [0])) (fun t => elems t 3 32 1 == [2] && (t.wick 0 0 0).th.fflags == 1) = true := by decide +kernel
/-- The negated sign of b. -/
theorem test_VFSGNJ_N :
    next? (exec (.vfsgnjN 3 1 2 0 0) (rowsWick 5 1 32 [1065353216] [1065353216])) (fun t => elems t 3 32 1 == [3212836864]) = true := by decide +kernel
/-- 1/2 is exact in BF16, widened. -/
theorem test_VFRCP_two :
    next? (exec (.vfrcp 3 1 0) (rowsWick 5 1 32 [1073741824] [0])) (fun t => elems t 3 32 1 == [1056964608] && (t.wick 0 0 0).th.fflags == 0) = true := by decide +kernel
/-- 2^3 = 8. -/
theorem test_VFEXP2_three :
    next? (exec (.vfexp2 3 1 0) (rowsWick 5 1 32 [1077936128] [0])) (fun t => elems t 3 32 1 == [1090519040] && (t.wick 0 0 0).th.fflags == 0) = true := by decide +kernel
/-- The example of 03 R76: BF16 256, 1, 1, -256 by the tree give 1. -/
theorem test_VFREDSUM_tree :
    next? (exec (.vfredsum 3 1 2 0) (rowsWick 6 4 16 [0x4380, 0x3F80, 0x3F80, 0xC380] [0])) (fun t => elems t 3 16 1 == [0x3F80]) = true := by decide +kernel
/-- The start value is added. -/
theorem test_VREDSUM : next? (exec (.vredsum 3 1 2 0) (rowsWick 0 3 32 [1, 2, 3] [10])) (fun t => elems t 3 32 1 == [16]) = true := by decide +kernel
theorem test_VREDMAX :
    next? (exec (.vredmax 3 1 2 0) (rowsWick 0 3 32 [1, 9, 0xFFFFFFFF] [4])) (fun t => elems t 3 32 1 == [9]) = true := by decide +kernel
theorem test_VREDMIN :
    next? (exec (.vredmin 3 1 2 0) (rowsWick 0 3 32 [1, 9, 0xFFFFFFFF] [4])) (fun t => elems t 3 32 1 == [0xFFFFFFFF]) = true := by decide +kernel
/-! Permutations and masks (07 R179 to R190). -/

/-- By one from x5: element 0 stays. -/
theorem test_VSLIDEUP :
    next? (exec (.vslideup 3 1 5 0 1) ((rowsWick 0 3 32 [7, 8, 9] [0]).setX wick0.cur 5 1)) (fun t => elems t 3 32 3 == [0, 7, 8]) = true := by decide +kernel
/-- By one: the last element of the row repeats (07 R177). -/
theorem test_VSLIDEDN :
    next? (exec (.vslidedn 3 1 5 0 1) ((rowsWick 0 3 32 [7, 8, 9] [0]).setX wick0.cur 5 1)) (fun t => elems t 3 32 3 == [8, 9, 9]) = true := by decide +kernel
/-- Positions. -/
theorem test_VID : next? (exec (.vid 3 31 0 1) (rowsWick 0 3 32 [0] [0])) (fun t => elems t 3 32 3 == [0, 1, 2]) = true := by decide +kernel
/-- Indices in v2; one past the end reads zero. -/
theorem test_VPERM :
    next? (exec (.vperm 3 1 2 0 0) (rowsWick 0 3 32 [7, 8, 9] [2, 0, 5])) (fun t => elems t 3 32 3 == [9, 7, 0]) = true := by decide +kernel
/-- Under m1 = 0b101. -/
theorem test_VCOMPRESS :
    next? (exec (.vcompress 3 1 1) ((rowsWick 0 3 32 [7, 8, 9] [0]).modWick 0 0 0 fun W => { W with masks := [(1, 5)] })) (fun t => elems t 3 32 2 == [7, 9]) = true := by decide +kernel
/-- Element 0 of v3. -/
theorem test_VMVSX :
    next? (exec (.vmvsx 3 1) ((rowsWick 0 3 32 [0] [0]).setX wick0.cur 1 42)) (fun t => elems t 3 32 1 == [42]) = true := by decide +kernel
/-- Element x5 of v1, sign-extended. -/
theorem test_VMVXS : xd (.vmvxs 5 1 2 1) (((rowsWick 0 3 32 [0, 0xFFFFFFFF] [0]).setX wick0.cur 2 1)) = 0xFFFFFFFFFFFFFFFF := by decide +kernel
theorem test_MAND :
    next? (exec (.mand 3 1 2) ((rowsWick 0 4 32 [0] [0]).modWick 0 0 0 fun W => ({ W with masks := [(1, 5), (2, 3)] }))) (fun t => ((t.wick 0 0 0).mask 3).toNat % 16 == 1) = true := by decide +kernel
theorem test_MOR :
    next? (exec (.mor 3 1 2) ((rowsWick 0 4 32 [0] [0]).modWick 0 0 0 fun W => ({ W with masks := [(1, 5), (2, 3)] }))) (fun t => ((t.wick 0 0 0).mask 3).toNat % 16 == 7) = true := by decide +kernel
theorem test_MXOR :
    next? (exec (.mxor 3 1 2) ((rowsWick 0 4 32 [0] [0]).modWick 0 0 0 fun W => ({ W with masks := [(1, 5), (2, 3)] }))) (fun t => ((t.wick 0 0 0).mask 3).toNat % 16 == 6) = true := by decide +kernel
theorem test_MANDN :
    next? (exec (.mandn 3 1 2) ((rowsWick 0 4 32 [0] [0]).modWick 0 0 0 fun W => ({ W with masks := [(1, 5), (2, 3)] }))) (fun t => ((t.wick 0 0 0).mask 3).toNat % 16 == 4) = true := by decide +kernel
theorem test_MPOP : xd (.mpop 5 1) ((rowsWick 0 4 32 [0] [0]).modWick 0 0 0 fun W => { W with masks := [(1, 5)] }) = 2 := by decide +kernel
theorem test_MFIRST : xd (.mfirst 5 1) ((rowsWick 0 4 32 [0] [0]).modWick 0 0 0 fun W => { W with masks := [(1, 4)] }) = 2 := by decide +kernel
/-! The matrix array and vigil tiles: the examples of chapters 10 and 11. -/

/-- Ownership is taken. -/
theorem test_MZERO : next? (exec (.mzero 1) arrayWick) (fun t => (curEntry t 1).owner == some 0) = true := by decide +kernel
/-- Two k-steps, 1 by 1 and 2^-8 by 2^-16, one cell enabled: 1.0 there, +0 beside it (10 R235). -/
theorem test_MXP :
    next? (exec (.mxp 0 0 4 1) productWick) (fun t => curCell t 0 0 0 == 0x3F800000 && curCell t 0 0 1 == 0 && curCell t 0 1 0 == 0) = true := by decide +kernel
/-- Three gated tokens. -/
theorem test_MDELTA_Q :
    next? (exec (.mdeltaQ 2 4 8 10 6) deltaWick) (fun t => curCell t 2 0 0 == 0x40A00000 && curCell t 2 1 0 == 0xBF800000 && curCell t 2 0 1 == 0x3F800000 && elems t 8 32 2 == [0x40400000, 0x3F800000] && (curEntry t 2).tokens == 3 && (curEntry t 2).hidx == 1) = true := by decide +kernel
/-- dk 4 and dv 2 from 0x0103. -/
theorem test_MPIN :
    next? (exec (.mpin 2 12) (arrayWick.setX arrayWick.cur 12 0x0103)) (fun t => (curEntry t 2).dk == 4 && (curEntry t 2).dv == 2) = true := by decide +kernel
/-! Watermarks, barriers, steps (15). -/

/-- 0x100 stays under 0x80, and is returned (chapter 15). -/
theorem test_WMPUB_max :
    next? (exec (.wmpub 5 1 2 0 0) (withX { taper0 with markBlocks := [(0, 1)], marks := [(3, 0x100)] } 3 0x80 0)) (fun t => tabGet 0 t.marks 3 == 0x100 && t.getX t.cur 5 == 0x100) = true := by decide +kernel
/-- 0x180. -/
theorem test_WMPUB_add :
    next? (exec (.wmpub 5 1 2 0 1) (withX { taper0 with markBlocks := [(0, 1)], marks := [(3, 0x100)] } 3 0x80 0)) (fun t => tabGet 0 t.marks 3 == 0x180) = true := by decide +kernel
/-- The one participant returns with generation 1. -/
theorem test_BAR_alone : xd (.bar 5 1 1 3) (withX taper0 0x100 0 0) = 1 := by decide +kernel
/-- The step of a partition whose one thread arrives completes. -/
theorem test_STEP_alone : xd (.step 5 1) (withX taper0 0 0 0) = 1 := by decide +kernel
theorem test_FENCE :
    next? (exec (.fence 0 3 3) taper0) (fun t => t.pcOf t.cur == 0x10004 && (t.thread t.cur).relCount == 1) = true := by decide +kernel
theorem test_FENCE_I : next? (exec .fenceI taper0) (fun t => t.pcOf t.cur == 0x10004) = true := by decide +kernel
theorem test_ETRIG : next? (exec .etrig taper0) (fun t => t.curCore.triggered) = true := by decide +kernel
/-- A zero word is equal to zero. -/
theorem test_WAITMEM_met :
    next? (exec (.waitmem 5 1 2 0 1 0) (withX taper0 0x20000 0 0)) (fun t => t.pcOf t.cur == 0x10004) = true := by decide +kernel
theorem test_WAITMEM_waits :
    next? (exec (.waitmem 5 1 2 0 1 1) (withX taper0 0x20000 0 0)) (fun t => (t.thread t.cur).wait.isSome) = true := by decide +kernel

end Sys2Proof.Tests
end

