-- ==== Sys2Proof/Tests/Slice0.lean ====
section
/-! SUPPORT. Tests of decoding against the worked encodings of the spec, each named by its assembler text; words that decoding refuses; and
for each check of `Instr.wf` an instruction that it refuses. -/

namespace Sys2Proof.Tests

open Sys2Proof.Machine

/-! Chapter 02. -/
/-- ADDI x5, x0, -1 (chapter 02). -/
theorem test_decode_ADDI_x5_x0_m1 : decode 0x08A0FFFF = .ok (.addi 5 0 0xFFFF) := rfl
/-- LW x6, [x7+8] (chapter 02). -/
theorem test_decode_LW_x6_x7_8 : decode 0x58C70008 = .ok (.lw 6 7 8) := rfl
/-- BEQ x3, x4, back (chapter 02). -/
theorem test_decode_BEQ_x3_x4_back : decode 0x3064FFFC = .ok (.beq 3 4 0xFFFC) := rfl
/-- SLLI x5, x5, 40 (chapter 02). -/
theorem test_decode_SLLI_x5_x5_40 : decode 0x04A54060 = .ok (.slli 5 5 8 1) := rfl
/-- VFMA v8, v16, v24, m2 (chapter 02). -/
theorem test_decode_VFMA_v8_v16_v24_m2 : decode 0x9D10C208 = .ok (.vfma 8 16 24 2 0) := rfl
/-- MXPT.E4M3.E4M3 acc1, x12, x13 (chapter 02). -/
theorem test_decode_MXPT_E4M3_E4M3_acc1_x12_x13 : decode 0xB1EC6811 = .ok (.mxpt 1 3 12 13 0 1 1) := rfl
/-- NOP (chapter 02). -/
theorem test_decode_NOP : decode 0x08000000 = .ok (.addi 0 0 0) := rfl
/-! Chapter 04. -/
/-- ADD x3, x1, x2 (chapter 04). -/
theorem test_decode_ADD_x3_x1_x2 : decode 0x04611000 = .ok (.add 3 1 2) := rfl
/-- LUI x5, 0x1_2345 (chapter 04). -/
theorem test_decode_LUI_x5_0x1_2345 : decode 0x20A12345 = .ok (.lui 5 0x12345) := rfl
/-- JAL x1, +64 (chapter 04). -/
theorem test_decode_JAL_x1_64 : decode 0x28200010 = .ok (.jal 1 16) := rfl
/-- RET (chapter 04). -/
theorem test_decode_RET : decode 0x2C010000 = .ok (.jalr 0 1 0) := rfl
/-- SD x5, [x2+8] (chapter 04). -/
theorem test_decode_SD_x5_x2_8 : decode 0x70A20008 = .ok (.sd 5 2 8) := rfl
/-- FMA.rne x5, x6, x7 (chapter 04). -/
theorem test_decode_FMA_rne_x5_x6_x7 : decode 0x74A63804 = .ok (.fma 5 6 7 0) := rfl
/-- FCMP.LT x1, x2, x3 (chapter 04). -/
theorem test_decode_FCMP_LT_x1_x2_x3 : decode 0x7422181A = .ok (.fcmp 1 2 3 1) := rfl
/-- CSRR x5, cycle (chapter 04). -/
theorem test_decode_CSRR_x5_cycle : decode 0x7CA00C10 = .ok (.csrr 5 0x0C1) := rfl
/-- CSRC fflags, 1 (chapter 04). -/
theorem test_decode_CSRC_fflags_1 : decode 0x7C01001B = .ok (.csrcImm 0 1 1) := rfl
/-! Chapter 05. -/
/-- BCAST 0x0F, 1 (chapter 05). -/
theorem test_decode_BCAST_0x0F_1 : decode 0x8400000F = .ok (.bcast 0 0 0x0F) := rfl
/-- BCAST 0x0F, 3 (chapter 05). -/
theorem test_decode_BCAST_0x0F_3 : decode 0x8400020F = .ok (.bcast 0 2 0x0F) := rfl
/-- BFETCH x5 (chapter 05). -/
theorem test_decode_BFETCH_x5 : decode 0x84051000 = .ok (.bfetch 5 0) := rfl
/-- STOP 7 (chapter 05). -/
theorem test_decode_STOP_7 : decode 0x84002007 = .ok (.stop 7) := rfl
/-- WJOIN x0, 0x0F (chapter 05). -/
theorem test_decode_WJOIN_x0_0x0F : decode 0x8400300F = .ok (.wjoin 0 0 0x0F) := rfl
/-- XLINK x3, x4 (chapter 05). -/
theorem test_decode_XLINK_x3_x4 : decode 0x84644000 = .ok (.xlink 3 4) := rfl
/-- XLINK.V v2, v2 (chapter 05). -/
theorem test_decode_XLINK_V_v2_v2 : decode 0x84424800 = .ok (.xlinkV 2 2) := rfl
/-- YIELD (chapter 05). -/
theorem test_decode_YIELD : decode 0x84005000 = .ok (.yield) := rfl
/-- WSTAT x7, 8, 1 (chapter 05). -/
theorem test_decode_WSTAT_x7_8_1 : decode 0x84E06018 = .ok (.wstat 7 1 8) := rfl
/-! Chapter 06. -/
/-- STRIP x5, x4, 0b0011 (chapter 06). -/
theorem test_decode_STRIP_x5_x4_0b0011 : decode 0x88A40003 = .ok (.strip 5 4 3) := rfl
/-- STRIP.W x5, x4, 17 (chapter 06). -/
theorem test_decode_STRIP_W_x5_x4_17 : decode 0x88A42011 = .ok (.stripW 5 4 0 17) := rfl
/-- STRIP.W x5, x4, 17, 1 (chapter 06). -/
theorem test_decode_STRIP_W_x5_x4_17_1 : decode 0x88A43011 = .ok (.stripW 5 4 1 17) := rfl
/-- VSETT.BF16 x5, x4, 8 (chapter 06). -/
theorem test_decode_VSETT_BF16_x5_x4_8 : decode 0x88A44C06 = .ok (.vsett 5 4 3 0 0 6) := rfl
/-- VSETT.AP x6, ap1, x7 (chapter 06). -/
theorem test_decode_VSETT_AP_x6_ap1_x7 : decode 0x88C75001 = .ok (.vsettAp 6 7 1) := rfl
/-- VMODE x3 (chapter 06). -/
theorem test_decode_VMODE_x3 : decode 0x88606000 = .ok (.vmode 3) := rfl
/-- VLOOP back (chapter 06). -/
theorem test_decode_VLOOP_back : decode 0x88009FF0 = .ok (.vloop 0x1FF0) := rfl
/-! Chapter 07. -/
/-- VADD v0, v8, v16 (chapter 07). -/
theorem test_decode_VADD_v0_v8_v16 : decode 0x94088000 = .ok (.vadd 0 8 16 0 0) := rfl
/-- VADD v0, v8, x5, m1 (chapter 07). -/
theorem test_decode_VADD_v0_v8_x5_m1 : decode 0x94082980 = .ok (.vadd 0 8 5 1 1) := rfl
/-- VCMP.LT m3, v16, x7 (chapter 07). -/
theorem test_decode_VCMP_LT_m3_v16_x7 : decode 0x947038AA = .ok (.vcmp 3 16 7 0 1 2) := rfl
/-- VNCLIP v1, v2, x5 (chapter 07). -/
theorem test_decode_VNCLIP_v1_v2_x5 : decode 0x98222888 = .ok (.vnclip 1 2 5 0 1) := rfl
/-- VWMACC v16, v0, v8 (chapter 07). -/
theorem test_decode_VWMACC_v16_v0_v8 : decode 0x9A004004 = .ok (.vwmacc 16 0 8 0 0) := rfl
/-- VFCVT.FW v16, v8 (chapter 07). -/
theorem test_decode_VFCVT_FW_v16_v8 : decode 0x9E082018 = .ok (.vfcvtFw 16 8 0) := rfl
/-- VREDSUM v0, v8, v16 (chapter 07). -/
theorem test_decode_VREDSUM_v0_v8_v16 : decode 0xA4088000 = .ok (.vredsum 0 8 16 0) := rfl
/-- VSLIDE1 v16, v16, x9 (chapter 07). -/
theorem test_decode_VSLIDE1_v16_v16_x9 : decode 0xAA104882 = .ok (.vslide1 16 16 9 0 1) := rfl
/-- MPOP x5, m2 (chapter 07). -/
theorem test_decode_MPOP_x5_m2 : decode 0xACA20004 = .ok (.mpop 5 2) := rfl
/-! Chapter 08. -/
/-- VLD.E4M3 v0, [ap0] (chapter 08). -/
theorem test_decode_VLD_E4M3_v0_ap0 : decode 0x8C1C0008 = .ok (.vld 0 28 0 0 8) := rfl
/-- VLDS.BF16 v8, [x5], x6, m1 (chapter 08). -/
theorem test_decode_VLDS_BF16_v8_x5_x6_m1 : decode 0x8D053126 = .ok (.vlds 8 5 6 1 6) := rfl
/-- VLDX.F32 v16, [x7], v24 (chapter 08). -/
theorem test_decode_VLDX_F32_v16_x7_v24 : decode 0x8E07C045 = .ok (.vldx 16 7 24 0 5) := rfl
/-- VLDSEG.I8 v0, [x5], v24, 3 (chapter 08). -/
theorem test_decode_VLDSEG_I8_v0_x5_v24_3 : decode 0x8C05C281 = .ok (.vldseg 0 5 24 2 1) := rfl
/-- PREF.D [x5], x6 (chapter 08). -/
theorem test_decode_PREF_D_x5_x6 : decode 0x8C0530C0 = .ok (.prefD 5 6) := rfl
/-- VST.BF16 v8, [ap1] (chapter 08). -/
theorem test_decode_VST_BF16_v8_ap1 : decode 0x911D0006 = .ok (.vst 8 29 0 0 6) := rfl
/-- AMOADD.D.aq.dm x5, x6, [x7] (chapter 08). -/
theorem test_decode_AMOADD_D_aq_dm_x5_x6_x7 : decode 0x78A73250 = .ok (.amoadd 5 7 6 4 1 0 1) := rfl
/-- AMOCAS.W x5, x6, [x7] (chapter 08). -/
theorem test_decode_AMOCAS_W_x5_x6_x7 : decode 0x78A73009 = .ok (.amocas 5 7 6 0 0 0 0) := rfl
/-- LDA.W.qd x5, [x7] (chapter 08). -/
theorem test_decode_LDA_W_qd_x5_x7 : decode 0x78A7014C = .ok (.lda 5 7 2 0) := rfl
/-- STL.D.pt x6, [x7] (chapter 08). -/
theorem test_decode_STL_D_pt_x6_x7 : decode 0x780731BD = .ok (.stl 7 6 3 1) := rfl
/-! Chapter 10. -/
/-- MZERO.R acc1 (chapter 10). -/
theorem test_decode_MZERO_R_acc1 : decode 0xB1000001 = .ok (.mzeroR 1) := rfl
/-- MXP.BF16.BF16 acc0, v0, v4, m1 (chapter 10). -/
theorem test_decode_MXP_BF16_BF16_acc0_v0_v4_m1 : decode 0xB0002110 = .ok (.mxp 0 0 4 1) := rfl
/-- MXPI.I8.UI8 acc2, v0, v16 (chapter 10). -/
theorem test_decode_MXPI_I8_UI8_acc2_v0_v16 : decode 0xB2008022 = .ok (.mxpi 2 0 16 0 2) := rfl
/-- MTER.T2.I8 acc3, v8, v16 (chapter 10). -/
theorem test_decode_MTER_T2_I8_acc3_v8_v16 : decode 0xB3088030 = .ok (.mter 3 8 16 0 0) := rfl
/-- MSEG v8, v0, m2 (chapter 10). -/
theorem test_decode_MSEG_v8_v0_m2 : decode 0xB0080240 = .ok (.mseg 8 0 2) := rfl
/-- MRD.I.S v8, acc1, x5 (chapter 10). -/
theorem test_decode_MRD_I_S_v8_acc1_x5 : decode 0xB108285C = .ok (.mrd 1 8 5 0 1 1 0) := rfl
/-- MWR acc2, v16, x6 (chapter 10). -/
theorem test_decode_MWR_acc2_v16_x6 : decode 0xB2103060 = .ok (.mwr 2 16 6 0 0) := rfl
/-- MWAIT 0b0101 (chapter 10). -/
theorem test_decode_MWAIT_0b0101 : decode 0xB0000075 = .ok (.mwait 5) := rfl
/-- MQUAD.J acc0 (chapter 10). -/
theorem test_decode_MQUAD_J_acc0 : decode 0xB0000081 = .ok (.mquadJ 0) := rfl
/-- MXPT.BF16.E2M1 acc0, v0, x9 (chapter 10). -/
theorem test_decode_MXPT_BF16_E2M1_acc0_v0_x9 : decode 0xB0C04805 = .ok (.mxpt 0 2 0 9 0 0 5) := rfl
/-! Chapter 11. -/
/-- MPIN acc2, x12 (chapter 11). -/
theorem test_decode_MPIN_acc2_x12 : decode 0xB60C0000 = .ok (.mpin 2 12) := rfl
/-- MUNPIN acc2 (chapter 11). -/
theorem test_decode_MUNPIN_acc2 : decode 0xB6200000 = .ok (.munpin 2) := rfl
/-- MDELTA acc2, v4, v8, x10, x11 (chapter 11). -/
theorem test_decode_MDELTA_acc2_v4_v8_x10_x11 : decode 0xB6444280 = .ok (.mdelta 2 4 8 10) := rfl
/-- MDELTA.Q acc2, v4, v8, x10, x11, v6, v8 (chapter 11). -/
theorem test_decode_MDELTA_Q_acc2_v4_v8_x10_x11_v6_v8 : decode 0xB644428D = .ok (.mdeltaQ 2 4 8 10 6) := rfl
/-- MREADQ acc2, v6, v8 (chapter 11). -/
theorem test_decode_MREADQ_acc2_v6_v8 : decode 0xB6664000 = .ok (.mreadq 2 6 8) := rfl
/-- MSPILL acc2, x13 (chapter 11). -/
theorem test_decode_MSPILL_acc2_x13 : decode 0xB68D0000 = .ok (.mspill 2 13) := rfl
/-- MSPILL.R acc2, x13 (chapter 11). -/
theorem test_decode_MSPILL_R_acc2_x13 : decode 0xB68D0001 = .ok (.mspillR 2 13) := rfl
/-- MFILL acc1, x13 (chapter 11). -/
theorem test_decode_MFILL_acc1_x13 : decode 0xB5AD0000 = .ok (.mfill 1 13) := rfl
/-! Chapter 12. -/
/-- TDEF x5, [x6] (chapter 12). -/
theorem test_decode_TDEF_x5_x6 : decode 0xB8062800 = .ok (.tdef 6 5) := rfl
/-- TINV x5 (chapter 12). -/
theorem test_decode_TINV_x5 : decode 0xB8050001 = .ok (.tinv 5) := rfl
/-- TSYNC [x6], x7 (chapter 12). -/
theorem test_decode_TSYNC_x6_x7 : decode 0xB8063802 = .ok (.tsync 6 7) := rfl
/-! Chapter 13. -/
/-- CPDRAIN x5, 1 (chapter 13). -/
theorem test_decode_CPDRAIN_x5_1 : decode 0xBCA00800 = .ok (.cpdrain 5 1) := rfl
/-- CPDRAIN x5, 4 (chapter 13). -/
theorem test_decode_CPDRAIN_x5_4 : decode 0xBCA02000 = .ok (.cpdrain 5 4) := rfl
/-- CPCANCEL x6, x7 (chapter 13). -/
theorem test_decode_CPCANCEL_x6_x7 : decode 0xBCC70001 = .ok (.cpcancel 6 7) := rfl
/-- CSRR x9, cpgo (chapter 13). -/
theorem test_decode_CSRR_x9_cpgo : decode 0x7D2010F0 = .ok (.csrr 9 0x10F) := rfl
/-! Chapter 14. -/
/-- FENCE.pt rw, rw (chapter 14). -/
theorem test_decode_FENCE_pt_rw_rw : decode 0xC000030F = .ok (.fence 3 3 3) := rfl
/-- FENCE.dm w, w (chapter 14). -/
theorem test_decode_FENCE_dm_w_w : decode 0xC0000405 = .ok (.fence 4 1 1) := rfl
/-- FENCE.wk w, r (chapter 14). -/
theorem test_decode_FENCE_wk_w_r : decode 0xC0000006 = .ok (.fence 0 1 2) := rfl
/-- FENCE.I (chapter 14). -/
theorem test_decode_FENCE_I : decode 0xC0000010 = .ok (.fenceI) := rfl
/-! Chapter 15. -/
/-- BAR.co x5, x6, 0 (chapter 15). -/
theorem test_decode_BAR_co_x5_x6_0 : decode 0xC0A60120 = .ok (.bar 5 6 1 0) := rfl
/-- STEP x5, x6 (chapter 15). -/
theorem test_decode_STEP_x5_x6 : decode 0xC0A60330 = .ok (.step 5 6) := rfl
/-- WAITGEN.pt x5, [x6], x7 (chapter 15). -/
theorem test_decode_WAITGEN_pt_x5_x6_x7 : decode 0xC0A63B40 = .ok (.waitgen 5 6 7 3) := rfl
/-- WAITMEM.W.dm.GEU x5, [x6], x7 (chapter 15). -/
theorem test_decode_WAITMEM_W_dm_GEU_x5_x6_x7 : decode 0xC0A63C53 = .ok (.waitmem 5 6 7 4 0 3) := rfl
/-- WMPUB.pt.ADD x0, x6, x7 (chapter 15). -/
theorem test_decode_WMPUB_pt_ADD_x0_x6_x7 : decode 0xC0063B61 = .ok (.wmpub 0 6 7 3 1) := rfl
/-- ETRIG (chapter 15). -/
theorem test_decode_ETRIG : decode 0xC0000370 = .ok (.etrig) := rfl
/-! Chapter 16. -/
/-- SEND v8, x12 (chapter 16). -/
theorem test_decode_SEND_v8_x12 : decode 0xC4086000 = .ok (.send 8 12) := rfl
/-- WEXPORT x5, v16, x6 (chapter 16). -/
theorem test_decode_WEXPORT_x5_v16_x6 : decode 0xC4B03001 = .ok (.wexport 5 16 6) := rfl
/-- WREVOKE x5, x6 (chapter 16). -/
theorem test_decode_WREVOKE_x5_x6 : decode 0xC4A03002 = .ok (.wrevoke 5 6) := rfl
/-! Chapter 18. -/
/-- ECALL (chapter 18). -/
theorem test_decode_ECALL : decode 0x80000000 = .ok (.ecall) := rfl
/-- EBREAK (chapter 18). -/
theorem test_decode_EBREAK : decode 0x80000001 = .ok (.ebreak) := rfl
/-- TRAPRET (chapter 18). -/
theorem test_decode_TRAPRET : decode 0x80000002 = .ok (.trapret) := rfl
/-- WFE (chapter 18). -/
theorem test_decode_WFE : decode 0x80000003 = .ok (.wfe) := rfl
/-- HALT (chapter 18). -/
theorem test_decode_HALT : decode 0x80000004 = .ok (.halt) := rfl
/-! Chapter 20. -/
/-- AMOSWAP.D.rl.pt x0, x10, [x5] (chapter 20). -/
theorem test_decode_AMOSWAP_D_rl_pt_x0_x10_x5 : decode 0x780551B1 = .ok (.amoswap 0 5 10 3 0 1 1) := rfl
/-- WAITMEM.D.pt.GEU x6, [x23], x5 (chapter 20). -/
theorem test_decode_WAITMEM_D_pt_GEU_x6_x23_x5 : decode 0xC0D72B5B = .ok (.waitmem 6 23 5 3 1 3) := rfl
/-- VCMP.LE m1, v8, v0 (chapter 20). -/
theorem test_decode_VCMP_LE_m1_v8_v0 : decode 0x9428002C = .ok (.vcmp 1 8 0 0 0 4) := rfl
/-! Chapter 21. -/
/-- MDELTA.Q acc0, v4, v8, x20, x21, v6, v8 (chapter 21). -/
theorem test_decode_MDELTA_Q_acc0_v4_v8_x20_x21_v6_v8 : decode 0xB444450D = .ok (.mdeltaQ 0 4 8 20 6) := rfl
/-! Chapter 22. -/
/-- VST.F32 v3, [x9] (chapter 22). -/
theorem test_decode_VST_F32_v3_x9 : decode 0x90690005 = .ok (.vst 3 9 0 0 5) := rfl
/-! Chapter 23. -/
/-- MSETI m2, x14, 0 (chapter 23). -/
theorem test_decode_MSETI_m2_x14_0 : decode 0xAC407008 = .ok (.mseti 2 0 14) := rfl
/-- MANDN m1, m2, m3 (chapter 23). -/
theorem test_decode_MANDN_m1_m2_m3 : decode 0xAC221803 = .ok (.mandn 1 2 3) := rfl
/-- VFREDSUM v0, v0, v0, m1 (chapter 23). -/
theorem test_decode_VFREDSUM_v0_v0_v0_m1 : decode 0xA4000104 = .ok (.vfredsum 0 0 0 1) := rfl
/-- VMVXS x12, v0 (chapter 23). -/
theorem test_decode_VMVXS_x12_v0 : decode 0xA980000C = .ok (.vmvxs 12 0 0 0) := rfl
/-! Chapter 24. -/
/-- VID v0, x8 (chapter 24). -/
theorem test_decode_VID_v0_x8 : decode 0xA8004088 = .ok (.vid 0 8 0 1) := rfl

/-! Words that decoding refuses (02 R46 to R48, 05, 10). -/

/-- CLZ with a source that its form keeps zero (02 R47). -/
theorem test_refuse_reserved_source : decode 0x04221818 = .error .reservedField := rfl
/-- An OP code that the table does not list (02 R46). -/
theorem test_refuse_unlisted : decode 0x0422181B = .error .illegal := rfl
/-- A rounding-mode code that is no mode (02 R43). -/
theorem test_refuse_rounding_code : decode 0x74A63864 = .error .illegal := rfl
/-- A memory format beyond the last (02 R45). -/
theorem test_refuse_format_code : decode 0x8C1C0013 = .error .illegal := rfl
/-- A major opcode with no form (02 R41). -/
theorem test_refuse_major : decode 0xFC000000 = .error .illegal := rfl

/-! For each check of `Instr.wf`, an instruction that it refuses. -/

theorem test_wf_refuses_fadd_rm : Instr.wf (.fadd 1 2 3 6) = false := rfl
theorem test_wf_refuses_fcvt_rm : Instr.wf (.fcvtW 1 2 6) = false := rfl
theorem test_wf_refuses_fcmp_code : Instr.wf (.fcmp 1 2 3 4) = false := rfl
theorem test_wf_refuses_amo_scope_unordered : Instr.wf (.amoadd 1 2 3 1 0 0 0) = false := rfl
theorem test_wf_refuses_amo_scope_code : Instr.wf (.amoadd 1 2 3 5 1 0 0) = false := rfl
theorem test_wf_refuses_lda_scope : Instr.wf (.lda 1 2 5 0) = false := rfl
theorem test_wf_refuses_xlink_wick_zero : Instr.wf (.xlinkTaper 1 2 0) = false := rfl
theorem test_wf_refuses_wstat_selector : Instr.wf (.wstat 1 0 9) = false := rfl
theorem test_wf_refuses_vsett_type : Instr.wf (.vsett 1 2 0 0 0 7) = false := rfl
theorem test_wf_refuses_vsett_rm : Instr.wf (.vsett 1 2 0 0 6 0) = false := rfl
theorem test_wf_refuses_vld_format : Instr.wf (.vld 0 1 0 0 19) = false := rfl
theorem test_wf_refuses_vld_scale_field : Instr.wf (.vld 0 1 3 0 5) = false := rfl
theorem test_wf_refuses_vlds_format : Instr.wf (.vlds 0 1 2 0 19) = false := rfl
theorem test_wf_refuses_vldff_format : Instr.wf (.vldff 0 1 0 19) = false := rfl
theorem test_wf_refuses_vid_source : Instr.wf (.vid 0 3 0 0) = false := rfl
theorem test_wf_refuses_vmvxs_source : Instr.wf (.vmvxs 1 2 3 0) = false := rfl
theorem test_wf_refuses_mseti_pattern : Instr.wf (.mseti 1 3 2) = false := rfl
theorem test_wf_refuses_mxpt_selector : Instr.wf (.mxpt 0 0 1 2 0 0 0) = false := rfl
theorem test_wf_refuses_mxpt_format : Instr.wf (.mxpt 0 1 1 2 0 14 0) = false := rfl
theorem test_wf_refuses_mdelta_register : Instr.wf (.mdelta 0 1 2 31) = false := rfl
theorem test_wf_refuses_cpdrain_channel : Instr.wf (.cpdrain 1 5) = false := rfl
theorem test_wf_refuses_fence_scope : Instr.wf (.fence 5 1 1) = false := rfl
theorem test_wf_refuses_fence_empty : Instr.wf (.fence 0 0 1) = false := rfl
theorem test_wf_refuses_bar_scope : Instr.wf (.bar 1 2 0 0) = false := rfl
theorem test_wf_refuses_bar_number : Instr.wf (.bar 1 2 2 4) = false := rfl
theorem test_wf_refuses_waitgen_scope : Instr.wf (.waitgen 1 2 3 5) = false := rfl
theorem test_wf_refuses_waitmem_condition : Instr.wf (.waitmem 1 2 3 0 0 6) = false := rfl
theorem test_wf_refuses_wmpub_scope : Instr.wf (.wmpub 1 2 3 4 0) = false := rfl
theorem test_wf_refuses_core_number : Instr.wf (.wickEvent 0 96) = false := rfl
theorem test_wf_refuses_thread_core : Instr.wf (.wfeWake ⟨0, 96, .taper⟩) = false := rfl
theorem test_wf_refuses_barrier_core : Instr.wf (.barCompletion 0 false 96 0) = false := rfl
theorem test_wf_refuses_barrier_quad : Instr.wf (.barCompletion 0 true 0 4) = false := rfl
theorem test_wf_refuses_quad_number : Instr.wf (.mquadRendezvous 0 24) = false := rfl
theorem test_wf_refuses_partition_number : Instr.wf (.placement 24) = false := rfl
theorem test_wf_refuses_vf_zero : Instr.wf (.faultRecord 0) = false := rfl
theorem test_wf_refuses_vf_number : Instr.wf (.ringReset 513 0) = false := rfl
theorem test_wf_refuses_tensor_number : Instr.wf (.tileLineFill 1 8192 0 0 0) = false := rfl
theorem test_wf_refuses_channel_number : Instr.wf (.channelFailure 384) = false := rfl
theorem test_wf_refuses_power_cap : Instr.wf (.setPowerCap 1499) = false := rfl

/-- An event has no word. -/
theorem test_event_has_no_word : encode (.gangEnd 3) = none := rfl

end Sys2Proof.Tests
end

