-- ==== Sys2Proof/Tests/WitnessScalar.lean ====
section
/-! SUPPORT. For each claim about scalar threads that has hypotheses, states and operands that meet them, clause by clause, at the edges of
their ranges. -/

namespace Sys2Proof.Tests

open Sys2Proof.Machine Sys2Proof.Claims

theorem witness_InstructionAdvance :
    (wick0.wick 0 0 0).isFree = true ∧ (block0.wick 0 0 0).isFree = false ∧
    ((block0.wick 0 0 0).queue.map fun b => decide (b.pos + 1 < b.words.length)) = [true] ∧
    ((blockLast.wick 0 0 0).queue.map fun b => decide (b.words.length ≤ b.pos + 1)) = [true] := by decide

/-- x0 as destination, and a destination that is a source. -/
theorem witness_IntegerResult :
    (intSpec (withX taper0 5 7 0) (.add 0 1 2)).isSome = true ∧ intSpec (withX taper0 5 7 0) (.sub 1 1 2) = some (1, -2) ∧
    intSpec (withX wick0 5 0 0) (.div 3 1 2) = some (3, 0x7FFFFFFFFFFFFFFF) := by decide

theorem witness_IntegerFrame : next? (exec (.add 0 1 2) (withX taper0 5 7 0)) (fun _ => true) = true := by decide

theorem witness_BranchResult :
    branchSpec (withX taper0 5 5 0) (.beq 1 2 1) = some (true, 1) ∧ branchSpec (withX taper0 5 6 0) (.beq 1 2 1) = some (false, 1) ∧
    taper0.blockDriven taper0.cur = false ∧ block0.blockDriven block0.cur = true ∧ branchSpec block0 (.bgeu 0 0 1) = some (true, 1) := by
  decide

theorem witness_JumpResult :
    taper0.blockDriven taper0.cur = false ∧ (effective (withX taper0 0x100 0 0) 1 4).toNat % 4 = 0 ∧
    (effective (withX taper0 0x100 0 0) 1 6).toNat % 4 ≠ 0 ∧ block0.blockDriven block0.cur = true := by decide

/-- A load that is served at once, and one that the agenda leaves for later. -/
theorem witness_LoadResult :
    let s := withX taper0 0x10000 0 0
    let l := { s with late := true }
    let fine (x : Xlat) (s1 : State) : Bool := !hostRefuses s1 x.pa && !scalarPoison s1 s1.cur x && !raceAt s1 s1.cur x
    loadSpec (.ld 3 1 0) = some (3, 1, 0, 8, false) ∧ (effective s 1 0).toNat % 8 = 0 ∧
    accOk (threadXlat s s.cur (effective s 1 0) .read) (fun x s1 => fine x s1 && !mayWait s1 x.pa) = true ∧
    accOk (threadXlat l l.cur (effective l 1 0) .read) (fun x s1 => fine x s1 && mayWait s1 x.pa && (scalarHit s1 s1.cur x.pa).isNone) = true := by
  decide

/-- A queued store of whole bytes; a cached line that serves a read, and one whose copy has expired. -/
theorem witness_LoadValue :
    let st : PendAccess := { vector := false, bytes := [{ pa := 7, mask := 0xFF, val := 1 }], watched := false, cmp := false, clears := [] }
    let s := queueStore taper0 taper0.cur st
    let d := taper0.modPcore 0 fun p => { p with dcache := [{ line := 0, data := 5, filled := 0, ahead := false }] }
    let old := { d with ac := 4096 }
    ((s.thread s.cur).pend.all fun p => p.bytes.all fun e => e.mask == 0xFF) = true ∧ (s.thread s.cur).pend ≠ [] ∧ 8 % 64 + 8 ≤ 64 ∧
    (scalarHit d d.cur 8).isSome = true ∧ (scalarHit old old.cur 8).isSome = false ∧ (scalarHit s s.cur 8).isSome = false := by decide

theorem witness_StoreResult :
    let s := withX taper0 0x10000 0 0
    storeSpec (.sd 2 1 8) = some (2, 1, 8, 8) ∧ (effective s 1 8).toNat % 8 = 0 ∧
    accOk (threadXlat s s.cur (effective s 1 8) .write) (fun x s1 => !raceAt s1 s1.cur x) = true := by decide

theorem witness_ScalarAccessTraps :
    let s := withX taper0 0x10001 unmapped 0
    (effective s 1 0).toNat % 2 ≠ 0 ∧ (effective s 2 0).toNat % 8 = 0 ∧ loadSpec (.lh 3 1 0) = some (3, 1, 0, 2, true) ∧
    storeSpec (.sd 3 2 0) = some (3, 2, 0, 8) ∧
    accStops (threadXlat s s.cur (effective s 2 0) .read) = true ∧ accStops (threadXlat s s.cur (effective s 2 0) .write) = true := by
  decide

/-- A form that may keep its word, on a word that is equal and on one that differs, and a form that always writes. -/
theorem witness_AtomicResult :
    let s := withX taper0 0x20000 0 0
    let e := withX taper0 0x20000 0 1
    let fine (x : Xlat) (s1 : State) : Bool := !isHost x.pa && !hostRefuses s1 x.pa && !poisoned (amoBefore s1 s1.cur true) x.pa
    ((amoSpec (.amocas 3 1 2 0 1 1 1)).map fun A => (A.keeps, A.n, A.new 0 0 0, A.new 0 0 1)) = some (true, 8, some 0, none) ∧
    ((amoSpec (.amoadd 3 1 2 3 1 1 1)).map fun A => (A.keeps, A.n)) = some (false, 8) ∧ (reg s 1).toNat % 8 = 0 ∧
    accOk (threadXlatBy s s.cur (reg s 1) .rmw false) (fun x s1 => fine x s1 && memRead s1.mem x.pa 8 == 0) = true ∧
    accOk (threadXlatBy e e.cur (reg e 1) .rmw false) (fun x s1 => fine x s1 && memRead s1.mem x.pa 8 == 0) = true ∧
    accOk (threadXlatBy s s.cur (reg s 1) .rmw true) fine = true ∧
    accOk (threadXlat (amoBefore s s.cur true) s.cur (reg s 1) .rmw) (fun _ _ => true) = true := by decide

theorem witness_AtomicFloatAdd :
    let s := withX taper0 0x10000 0 0
    (reg s 1).toNat % 4 = 0 ∧
    accOk (threadXlatBy s s.cur (reg s 1) .rmw true) (fun x s1 => !isHost x.pa && decide (readable s1 x.pa)) = true := by decide

/-- The wick's queued store that a release of the device has marked, which an acquire of the taper must see, and one of a wick's scope. -/
theorem witness_AcquireTaken :
    let st : PendAccess := { vector := true, bytes := [{ pa := 7, mask := 0xFF, val := 1 }], watched := false, cmp := false, clears := [] }
    let s := queueStore wick0 wick0.cur { st with scope := some 3 }
    let k := queueStore wick0 wick0.cur { st with scope := some 0 }
    let u : Tid := { wick0.cur with who := .taper }
    u ≠ wick0.cur ∧ (s.thread wick0.cur).pend ≠ [] ∧ inScope s 3 wick0.cur u = true ∧ inScope s 3 u wick0.cur = true ∧
    inScope k 0 wick0.cur u = false := by decide

/-- A page of host memory at 0x40000, whose first sector the host refuses to read. -/
def hostPage : State :=
  let e : TlbEntry :=
    { vf := 1, va := 0x40000, lg := 12, pa := 2 ^ 45, ipa := 0x40000, r := true, w := true, x := true, s1r := true, s1w := true, s1x := true, d := true,
      wch := false, cmp := false, tables := [] }
  { withX taper0 0x40000 0 0 with denied := [2 ^ 45 / 64], pcores := [(0, { PCore.reset with tlb := [e] })] }

theorem witness_HostRefusals :
    let s := hostPage
    let refuses (x : Xlat) (s1 : State) : Bool := isHost x.pa && hostRefuses s1 x.pa
    loadSpec (.ld 3 1 0) = some (3, 1, 0, 8, false) ∧ (effective s 1 0).toNat % 8 = 0 ∧ (reg s 1).toNat % widthOf 1 = 0 ∧
    accOk (threadXlat s s.cur (reg s 1) .read) refuses = true ∧ accOk (threadXlatBy s s.cur (reg s 1) .rmw true) refuses = true ∧
    ((amoSpec (.amoadd 3 1 2 0 0 0 1)).any fun A => A.host && !A.keeps && (reg s A.a).toNat % A.n == 0) = true ∧
    ((amoSpec (.amoor 3 1 2 0 0 0 1)).any fun A => !A.host && (reg s A.a).toNat % A.n == 0) = true := by decide

theorem witness_AcquireRelease :
    let s := withX taper0 0x10000 0 0
    (reg s 1).toNat % widthOf 1 = 0 ∧ accOk (threadXlat s s.cur (reg s 1) .read) (fun x s1 => decide (readable s1 x.pa)) = true ∧
    accOk (threadXlat s s.cur (reg s 1) .write) (fun _ _ => true) = true := by decide

theorem witness_FloatResult : (roundedSpec taper0 (.fma 1 2 3 7)).isSome = true ∧ (roundedSpec taper0 (.fcvtF 0 2 5)).isSome = true := by
  decide

theorem witness_FloatOrder : wordMajor 0x7400004A = 0x1D ∧ (0x7400004A : IWord).extractLsb' 0 4 = 0xA ∧
    4 ≤ ((0x7400004A : IWord).extractLsb' 4 3).toNat ∧ (0x74000016 : IWord).extractLsb' 0 4 = 6 ∧
    (0x74000016 : IWord).extractLsb' 4 3 ≠ 0 := by decide

/-- A NaN, both infinities, and the integers at both bounds of I32 and just past them. -/
theorem witness_FloatToInteger :
    (decodeFloat fmtF32 0x7FC00000).isNan = true ∧ decodeFloat fmtF32 0x7F800000 = .inf false ∧ decodeFloat fmtF32 0xFF800000 = .inf true ∧
    decodeFloat fmtF32 0x4F000000 = .fin false 0x800000 8 ∧ decodeFloat fmtF32 0xCF000000 = .fin true 0x800000 8 ∧
    decodeFloat fmtF32 0xCF000001 = .fin true 0x800001 8 := by decide

theorem witness_RoundToFloat :
    (1 : Nat) ≠ 0 ∧ (roundAt .rne false 1 0 0).1 * 2 ^ 149 ≤ maxUnits fmtF32 ∧ maxUnits fmtE2M1 < (roundAt .rne false 1 4 4).1 * 2 ^ 5 := by
  decide

theorem witness_FormatValuesKept :
    decodeFloat fmtE2M1 7 = .fin false 3 1 ∧ decodeFloat fmtF32 0x7F800000 = .inf false ∧ (decodeFloat fmtE4M3 0x7F).isNan = true := by
  decide

theorem witness_CsrResult :
    csrMarked taper0.cur 0x0C1 = true ∧ (match csrRead taper0 taper0.cur 0x0C1 with | .ok _ => true | .error _ => false) = true ∧
    csrMarked taper0.cur 0x001 = true ∧ (csrSet taper0 taper0.cur 0x001 0x7F).isSome = true ∧
    (csrSpec taper0 (.csrc 0 1 0x001)).isSome = true := by decide

theorem witness_CsrTraps :
    csrMarked taper0.cur 0x010 = false ∧ csrMarked wick0.cur 0x800 = true ∧ csrRefuses false 0x012 7 = true ∧
    (match csrRead (taper0.modThread taper0.cur fun th => { th with copy := { th.copy with fmt := 0x1F } }) taper0.cur 0x10F with
      | .ok _ => false | .error _ => true) = true := by decide

theorem witness_CsrFieldwise :
    (⟨0x012, true, true, 0xF7⟩ : CsrRow) ∈ csrMap false ∧ csrSet wick0 wick0.cur 0x012 7 = none ∧
    (csrSet wick0 wick0.cur 0x012 0xD6).isSome = true := by decide

theorem witness_LaunchRead :
    let th := taper0.thread taper0.cur
    let full := taper0.modCurCore fun C => { C with chans := C.chans.set 0 { C.chans[(0 : Fin 4)] with error := some (6, 1) } }
    let bad : CopySetup := { th.copy with fmt := 0x1F }
    th.copy.check = none ∧ (taper0.core 0 0).chans[th.copy.ch.toFin].queue.length < 16 ∧
    (taper0.core 0 0).chans[th.copy.ch.toFin].error = none ∧ (full.core 0 0).chans[th.copy.ch.toFin].error ≠ none ∧
    bad.check.isSome = true := by decide

theorem witness_WickTrap : holdsJoined wick0 0 0 0 = false := by decide

theorem witness_TaperTrapTaken :
    ((taperWith fun T => { T with tvec := 0x4000 }).core 0 0).taper.act = false ∧
    ((taperWith fun T => { T with tvec := 0x4000 }).core 0 0).taper.tvec ≠ 0 := by decide

theorem witness_DoubleTrapHalts :
    ((taperWith fun T => { T with act := true }).core 0 0).taper.act = true ∧ (taper0.core 0 0).taper.tvec = 0 ∧
    (taper0.gang 0).ndouble = 0 := by decide

theorem witness_TrapInstructions :
    let armed := { taper0 with root := { taper0.root with unlocked := true, armed := true } }
    ¬(taper0.root.unlocked = true ∧ taper0.root.armed = true) ∧ armed.root.unlocked = true ∧ armed.root.armed = true ∧
    xlatFails (translate taper0 (taper0.pcoreNum taper0.cur) (taper0.vfOf taper0.cur) unmapped .fetch true) = true ∧
    xlatOk (translate taper0 (taper0.pcoreNum taper0.cur) (taper0.vfOf taper0.cur) 0x10000 .fetch true) (fun _ _ => true) = true := by
  decide

theorem witness_TrapReturn :
    (taper0.cur.who ≠ .taper ∨ taper0.curCore.taper.act = false) ∧ wick0.cur.who ≠ .taper ∧
    (let s := taperWith fun T => { T with act := true, tepc := 2 }
     s.cur.who = .taper ∧ s.curCore.taper.act = true ∧ s.curCore.taper.ev = false ∧ s.curCore.taper.tepc.toNat % 4 ≠ 0) ∧
    (taperWith fun T => { T with act := true, tepc := 4 }).curCore.taper.tepc.toNat % 4 = 0 ∧
    (taperWith fun T => { T with act := true, ev := true, disp := 3 }).curCore.taper.disp = 3 ∧
    (let s := (taperWith fun T => { T with act := true, ev := true, disp := 2 }).modWick 0 0 0 fun W => { W with state := .faulted true }
     s.curCore.taper.disp ≠ 3 ∧ (s.curWick s.curCore.taper.evWick).state = .faulted true) := by decide

theorem witness_HaltAndWait :
    let st : PendAccess := { vector := false, bytes := [], watched := false, cmp := false, clears := [] }
    let q := queueStore taper0 taper0.cur st
    let h := taper0.setWait taper0.cur .halt
    let e := taper0.modThread taper0.cur fun th => { th with event := true }
    let w := e.setWait e.cur (.wfe 0)
    let late := { taper0.setWait taper0.cur (.wfe 0) with ac := 65536 }
    (taper0.cur.who = .taper ∧ (taper0.thread taper0.cur).pend = []) ∧ (q.thread q.cur).pend ≠ [] ∧ wick0.cur.who ≠ .taper ∧
    ((h.core 0 0).taper.th.wait = some .halt ∧ (h.core 0 0).taper.th.pend = []) ∧
    (e.thread e.cur).event = true ∧ (taper0.thread taper0.cur).event = false ∧
    ((w.thread w.cur).wait = some (.wfe 0) ∧ (w.thread w.cur).event = true) ∧
    ((late.thread late.cur).wait = some (.wfe 0) ∧ 65536 ≤ late.ac - 0) := by decide

/-- The second wick's fault, with the first's already reported. -/
theorem witness_WickEventTaken :
    let s := ((taperWith fun T => { T with tvec := 0x4000 }).modWick 0 0 0 fun W => { W with state := .faulted false, reported := true }).modWick
      0 0 1 fun W => { W with state := .faulted true }
    (s.core 0 0).taper.run = .running ∧ (s.core 0 0).taper.act = false ∧ (s.core 0 0).taper.tvec ≠ 0 ∧ (s.wick 0 0 1).state = .faulted true ∧
    (s.wick 0 0 1).reported = false ∧ (s.wick 0 0 0).reported = true := by decide

theorem witness_Broadcast :
    let b : WinBlock := { block := { base := 0, words := [0], pos := 0 }, left := 1, refused := [] }
    let full := taper0.modCurCore fun C => { C with window := [b, b, b, b] }
    let far := taperWith fun T => { T with th := { T.th with pc := unmapped } }
    taper0.cur.who = .taper ∧ ((0 : BitVec 8) = 0) ∧ 4 ≤ full.curCore.window.length ∧ taper0.curCore.window.length < 4 ∧
    (match fetchBlock taper0 taper0.cur (pcPlus taper0 1) 8 [] with | .words ws _ => ws.length == 8 | .stop _ => false) = true ∧
    (match fetchBlock far far.cur (pcPlus far 1) 1 [] with | .words _ _ => false | .stop _ => true) = true ∧ wick0.cur.who ≠ .taper := by
  decide

/-- A queue of two blocks of one word and of two words, block-driven and free-running; a wick that waits in a MWAIT. -/
theorem witness_BlocksCounted :
    let B (n : Nat) : Block := { base := 0, words := List.replicate n 0, pos := 0 }
    let W : Wick := { Wick.start with state := .blockDriven, queue := [B 1, B 2] }
    W.queue = B 1 :: [B 2] ∧ (B 2).pos + 1 < (B 2).words.length ∧ W.blocksHeld true = 1 ∧ W.blocksHeld false = 2 ∧
    ({ W with state := .freeRunning } : Wick).isFree = true ∧ ({ W with state := .freeRunning } : Wick).blocksHeld true = 2 ∧
    ({ W with th := { W.th with wait := some (.mwait 1) } } : Wick).hasStarted = true := by decide

/-- One block for wick 0, not yet offered, with its queue empty; with four blocks queued; refused and to be replayed; refused just now. -/
theorem witness_BlockDelivery :
    let B : Block := { base := 0, words := [0], pos := 0 }
    let b : WinBlock := { block := B, left := 1, refused := [] }
    let s := taper0.modCurCore fun C => { C with window := [b] }
    let full := s.modWick 0 0 0 fun W => { W with queue := [B, B, B, B] }
    let now := taper0.modCurCore fun C => { C with window := [{ b with refused := [(0, 0)] }] }
    let re := { now with ac := (taper0.core 0 0).bcbackoff.toNat + 1 }
    ((s.core 0 0).window = [] ++ b :: [] ∧ bitOf b.left 0 = true ∧ tabGet? b.refused 0 = none ∧ (s.wick 0 0 0).blocksHeld false < 4) ∧
    4 ≤ (full.wick 0 0 0).blocksHeld false ∧
    ((re.core 0 0).window = [] ++ { b with refused := [(0, 0)] } :: [] ∧ 0 + (re.core 0 0).bcbackoff.toNat + 1 ≤ re.ac ∧
      (re.wick 0 0 0).queue.length + 1 ≤ 4) ∧
    now.ac < 0 + (now.core 0 0).bcbackoff.toNat + 1 := by
  decide

theorem witness_FreeRun : wick0.cur.who = .wick 0 ∧ taper0.cur.who = .taper ∧ (reg (withX wick0 4 6 0) 1).toNat % 4 = 0 ∧
    (reg (withX wick0 4 6 0) 2).toNat % 4 ≠ 0 := by decide

theorem witness_StopRecorded :
    let st : PendAccess := { vector := true, bytes := [], watched := false, cmp := false, clears := [] }
    let q := queueStore wick0 wick0.cur st
    let w := wick0.setWait wick0.cur (.stop 7)
    (wick0.cur = ⟨0, 0, .wick 0⟩ ∧ (wick0.wick 0 0 0).th.pend = []) ∧ (q.wick 0 0 0).th.pend ≠ [] ∧ taper0.cur.who = .taper ∧
    ((w.wick 0 0 0).th.wait = some (.stop 7) ∧ (w.wick 0 0 0).th.pend = []) := by decide

/-- Wick 1 is idle; wick 0 runs; a WJOIN waits for wick 1. -/
theorem witness_Join :
    let w := taper0.setWait taper0.cur (.wjoin 3 2)
    taper0.cur.who = .taper ∧ (taper0.wick 0 0 1).quiescent = true ∧ (taper0.curCore.window = []) ∧ (taper0.wick 0 0 0).quiescent = false ∧
    wick0.cur.who ≠ .taper ∧ (w.core 0 0).taper.th.wait = some (.wjoin 3 2) := by decide

theorem witness_CrossLink :
    let split := wick0.modWick 0 0 1 fun W => { W with split := true }
    wick0.cur.who = .wick 0 ∧ taper0.cur.who = .taper ∧ (wick0.curWick 0).split = (wick0.curWick (fin8 1)).split ∧
    (split.curWick 0).split ≠ (split.curWick (fin8 1)).split := by decide

/-- Under GTO wick 0 is the oldest that is ready, and greedy; under round-robin it is the eighth after wick 0; the slot has issued in this ac. -/
theorem witness_SlotAndStatus :
    let vadd0 := placeState State.reset (.wick 0) 0x94088000
    let greedy := vadd0.modCurCore fun C => { C with issue := { C.issue with greedy := some 0 } }
    let rr := vadd0.modCurCore fun C => { C with issue := { C.issue with rr := true, last := 0 } }
    let spent := vadd0.modCurCore fun C => { C with issue := { C.issue with issuedAt := some 0 } }
    taper0.cur.who = .taper ∧ vadd0.cur.who = .wick 0 ∧ (vadd0.core 0 0).issue.rr = false ∧ (vadd0.core 0 0).issue.issuedAt ≠ some vadd0.ac ∧
    (vadd0.core 0 0).issue.age = [] ++ 0 :: [1, 2, 3, 4, 5, 6, 7] ∧
    slotReady vadd0 0 0 0 = true ∧ (vadd0.core 0 0).issue.greedy = none ∧ (greedy.core 0 0).issue.greedy = some 0 ∧
    slotReady greedy 0 0 0 = true ∧ (rr.core 0 0).issue.rr = true ∧ fin8 (0 + 8) = 0 ∧
    ((List.range 7).all fun j => !slotReady rr 0 0 (fin8 (j + 1))) = true ∧ slotReady rr 0 0 0 = true ∧
    (spent.core 0 0).issue.issuedAt = some spent.ac := by decide +kernel

/-- A watermark slot of the VF that has reached the strip's bound, and one that has not; a wait that may return. -/
theorem witness_StripGranted :
    let s := { wick0 with markBlocks := [(0, 1)], marks := [(5, 100)] }
    let w := s.setWait s.cur (.stripW 3 1 5 true)
    wick0.cur.who = .wick 0 ∧ slotHeld s (s.vfOf s.cur) 5 = true ∧ reaches (markOf s 5) 100 = true ∧ reaches (markOf s 5) 101 = false ∧
    slotHeld s (s.vfOf s.cur) 64 = false ∧ (w.thread w.cur).wait = some (.stripW 3 1 5 true) ∧
    reaches (markOf w 5) (w.getX w.cur 3 + BitVec.ofNat 64 (min (w.getX w.cur 1).toNat (w.wick 0 0 0).cap)) = true := by decide

theorem witness_VectorSetup : wick0.cur.who = .wick 0 := by decide

theorem witness_ModeToggled :
    let held := wick0.modCurCore fun C => { C with windows := C.windows.set 7 { C.windows[(7 : Fin 8)] with valid := true, owner := 0 } }
    wick0.cur.who = .wick 0 ∧ (List.finRange 8).all (fun n => !wick0.curCore.windows[n].valid) = true ∧
    held.curCore.windows[(7 : Fin 8)].valid = true ∧ held.curCore.windows[(7 : Fin 8)].owner = 0 ∧
    (List.finRange 7).all (fun n => !held.curCore.windows[n.castSucc].valid) = true := by decide

/-- No stages; the last pass; a pass before it, free-running and block-driven. -/
theorem witness_LoopPass :
    let pipe (q : Word) (st : WickState) := wickWith fun W => { W with pipeDepth := 2, pipeItems := 3, pipepass := q, state := st }
    (wick0.curWick 0).pipeDepth.toNat = 0 ∧
    (let W := (pipe 3 .freeRunning).curWick 0
     W.pipeDepth.toNat ≠ 0 ∧ W.pipepass.toNat + 1 < W.pipeItems.toNat + W.pipeDepth.toNat ∧
       W.pipeItems.toNat + W.pipeDepth.toNat ≤ W.pipepass.toNat + 1 + 1) ∧
    (let W := (pipe 0 .freeRunning).curWick 0
     W.pipepass.toNat + 1 + 1 < W.pipeItems.toNat + W.pipeDepth.toNat ∧ W.isFree = true) ∧
    ((pipe 0 .blockDriven).curWick 0).isFree = false := by decide

/-! Claims whose hypotheses are on numbers alone. -/

theorem witness_CsrReadEffects : (0x100 : Nat) ≠ 0x10F ∧ (0x100 : Nat) ≠ 0x143 ∧ (0x143 : Nat) ≠ 0x10F := by decide
/-- The least exponent is that of an operand, and that of the product. -/
theorem witness_ExactArithmetic : (-3 : Int) ≤ -3 ∧ (-3 : Int) ≤ 2 ∧ (-3 : Int) ≤ -3 + 2 ∧ (-4 : Int) ≤ -2 + -2 := by decide
theorem witness_RoundingModes : 0 < 1 ∧ 0 < 53 := by decide
theorem witness_StorePerformed : 8 ≤ 8 ∧ 0 ≤ 8 := by decide
theorem witness_QueuePerformed : taper0.cur ≠ wick0.cur := by decide
theorem witness_RegisterWrite : taper0.cur ≠ wick0.cur ∧ (5 : Reg) ≠ 0 := by decide

end Sys2Proof.Tests
end

