-- ==== Sys2Proof/Tests/WitnessSync.lean ====
section
/-! SUPPORT. States and operands that meet the hypotheses of the claims about copies, fences, barriers, supersteps, waits, watermark slots,
windows, SEND, landings and ports, clause by clause. -/

namespace Sys2Proof.Tests

open Sys2Proof.Machine Sys2Proof.Claims

/-- The one 32-bit word of a row at 0x20000 copied to 0x20100, its flag at `flag`; `add` adds 7 to it. -/
def oneCopy (src dst flag : Word) (add : Bool) (done : Nat) : Copy :=
  { id := 1, setup := { CopySetup.start with src := src, dst := dst, fmt := 6, flag := flag, xf := if add then 7 * 2 ^ 32 + 2 ^ 29 else 7 * 2 ^ 32 }
    rm := 0, who := .taper, done := done, started := false, hold := false, wait := none }
/-- Gang 0 with copies in channel 0. -/
def copyState (ys : List Copy) : State :=
  taper0.modCore 0 0 fun C => { C with chans := C.chans.set 0 { Chan.zero with queue := ys } }
/-- The head of channel 0 marked as begun. -/
def begun (s : State) : State := s.modHead 0 0 0 fun y => { y with started := true }

/-- Indices at zero and at the end of every dimension, fields, records through an index. -/
theorem witness_CopyOrder :
    let c (xf : Word) : CopySetup := { CopySetup.start with dim := #v[2, 3, 1, 1], xf := xf }
    bitOf (c 0).xf 0 = false ∧ (bitOf (c 0x71).xf 0 = true ∧ bitOf (c 0x71).xf 8 = false) ∧ (bitOf (c 0x171).xf 0 = true ∧ bitOf (c 0x171).xf 8 = true) ∧
    (c 0x71).shape.d0 = 2 ∧ (c 0x71).shape.nf = 8 ∧ 1 < (c 0x71).shape.d0 ∧ 7 < (c 0x71).shape.nf ∧ 2 < (c 0x71).shape.d1 ∧ 0 < (c 0x71).shape.d2 := by
  decide

/-- Whether a range translates to one piece; whether it fails. -/
def onePiece (r : RangeX) : Bool := match r with | .ok [_] _ => true | _ => false
def rangeFails (r : RangeX) : Bool := match r with | .fail _ _ _ _ => true | _ => false
def engineFails (r : EngineRead) : Bool := match r with | .fail _ _ _ _ => true | _ => false
def engineFull (r : EngineRead) : Bool := match r with | .full _ => true | _ => false
/-- A state in which VF 1 has no way and the bypass buffer of an address's slice is full. -/
def tight (s : State) (pa : Nat) : State :=
  { s.modVf 1 fun v => { v with wayMask := 0 } with
    bypass := List.replicate 4 { slice := (linearPlace pa).1, gang := 0, core := 0, tag := .linear 0, data := [] } }

theorem witness_ChunkCopied :
    let y (src dst flag : Word) (n : Nat) := oneCopy src dst flag false n
    let s := copyState [y 0x20000 0x20100 0 0]
    let f := copyState [y unmapped 0x20100 0 0]
    let d := copyState [y 0x20000 unmapped 0 0]
    let e := copyState [y 0x20000 0x20100 0 1, y 0x20000 0x20100 0 0]
    let out (s : State) (room : Bool) := match engineRead (begun s) 0 1 0x20000 4 with
      | .ok _ s2 => (match xlatRange 0 1 .write 3 s2 0x20100 4 [] with
        | .ok [(_, X, _)] s3 => rangeRoom s3 1 X.pa 4 == room
        | _ => false)
      | _ => false
    (enginesRun s 0 = true ∧ (chanOf s 0 0 0).queue = [y 0x20000 0x20100 0 0] ∧ (y 0x20000 0x20100 0 0).wait = none ∧
      0 < (y 0x20000 0x20100 0 0).setup.shape.total ∧
      engineOk (copySlot (begun s) 0 1 (y 0x20000 0x20100 0 0).setup ⟨0, 0, 0, 0, 0⟩) = true ∧ out s true = true) ∧
    (engineFull (engineRead (begun (tight s 0x20000)) 0 1 0x20000 4) = true ∧ out (tight s 0x20100) false = true) ∧
    ((y 0x20000 0x20100 0 0).setup.flag = 0 ∧ (y 0x20000 0x20100 0x20200 0).setup.flag ≠ 0) ∧
    (enginesRun f 0 = true ∧ engineFails (engineRead (begun f) 0 1 unmapped 4) = true) ∧
    (match engineRead (begun d) 0 1 0x20000 4 with | .ok _ s2 => rangeFails (xlatRange 0 1 .write 3 s2 unmapped 4 []) | _ => false) = true ∧
    (enginesRun e 0 = true ∧ (chanOf e 0 0 0).queue.length = 2 ∧ (y 0x20000 0x20100 0 1).setup.shape.total ≤ 1) := by decide +kernel

theorem witness_FlagWritten :
    let s (flag : Word) (add : Bool) := copyState [oneCopy 0x20000 0x20100 flag add 1]
    let room (s : State) (k : Kind) (r : Bool) := xlatOk (translate (begun s) 0 1 0x20200 k false) fun X s1 => l2Room s1 1 X.pa == r
    ((oneCopy 0x20000 0x20100 0x20200 true 1).wait = none ∧ room (s 0x20200 true) .rmw true = true ∧ room (s 0x20200 false) .write true = true ∧
      room (tight (s 0x20200 true) 0x20200) .rmw false = true) ∧
    enginesRun (s 0x20200 true) 0 = true ∧ (oneCopy 0x20000 0x20100 0x20200 true 1).setup.shape.total ≤ 1 ∧
    (oneCopy 0x20000 0x20100 0x20200 true 1).setup.flag ≠ 0 ∧ bitOf (oneCopy 0x20000 0x20100 0x20200 true 1).setup.xf 29 = true ∧
    bitOf (oneCopy 0x20000 0x20100 0x20200 false 1).setup.xf 29 = false ∧
    xlatOk (translate (begun (s 0x20200 true)) 0 1 0x20200 .rmw false) (fun X s1 => decide (readable s1 X.pa)) = true ∧
    xlatOk (translate (begun (s 0x20200 false)) 0 1 0x20200 .write false) (fun _ _ => true) = true ∧
    xlatOk (translate (begun { s 0x40000 true with denied := hostPage.denied, pcores := hostPage.pcores }) 0 1 0x40000 .rmw false)
      (fun X s1 => !poisoned s1 X.pa && hostRefuses s1 X.pa) = true ∧
    xlatFails (translate (begun (s unmapped true)) 0 1 unmapped .rmw false) = true := by decide

/-- All channels empty; channel 0 holds a copy; an error; a drain of channels 0 and 3 that waits for copy 1, and for one that is gone. -/
theorem witness_CopiesDrained :
    let busy := copyState [oneCopy 0x20000 0x20100 0 false 0]
    let err := taper0.modCore 0 0 fun C => { C with chans := C.chans.set 3 { Chan.zero with error := some (4, 9) } }
    let w (ids : List Nat) := busy.setWait busy.cur (.cpdrain 5 [0, 3] ids)
    ((4 : Reg).toNat ≤ 4 ∧ namedChans 4 = [0, 1, 2, 3] ∧ (∀ n ∈ namedChans 4, (chanOf taper0 0 0 n).queue = [] ∧ (chanOf taper0 0 0 n).error = none)) ∧
    (∃ n ∈ namedChans 0, (chanOf busy 0 0 n).queue ≠ []) ∧ (∀ n ∈ namedChans 4, (chanOf err 0 0 n).queue = []) ∧
    (namedChans 4 = [0, 1, 2] ++ 3 :: [] ∧ (∀ k ∈ [(0 : Fin 4), 1, 2], (chanOf err 0 0 k).error = none) ∧ (chanOf err 0 0 3).error = some (4, 9)) ∧
    (((w [2]).thread (w [2]).cur).wait = some (.cpdrain 5 [0, 3] [2]) ∧ (∀ n ∈ [0, 3], n < 4) ∧
      (∀ n ∈ [0, 3], ∀ y ∈ (chanOf (w [2]) 0 0 (fin4 n)).queue, y.id.toNat ∉ [2])) ∧
    (∃ n ∈ [0, 3], ∃ y ∈ (chanOf (w [1]) 0 0 (fin4 n)).queue, y.id.toNat ∈ [1]) := by decide

/-- No such copy; one between two others. -/
theorem witness_CopyCancelled :
    let y (id : BitVec 16) := { oneCopy 0x20000 0x20100 0 false 0 with id := id }
    let s := withX (copyState [y 0, y 1, y 2]) 1 3 0
    (∀ z ∈ (chanOf s 0 0 0).queue, z.id ≠ (reg s 2).setWidth 16) ∧ (chanOf s 0 0 0).queue = [y 0] ++ y 1 :: [y 2] ∧
    (y 1).id = (reg s 1).setWidth 16 ∧ (∀ z ∈ [y 0] ++ [y 2], z.id ≠ (reg s 1).setWidth 16) ∧ (fin4 ((1 : BitVec 16).toNat / 2 ^ 14)) = 0 := by
  decide

/-- A queued store of a thread. -/
def someStore : PendAccess := { vector := false, bytes := [{ pa := 0x20000, mask := 0xFF, val := 1 }], watched := false, cmp := false, clears := [] }
/-- The taper with that store queued. -/
def storing : State := queueStore taper0 taper0.cur someStore

theorem witness_Fences :
    let w (s : State) := s.setWait s.cur (.fence 1 1 2)
    let l := queueStore taper0 taper0.cur { someStore with load := some (.x 1 4 false) }
    let held (s : State) (p : BitVec 2) : Bool := (s.thread s.cur).pend.any fun e => if e.load.isSome then bitOf p 1 else bitOf p 0
    (bitOf (1 : BitVec 2) 0 = true ∧ bitOf (2 : BitVec 2) 0 = false ∧ bitOf (2 : BitVec 2) 1 = true ∧ held taper0 3 = false) ∧
    (held storing 1 = true ∧ held storing 2 = false ∧ held l 2 = true ∧ held l 1 = false) ∧
    (((w taper0).thread taper0.cur).wait = some (.fence 1 1 2) ∧ held (w taper0) 1 = false) ∧
    (((w storing).thread storing.cur).wait = some (.fence 1 1 2) ∧ held (w storing) 1 = true) ∧
    taper0.cur.who = .taper ∧ wick0.cur.who ≠ .taper := by decide

/-- At .co: the taper alone; the taper, with wick 7 to come; a mask without the caller, of ten bits, and that differs from the open one. -/
theorem witness_BarrierArrival :
    let s := withX taper0 0x100 0x180 0x300
    let o := modBar s 0 false 0 3 fun b => { b with mask := 0x180, arrived := 0x80 }
    let bit := threadBit false 0 .taper
    (s.curCore.taper.arrival = none ∧ bit = 8 ∧ bitOf (0x100 : Word) 8 = true ∧ (0x180 : Word).toNat < 2 ^ 9 ∧ ¬((0x300 : Word).toNat < 2 ^ 9) ∧
      (getBar s 0 false 0 3).arrived = 0 ∧ bitOf (0x80 : Word) 8 = false) ∧
    ((getBar o 0 false 0 3).arrived ≠ 0 ∧ (getBar o 0 false 0 3).mask ≠ (0x100 : Word).setWidth 36 ∧ (getBar o 0 false 0 3).mask = (0x180 : Word).setWidth 36) ∧
    (∃ k, k < 36 ∧ bitOf (0x180 : Word) k = true ∧ ¬(k = bit ∨ bitOf (getBar s 0 false 0 3).arrived k = true ∨ absent s (bitThread 0 false 0 k) = true)) ∧
    (∀ k, k < 36 → bitOf (0x100 : Word) k = true → (k = bit ∨ bitOf (getBar s 0 false 0 3).arrived k = true ∨ absent s (bitThread 0 false 0 k) = true)) ∧
    (s.thread s.cur).wait = none ∧ absent s (bitThread 0 true 0 35) = true := by
  refine ⟨by decide, by decide, ⟨7, by decide⟩, by decide, by decide, by decide⟩

theorem witness_BarrierResumed :
    let s (act : Bool) := taperWith fun T => { T with act := act, arrival := some T.th.pc }
    let b := modBar (s false) 0 false 0 3 fun b => { b with mask := 0x180, arrived := 0x100 }
    let p := (s false).modCore 0 0 fun C => { C with stepMask := some 0 }
    ((s true).cur.who = .taper ∧ (s true).curCore.taper.act = true ∧ (s true).curCore.taper.arrival.isSome = true) ∧
    (b.curCore.taper.act = false ∧ b.curCore.taper.arrival = some b.curCore.taper.th.pc ∧ bitOf (getBar b 0 false 0 3).arrived 8 = true) ∧
    (bitOf (getBar (s false) 0 false 0 3).arrived 8 = false) ∧ (p.curCore.stepMask.isSome = true ∧ (s false).curCore.stepMask = none) := by decide

theorem witness_BarrierCompletion :
    let s := modBar taper0 0 false 0 3 fun b => { b with mask := 0x180, arrived := 0x180 }
    let o := modBar taper0 0 false 0 3 fun b => { b with mask := 0x180, arrived := 0x80 }
    ((tabGet? s.gangs 0).map (·.life)) = some .running ∧ (getBar s 0 false 0 3).arrived ≠ 0 ∧
    (∀ k, k < 36 → bitOf (getBar s 0 false 0 3).mask k = true → bitOf (getBar s 0 false 0 3).arrived k = true) ∧
    (8 < 36 ∧ bitOf (getBar o 0 false 0 3).mask 8 = true ∧ bitOf (getBar o 0 false 0 3).arrived 8 = false ∧ absent o (bitThread 0 false 0 8) = false) := by
  decide

theorem witness_StepArrival :
    let s := withX (copyState [oneCopy 0x20000 0x20100 0 false 0]) 0x1FF 0x200 1
    let held (s : State) := s.modCore 0 0 fun C => { C with stepWicks := 3 }
    let w (m : Option (BitVec 9)) := wick0.modCore 0 0 fun C => { C with stepMask := m }
    (s.cur.who = .taper ∧ s.curCore.taper.arrival = none ∧ (reg s 1).toNat < 2 ^ 9 ∧ 2 ^ 9 ≤ (reg s 2).toNat ∧ s.curCore.stepWicks = 0) ∧
    (bitOf (held s).curCore.stepWicks 1 = true ∧ bitOf (reg (held s) 3) 1 = false ∧ bitOf (reg (held s) 3) 0 = true ∧
      holdsJoined (held s) 0 0 1 = false) ∧
    ((w (some 1)).cur.who = .wick 0 ∧ (w (some 1)).curCore.stepMask = some 1 ∧ bitOf (1 : BitVec 9) 0 = true) ∧ (w none).curCore.stepMask = none ∧
    ((w (some 2)).curCore.stepMask = some 2 ∧ bitOf (2 : BitVec 9) 0 = false) ∧ (7 : Reg) ≠ 0 := by decide

/-- Gang 0 a member whose taper and wick 0 have arrived; one whose wick 0 has not; no member at all; a taper that waits in its STEP. -/
theorem witness_StepCompletion :
    let m (b : BitVec 8) :=
      ((taper0.modGang 0 fun G => { G with stepMember := true }).modCore 0 0 fun C => { C with stepMask := some 1, stepWicks := b }).setWait taper0.cur (.step 5)
    let member (s : State) (G : Gang) : Bool := G.stepMember && (s.vf G.vf).part == 0
    let there (s : State) : Bool := (List.finRange 8).all fun w => !bitOf ((s.core 0 0).stepMask.getD 0) w.val || bitOf (s.core 0 0).stepWicks w.val
    ((m 1).gangs.all (fun e => member (m 1) e.2 && e.2.life == .running && e.2.desc.ncm1 == 0) = true ∧ (m 1).gangs.length = 1 ∧
      ((m 1).core 0 0).taper.run = .running ∧ there (m 1) = true ∧ (∀ n : Fin 4, ((m 1).core 0 0).chans[n].queue = []) ∧ ((m 1).core 0 0).sends = [] ∧ ((m 1).core 0 0).job = none ∧
      ((m 1).thread ⟨0, 0, .taper⟩).wait = some (.step 5)) ∧
    there (m 0) = false ∧ taper0.gangs.any (fun e => member taper0 e.2) = false := by decide

/-- A word of zero that meets the conditions EQ 0 and GEU 0, and does not meet NE 0; a comparand half the range away, and one further; a word
that the host does not serve, at an issue and at a poll. -/
theorem witness_MemoryWait :
    let s := taper0.setX taper0.cur 1 0x20000
    let w (s : State) (cond pa : Nat) := s.setWait s.cur (.word 0x20000 pa 4 cond 0 5 1 0)
    let p := { w s 0 0x20000 with poison := [sectorOf 0x20000] }
    (waitForm (.waitmem 5 1 2 0 1 0) == some (5, 1, 2, 8, 0, 0) && waitForm (.waitgen 5 1 2 3) == some (5, 1, 2, 4, 6, 3)) = true ∧ (reg s 1).toNat % 8 = 0 ∧
    accOk (threadXlat s s.cur (reg s 1) .read) (fun X s1 => decide (readable (flushScalar s1 s.cur) X.pa) && memRead s1.mem X.pa 8 == 0) = true ∧
    (reg (s.setX s.cur 1 0x20004) 1).toNat % 8 ≠ 0 ∧
    ((w s 0 0x20000).thread s.cur).wait = some (.word 0x20000 0x20000 4 0 0 5 1 0) ∧
    readable (w s 0 0x20000) 0x20000 ∧ hostRefuses p 0x20000 = false ∧ memRead (w s 0 0x20000).mem 0x20000 4 = 0 ∧ poisoned p 0x20000 = true ∧
    xlatOk (translate hostPage 0 1 0x40000 .read false) (fun X s1 => hostRefuses s1 X.pa) = true := by decide
theorem witness_MemoryWait_conditions :
    waitMet 0 4 0 0 ∧ waitMet 3 4 0 0 ∧ ¬waitMet 1 4 0 0 ∧ ¬waitMet 2 4 0 0 ∧ waitMet 4 4 3 1 ∧ ¬waitMet 4 4 2 1 ∧ ¬waitMet 5 4 2 1 ∧ waitMet 5 4 3 1 ∧
    waitMet 6 4 0x7FFFFFFF 0 ∧ ¬waitMet 6 4 0x80000000 0 := by
  have h1 (k : Nat) : (1 : Nat).testBit k = true ↔ k = 0 := by
    cases k with
    | zero => decide
    | succ k => simp [Nat.testBit_succ]
  simp [waitMet, h1]

/-- The last slot, one past it, a slot of no block; a value that is ahead, and one that is not. -/
theorem witness_MarkPublished :
    let s := { withX taper0 4095 4096 0 with markBlocks := [(63, 1)] }
    ((reg s 1).toNat < 4096 ∧ tabGet? s.markBlocks (4095 / 64) = some (s.vfOf s.cur)) ∧ ¬((reg s 2).toNat < 4096) ∧
    tabGet? s.markBlocks ((reg s 3).toNat / 64) = none := by decide

/-- A wick with a window of another wick, and one of its own. -/
def windowWick : State :=
  (laneWick 1 32).modCurCore fun C =>
    { C with windows := (C.windows.set 7 { C.windows[(7 : Fin 8)] with valid := true, owner := 1 }).set 6 { C.windows[(6 : Fin 8)] with valid := true, landing := true, tag := 9, rows := 1, rb := 4, first := 3 } }

/-- A read window and a landing window; reserved bits, a tag without a landing window; a group off its row; a tag in use; a register of a window of the other kind. -/
theorem witness_WindowExported :
    let s := windowWick
    let W := s.curWick 0
    let R := (s.modWick 0 0 0 fun W => { W with vrows := 2 }).curWick 0
    s.cur.who = .wick 0 ∧ W.group? 31 = some [31] ∧ R.group? 31 = none ∧
    (s.curCore.windows[(5 : Fin 8)].valid = false ∧ s.curCore.windows[(6 : Fin 8)].owner = 0 ∧ s.curCore.windows[(7 : Fin 8)].owner ≠ 0) ∧
    (tagHeld s 5 9 = true ∧ tagHeld s 5 8 = false ∧ windowClash s.curCore 5 0 false false [3] = true ∧
      windowClash s.curCore 5 0 false false [4] = false ∧ windowClash s.curCore 5 0 true false [3] = false) := by decide

theorem witness_WindowExported_argument :
    exportLegal 5 ∧ exportLegal 0xFFFF0105 ∧ ¬exportLegal 8 ∧ ¬exportLegal 0x105 ∧ ¬exportLegal 0x10000 ∧ ¬exportLegal 0x100000005 := by
  have h (v : Word) : exportLegal v ↔ ((List.range 64).all (fun k => !v.getLsbD k || (k < 3 || k == 8 || (16 ≤ k && k < 32))) &&
      (v.getLsbD 8 == (v.extractLsb' 16 16 != 0))) = true := by
    simp only [exportLegal, List.all_eq_true, List.mem_range, Bool.and_eq_true, Bool.or_eq_true, Bool.not_eq_true', beq_iff_eq, decide_eq_true_eq]
    constructor
    · rintro ⟨h1, h2⟩
      refine ⟨fun k hk => ?_, by rw [Bool.eq_iff_iff]; simpa using h2⟩
      cases hb : v.getLsbD k
      · exact .inl rfl
      · right
        rcases h1 k hk hb with h | h | h
        · exact .inl (.inl h)
        · exact .inl (.inr h)
        · exact .inr h
    · rintro ⟨h1, h2⟩
      refine ⟨fun k hk hb => ?_, by rw [h2]; simp⟩
      rcases h1 k hk with h | (h | h) | h
      · rw [hb] at h; cases h
      · exact .inl h
      · exact .inr (.inl h)
      · exact .inr (.inr h)
  simp only [h]; decide

theorem witness_PeerTaper : taper0.cur.who = .taper := by decide

/-- A SEND of three words to memory, to a landing window; no elements; a full queue; misaligned. -/
def someSend (landing : Bool) (dest : Word) (flag : Word) : Send :=
  { who := .wick 0, hold := false, data := List.replicate 256 7, landing := landing, dest := dest, psflag := flag, pscfg := 7 * 2 ^ 32, count := 3
    limit := 2, sent := 128, refusals := 1, refusedAt := none, wait := none, movedAt := 0 }
def sendState (ys : List Send) : State := wick0.modCore 0 0 fun C => { C with sends := ys }

theorem witness_SendQueued :
    let s := withX (laneWick 1 32) 0x20000 0x20020 0x90040
    let W := s.curWick 0
    let L := s.modWick 0 0 0 fun W => { W with th := { W.th with pscfg := 2 ^ 16, psflag := 2 } }
    let E := (s.modWick 0 0 0 fun W => { W with vl := 0 }).curWick 0
    let F := s.modCore 0 0 fun C => { C with sends := List.replicate 32 (someSend false 0x20000 0) }
    (s.cur.who = .wick 0 ∧ W.positions * W.esize % 8 = 0 ∧ W.th.pscfg.getLsbD 16 = false ∧ W.group? 31 = some [31] ∧ (reg s 1).toNat % 64 = 0 ∧
      W.th.psflag.toNat % 4 = 0 ∧ s.curCore.sends.length < 32 ∧ W.positions * W.esize ≠ 0 ∧ E.positions * E.esize = 0) ∧
    F.curCore.sends.length = 32 ∧ (reg s 2).toNat % 64 ≠ 0 ∧
    (L.curWick 0).th.pscfg.getLsbD 16 = true ∧ ((reg s 3).extractLsb' 32 13 = 0 ∧ (reg s 3).extractLsb' 16 16 ≠ 0 ∧ (reg s 3).toNat % 2 ^ 16 % 64 = 0) ∧
    (L.curWick 0).th.psflag.toNat % 4 ≠ 0 ∧ (reg s 1).toNat % 2 ^ 16 % 64 = 0 ∧ (reg s 4).extractLsb' 16 16 = 0 := by decide

/-- A device of those domains, and a port to device 1 that is lost; one whose replay window is full. -/
def near (ds : List Nat) (s : State) : State := { s with parts := [(0, { tabGet (Part.new [] [] []) s.parts 0 with domain := ds, peers := [0] })] }
def portState (f : Port → Port) (s : State) : State := { s with ports := s.ports.map f }
def someLink : LinkFlit := { dest := 1, reply := false, vc := false, seq := 0, ack := 0, crcOk := true, tagOk := true, payload := [] }

theorem witness_SendDelivered :
    let y := someSend false 0x20000 0
    let b := someSend false unmapped 0
    let w (d : Word) (n : Nat) := { someSend true (d * 2 ^ 50 + 9 * 2 ^ 16) 0 with hold := false, sent := n }
    let r := { y with refusedAt := some 0 }
    let m := sendState [y]
    let far := near [0, 1] (sendState [w 1 128])
    let off := near [0] (sendState [w 1 128])
    let own (n : Nat) := near [0, 1] (sendState [w 0 n])
    let lost := portState (fun p => { p with up := false }) far
    let land (s : State) := s.modCore 0 0 fun C => { C with windows := C.windows.set 6 { C.windows[(6 : Fin 8)] with valid := true, landing := true, tag := 9, rows := 1, rb := 256 } }
    let here (n : Nat) : LandingFlit := { senderKey := ((own n).vf 1).policy.key, sameDomain := true, part := 0, tag := 9, offset := n
                                          total := 256 - n, bytes := (List.replicate 256 7).drop n |>.take 128 }
    let room (s : State) (v : Bool) := xlatOk (translate s 0 1 (y.dest + BitVec.ofNat 64 y.sent) .peer false) (fun X s1 =>
      !sendBehind s 0 0 0 [paCoord X.pa] && rangeRoom s1 1 X.pa 128 == v)
    (enginesRun m 0 = true ∧ (m.core 0 0).sends[0]? = some y ∧ y.wait = none ∧ y.refusedAt = none ∧ y.sent < y.data.length) ∧
    (room m true = true ∧ room (tight m 0x20080) false = true) ∧
    xlatFails (translate (sendState [b]) 0 1 (b.dest + BitVec.ofNat 64 b.sent) .peer false) = true ∧
    ((w 1 128).dest.toNat / 2 ^ 50 = 1 ∧ sendBehind far 0 0 0 [1] = false ∧ inDomain far (far.vf 1).part 1 = true ∧ 1 ≠ far.coord.toNat ∧
      reachable far 1 = true ∧ (portTo far.coord.toNat 1).isSome = true) ∧
    (inDomain lost (lost.vf 1).part 1 = true ∧ sendBehind lost 0 0 0 [1] = false ∧ reachable lost 1 = false) ∧
    (inDomain off (off.vf 1).part 1 = false ∧ sendBehind off 0 0 0 [1] = false) ∧
    ((w 0 128).dest.toNat / 2 ^ 50 = (own 128).coord.toNat ∧ sendBehind (own 128) 0 0 0 [0] = false ∧
      landingAnswer (own 128) (here 128) ≠ .accepted ∧ landingAnswer (land (own 0)) (here 0) = .accepted ∧
      landingAnswer (land (own 128)) (here 128) = .accepted) ∧
    (y.limit ≠ 0 ∧ y.limit ≤ y.refusals + 1 ∧ ({ y with limit := 3 }).refusals + 1 < 3) ∧
    (enginesRun (sendState [r]) 0 = true ∧ (sendState [r]).ac - 0 < r.count + 1 ∧ r.count + 1 ≤ ({ sendState [r] with ac := 4 }).ac - 0) := by decide +kernel

theorem linkRoom_port (s : State) (p : Fin 6) (h : portTo s.coord.toNat 1 = some p) :
    linkRoom s 1 = decide ((s.ports[p]).replay.length < windowRoom) := by unfold linkRoom; rw [h]
/-- A replay window with room, and a full one. -/
theorem witness_SendDelivered_window :
    linkRoom (near [0, 1] (sendState [])) 1 = true ∧
    linkRoom (portState (fun p => { p with replay := List.replicate windowRoom someLink }) (near [0, 1] (sendState []))) 1 = false := by
  obtain ⟨p, hp⟩ : ∃ p, portTo (near [0, 1] (sendState [])).coord.toNat 1 = some p := ⟨_, rfl⟩
  refine ⟨?_, ?_⟩
  · rw [linkRoom_port _ p hp, decide_eq_true_iff]
    have : ((near [0, 1] (sendState [])).ports[p]).replay = [] := by revert p; decide
    rw [this]; exact Nat.succ_pos _
  · have := linkRoom_port (portState (fun p => { p with replay := List.replicate windowRoom someLink }) (near [0, 1] (sendState []))) p hp
    rw [this, decide_eq_false_iff_not]
    simp [portState]

theorem witness_SendFlagged :
    let y (flag : Word) (add : Bool) := { someSend false 0x20000 flag with sent := 256, pscfg := if add then 7 * 2 ^ 32 + 2 ^ 29 else 7 * 2 ^ 32 }
    let s (flag : Word) (add : Bool) := sendState [y flag add]
    (enginesRun (s 0x20100 true) 0 = true ∧ ((s 0x20100 true).core 0 0).sends[0]? = some (y 0x20100 true) ∧ (y 0x20100 true).wait = none ∧
      (y 0x20100 true).data.length ≤ (y 0x20100 true).sent ∧ (y 0x20100 true).psflag ≠ 0) ∧
    xlatOk (translate (s 0x20100 true) 0 1 0x20100 .rmw false) (fun X s1 => decide (readable s1 X.pa) &&
      !sendBehind (s 0x20100 true) 0 0 0 (paCoord X.pa :: (sendDevs (s 0x20100 true) 1 { y 0x20100 true with psflag := 0 } 0).getD [])) = true ∧
    xlatOk (translate (s 0x20100 false) 0 1 0x20100 .write false) (fun _ _ => true) = true ∧
    xlatFails (translate (s unmapped true) 0 1 unmapped .rmw false) = true := by decide +kernel

/-- A flit that fits to the last byte, one byte past, a sender that is not accepted, no such window, a full buffer. -/
def someFlit (key tag offset : Nat) : LandingFlit :=
  { senderKey := key, sameDomain := true, part := 0, tag := BitVec.ofNat 16 tag, offset := offset, total := 2, bytes := [1, 2] }
def landingState : State := { windowWick with parts := [(0, { tabGet (Part.new [] [] []) windowWick.parts 0 with peers := [5] })] }

theorem witness_LandingTaken :
    let s := landingState
    let v := s.curCore.windows[(6 : Fin 8)]
    let q := { s with landing := [someFlit 5 9 2] }
    ((tabGet? s.parts 0).map (·.peers)) = some [5] ∧ landingWindow s 0 9 = some (0, 0, 6, v) ∧ 2 + 2 ≤ v.rows.toNat * v.rb.toNat ∧ s.landing.length < 256 ∧
    ¬(4 ∈ [5]) ∧ landingWindow s 0 8 = none ∧ v.rows.toNat * v.rb.toNat < 3 + 2 ∧
    256 ≤ ({ s with landing := List.replicate 256 (someFlit 5 9 2) }).landing.length ∧
    (q.landing = [someFlit 5 9 2] ∧ landingWindow q 0 9 = some (0, 0, 6, v) ∧ 2 + 2 ≤ v.rows.toNat * v.rb.toNat ∧ v.rb.toNat * 8 ≤ 65536 ∧
      v.split = false ∧ (q.wick 0 0 v.owner).split = v.split ∧ v.rb ≠ 0) := by decide +kernel

theorem witness_PortRules :
    let s := State.reset
    let p := s.ports[(0 : Fin 6)]
    let n := { p with tagFails := 15 }
    let d := { p with up := false }
    p.up = true ∧ p.rxSeq = 0 ∧ p.spareTx = false ∧ p.spareRx = false ∧ p.tagFails < 15 ∧ 15 ≤ n.tagFails ∧ d.up = false ∧
    ({ p with spareTx := true }).spareTx = true ∧ ({ p with spareRx := true }).spareRx = true ∧ p.buffer = [] := by
  decide
/-- A full receive buffer of a class and channel, and one with room. -/
theorem witness_PortRules_buffer :
    bufferRoom ≤ ((List.replicate bufferRoom someLink).filter fun x => x.reply == someLink.reply && x.vc == someLink.vc).length ∧ 0 < bufferRoom := by
  refine ⟨by simp [someLink], Nat.succ_pos _⟩

end Sys2Proof.Tests
end

