-- ==== Sys2Proof/Tests/WitnessPaging.lean ====
section
/-! SUPPORT. States and operands that meet the hypotheses of the claims about translation, page requests, invalidation, the dirty log, the
caches, launch rings, completion records, device faults and storage errors, clause by clause. -/

namespace Sys2Proof.Tests

open Sys2Proof.Machine Sys2Proof.Claims

/-- The leaf of gang 0's stage 2, of 1 GiB, replaced by an entry. -/
def leafState (e : Nat) : State := { taper0 with mem := memWrite taper0.mem placeTable 8 e }
/-- Stage 1 with a page of 1 GiB that grants reads only. -/
def stagedState : State :=
  let s := taper0.modVf 1 fun v => { v with s1root := 0x40001 }
  { s with mem := memWrite (memWrite s.mem 0x40000 8 0x41001) 0x41000 8 0x13 }
/-- What a test says of a stage-1 result, of a stage-2 walk and of its leaf. -/
def stageOk (r : Except Stop Leaf1 × List WalkRead) (p : Leaf1 → Bool) : Bool := match r.1 with | .ok l => p l | .error _ => false
def stageFails (r : Except Stop Leaf1 × List WalkRead) : Bool := match r.1 with | .error (.fail _ _) => true | _ => false
def stageMisses (r : Except Stop Leaf1 × List WalkRead) : Bool := match r.1 with | .error (.miss _) => true | _ => false
def leafOk (w : Walk2 × List WalkRead) (p : Leaf2 → Bool) : Bool := match w.1 with | .ok l => p l | _ => false

/-- An entry beyond HBM, poisoned, in host memory and refused, one that a walker keeps, absent, a table at level 0, a leaf at levels 1 and 3, a leaf at level 0, a table at level 3. -/
theorem witness_TableStep :
    let s := taper0
    let p := { s with poison := [sectorOf placeTable] }
    physOk s 0 (2 ^ 46 - 8) = false ∧ (physOk p 0 placeTable = true ∧ hostRefuses p placeTable = false ∧ poisoned p placeTable = true) ∧ readable s placeTable ∧
    (keptEntry { s with walkers := s.walkers.set 0 [{ vf := 1, pa := placeTable, entry := 0x173 }] } 0 1 placeTable = some 0x173 ∧
      keptEntry s 0 1 placeTable = none) ∧
    (physOk s 0 (2 ^ 45) = true ∧ hostRefuses { s with denied := [2 ^ 45 / 64] } (2 ^ 45) = true) ∧
    memRead s.mem placeTable 8 = 0x173 ∧ memRead s.mem placeRoot 8 = 0x2001 := by decide
theorem witness_TableStep_entries :
    ¬entryFormed false 1 0 ∧ (entryFormed false 0 0x2001 ∧ (0x2001 : Nat).testBit 1 = false) ∧ (entryFormed false 1 0x173 ∧ (0x173 : Nat).testBit 1 = true) ∧
    entryFormed false 3 0x1373 ∧ ¬entryFormed false 0 0x173 ∧ ¬entryFormed false 3 1 ∧ ¬entryFormed false 2 0x1173 := by
  refine ⟨?_, ⟨?_, by decide⟩, ⟨?_, by decide⟩, ?_, ?_, ?_, ?_⟩ <;> simp [entryFormed, Nat.testBit, Nat.shiftRight_eq_div_pow]

/-- At level 0 of stage 1, whose table is at 0x40000: its stage-2 walk misses, fails, is refused, poisoned and found; the leaf denies reads, names
no memory; the entry is poisoned; a table and, at level 1, a leaf. -/
theorem witness_Stage1Step :
    let w (s : State) (a : Nat) := (walk2 s 0 1 a).1
    let p := { stagedState with poison := [sectorOf 0x40000] }
    let r := { stagedState.modVf 1 (fun v => { v with s2root := 2 ^ 45 }) with denied := [2 ^ 45 / 64] }
    w (leafState 0) 0x40000 = .miss 1 ∧ w (taper0.modVf 1 fun v => { v with s2root := 2 ^ 46 - 0x1000 }) 0x40000 = .protection 0 ∧ w r 0x40000 = .refused ∧
    w { taper0 with poison := [sectorOf placeTable] } 0x40000 = .poison 1 ∧
    leafOk (walk2 (leafState 0x163) 0 1 0x40000) (fun l => !l.r) = true ∧
    leafOk (walk2 (leafState (2 ^ 46 - 2 ^ 30 + 0x173)) 0 1 0x40000) (fun l => l.r && !physOk taper0 0 l.pa) = true ∧
    leafOk (walk2 stagedState 0 1 0x40000) (fun l => l.r && physOk stagedState 0 l.pa && !hostRefuses stagedState l.pa && !poisoned stagedState l.pa &&
      keptEntry stagedState 0 1 l.pa == none && memRead stagedState.mem l.pa 8 == 0x41001) = true ∧
    leafOk (walk2 p 0 1 0x40000) (fun l => poisoned p l.pa) = true ∧
    leafOk (walk2 stagedState 0 1 0x41000) (fun l => memRead stagedState.mem l.pa 8 == 0x13) = true := by decide
theorem witness_Stage1Step_entries :
    (entryFormed true 0 0x41001 ∧ (0x41001 : Nat).testBit 1 = false) ∧ (entryFormed true 1 0x13 ∧ (0x13 : Nat).testBit 1 = true) ∧ ¬entryFormed true 1 0 := by
  refine ⟨⟨?_, by decide⟩, ⟨?_, by decide⟩, ?_⟩ <;> simp [entryFormed, Nat.testBit, Nat.shiftRight_eq_div_pow]

/-- Nothing cached; a mapping cached in the core, and in the die alone; bit 47 alone set; a stage-1 walk that fails and one that misses; a stage-1
page that denies a write; stage-2 entries that are absent, beyond HBM, poisoned, read-only, that name no memory, and whose D bit is clear with
and without room in the log. -/
theorem witness_TranslationOrder :
    let s := taper0
    let va : Word := 0x20000
    let p := { s with poison := [sectorOf placeTable] }
    let full := (leafState 0x073).modVf 1 fun v => { v with dlogLg := some 0, dlogHead := 1 }
    let c := spillWick 0x20000
    let d := { s with dieTlb := s.dieTlb.set 0 [wideEntry] }
    let own (s : State) := (s.pcoreOf 0).tlb.find? fun e => e.grants 1 va (needOf .write false) true
    let shared (s : State) := s.dieTlb[fin4 (0 / 24)].find? fun e => e.grants 1 va (needOf .write false) true
    (own s = none ∧ shared s = none) ∧ (own c).isSome = true ∧ (own d = none ∧ shared d = some wideEntry) ∧
    (47 < 64 ∧ (0x800000000000 : Word).getLsbD 48 ≠ (0x800000000000 : Word).getLsbD 47) ∧ (∀ b, b < 64 → 47 ≤ b → va.getLsbD b = va.getLsbD 47) ∧
    stageFails (stage1 { stagedState with mem := memWrite stagedState.mem 0x41000 8 0 } 0 1 va) = true ∧
    stageMisses (stage1 ((leafState 0).modVf 1 fun v => { v with s1root := 0x40001 }) 0 1 va) = true ∧
    stageOk (stage1 stagedState 0 1 va) (fun l => !(needOf .write false).within l.r l.w l.x && (needOf .read false).within l.r l.w l.x) = true ∧
    stageOk (stage1 s 0 1 va) (fun l => l.ipa == 0x20000) = true ∧ (walk2 (leafState 0) 0 1 0x20000).1 = .miss 1 ∧
    (walk2 (s.modVf 1 fun v => { v with s2root := 2 ^ 46 - 0x1000 }) 0 1 0).1 = .protection 0 ∧
    (walk2 { s.modVf 1 (fun v => { v with s2root := 2 ^ 45 }) with denied := [2 ^ 45 / 64] } 0 1 0).1 = .refused ∧
    (walk2 p 0 1 0x20000).1 = .poison 1 ∧
    leafOk (walk2 (leafState 0x113) 0 1 0x20000) (fun l => !(needOf .write false).within l.r l.w l.x) = true ∧
    leafOk (walk2 (leafState (2 ^ 46 - 2 ^ 30 + 0x173)) 0 1 0x20000) (fun l => !physOk s 0 l.pa) = true ∧
    leafOk (walk2 s 0 1 0x20000) (fun l => physOk s 0 l.pa && l.d) = true ∧
    leafOk (walk2 (leafState 0x073) 0 1 0x20000) (fun l => physOk s 0 l.pa && !l.d) = true ∧ dlogRoom ((leafState 0x073).vf 1) = true ∧
    (full.vf 1).dlogLg = some 0 ∧ dlogRoom (full.vf 1) = false := by decide

theorem witness_PlainTranslation :
    (taper0.pcoreOf 0).tlb = [] ∧ taper0.dieTlb[fin4 0] = [] ∧ bitOf (taper0.vf 1).s1root 0 = false ∧
    leafOk (walk2 taper0 0 1 0x20000) (fun l => (needOf .write false).within l.r l.w l.x && physOk taper0 (taper0.vf 1).part l.pa && l.d) = true := by
  decide

/-- A VF with these page requests. -/
def requesting (rs : List PageReq) : State := taper0.modVf 1 fun v => { v with reqs := rs }
def aRequest (i region : Nat) : PageReq := { id := i, region := region, mask := 1, kinds := 1, since := 0 }

/-- Identifier 1 free between 0 and 2; all 64 in use; a request of the region. -/
theorem witness_PageRequested :
    let q := aRequest 0 0x10000
    let some2 := requesting [q, aRequest 2 0x30000]
    let all := requesting ((List.range 64).map fun i => aRequest i 0x10000)
    (∀ r ∈ (some2.vf 1).reqs, r.region ≠ 0x20000) ∧ (∀ r ∈ (some2.vf 1).reqs, r.id ≠ 1) ∧ (∀ r ∈ (all.vf 1).reqs, r.region ≠ 0x20000) ∧
    (∀ i, i < 64 → ∃ r ∈ (all.vf 1).reqs, r.id = i) ∧
    (q ∈ (some2.vf 1).reqs ∧ ∀ r ∈ (some2.vf 1).reqs, r.region = 0x10000 ∨ r.id = q.id → r = q) := by decide

/-- A wick, a taper, a copy and a SEND that wait for request 5; a taper in its handler; a wick that the queue refused at 0, at 256 ac and one
before; code 2. -/
theorem witness_PageAnswered :
    let m : Miss := { region := 0x20000, granule := 0, kind := .read, place := { ipa := 0, place := 0 } }
    let w (i : Option Nat) : PageWait := { id := i, va := 0x20000, kind := .read, miss := m }
    let on (s : State) (i : Option Nat) : State := (({ requesting [aRequest 5 0x20000] with gangs := s.gangs, cur := s.cur }).setWait s.cur (.page (w i)))
    let s (i : Option Nat) := on wick0 i
    let T (a : Bool) (v : BitVec 62) := on (taperWith fun T => { T with act := a, tvec := v }) (some 5)
    let y := { oneCopy 0x20000 0x20100 0 false 0 with wait := some (w (some 5)) }
    let z := { someSend false 0x20000 0 with wait := some (w (some 5)) }
    let e := { (copyState [y]).modCore 0 0 (fun C => { C with sends := [z] }) with vfs := (requesting [aRequest 5 0x20000]).vfs }
    (vfExists (s (some 5)) 1 = true ∧ (∃ r ∈ ((s (some 5)).vf 1).reqs, r.id = 5) ∧ wick0.cur ∈ vfThreads (s (some 5)) 1 ∧
      ((s (some 5)).thread wick0.cur).wait = some (.page (w (some 5))) ∧ wick0.cur.who = .wick 0 ∧ ((s (some 5)).wick 0 0 0).vmem = none ∧
      ((s (some 5)).wick 0 0 0).fetch = none ∧ ((s (some 5)).core 0 0).taper.th.wait = none) ∧
    (∀ v ∈ vfThreads (s (some 5)) 1, ((s (some 5)).thread v).wait ≠ some .vmem) ∧ ¬(∃ r ∈ ((s (some 5)).vf 1).reqs, r.id = 6) ∧ ¬(2 ≤ 1) ∧
    (((T false 4).thread taper0.cur).wait = some (.page (w (some 5))) ∧ ((T false 4).core 0 0).taper.act = false ∧ ((T false 4).core 0 0).taper.tvec ≠ 0 ∧
      ((T true 4).core 0 0).taper.act = true ∧ ((T false 0).core 0 0).taper.tvec = 0) ∧
    ((0, 0) ∈ vfCores e 1 ∧ (chanOf e 0 0 0).queue = [y] ∧ (e.core 0 0).sends = [z] ∧ (e.thread ⟨0, 0, .wick 0⟩).psCode = 0) ∧
    (((s none).thread wick0.cur).wait = some (.page (w none)) ∧ (w none).room = false ∧ (w none).refusedAt + 256 ≤ ({ s none with ac := 256 }).ac ∧
      ({ s none with ac := 255 }).ac < (w none).refusedAt + 256) ∧ vfExists (s none) 2 = false := by decide +kernel

/-- A fault queue of one entry at 0x20000, free and full. -/
theorem witness_FaultRecorded :
    let r : FaultRec := { va := 1, ipa := 2, gtag := 3, core := 4, who := 5, cause := 6, kind := 7, place := 8 }
    let s (en : Bool) (h : BitVec 32) := taper0.modVf 1 fun v => { v with faults := [r], fqbase := 0x20000, fqEn := en, fqLg := 5, fqhead := h }
    vfExists (s true 31) 1 = true ∧ ((s true 31).vf 1).faultWait = none ∧ ((s true 31).vf 1).faults = [r] ∧
    (((s true 31).vf 1).fqhead - ((s true 31).vf 1).fqtail).toNat < 2 ^ 5 ∧
    xlatOk (walkXlat (s true 31) 1 (0x20000 + BitVec.ofNat 64 (32 * 31)) .write) (fun X s1 => rangeRoom s1 1 X.pa 32) = true ∧
    xlatOk (walkXlat (tight (s true 31) 0x20300) 1 (0x20000 + BitVec.ofNat 64 (32 * 31)) .write) (fun X s1 => !rangeRoom s1 1 X.pa 32) = true ∧
    ¬((((s true 32).vf 1).fqhead - ((s true 32).vf 1).fqtail).toNat < 2 ^ 5) ∧ ((s false 0).vf 1).fqEn = false := by decide

theorem witness_DirtyLogged :
    let s (h : Nat) := (taper0.modVf 1 fun v => { v with dlogWait := [0x20000], dlogLg := some 3, dlogHead := h }).setWait taper0.cur .dirtyLog
    vfExists (s 7) 1 = true ∧ ((s 7).vf 1).dlogWait = [0x20000] ∧ ((s 7).vf 1).dlogHead - ((s 7).vf 1).dlogTail < 2 ^ 3 ∧
    2 ^ 3 ≤ ((s 8).vf 1).dlogHead - ((s 8).vf 1).dlogTail ∧ taper0.cur ∈ vfThreads (s 7) 1 ∧ ((s 7).thread taper0.cur).wait = some .dirtyLog := by
  decide

/-- One page, on whose last byte a cached mapping begins, and one that it does not meet; every translated access performed, and a queued store. -/
theorem witness_Invalidated :
    let i : Inval := { lo := 0x20, pages := 1, all := false, seq := none, zero := [] }
    let s := (spillWick 0x20000).modVf 1 fun v => { v with inval1 := [i], inval2 := [{ i with seq := some 4 }] }
    let busy := queueStore s s.cur { someStore with vector := true }
    vfExists s 1 = true ∧ 1 ≤ i.pages ∧ (s.vf 1).inval1 = [i] ∧ ((s.vf 1).inval2.map (·.seq)) = [some 4] ∧ accessesDone s 1 false i = true ∧
    accessesDone s 1 true i = true ∧ accessesDone busy 1 false i = false ∧ accessesDone busy 1 true i = false := by decide

/-- A sector that the L2 holds whole and one that it does not; a line that has been held for 4,096 ac; the period's end and the time before it. -/
theorem witness_MemoryEvents :
    let l := nextOf (exec (.ld 5 1 0) (withX taper0 0x20000 0 0))
    let v := taper0.modVf 1 fun v => { v with wayGone := 1, waySeq := some 9 }
    (localHbm l 0x20000 = true ∧ sectorWhole l 0x20000 = true ∧ localHbm taper0 0x20000 = true ∧ sectorWhole taper0 0x20000 = false ∧
      localHbm taper0 (2 ^ 45) = false) ∧
    (tabGet? taper0.pcores 0).isSome = true ∧
    (({ taper0 with time := actPeriod - 1 }).time < taper0.actAt + actPeriod ∧ taper0.actAt + actPeriod ≤ ({ taper0 with time := actPeriod }).time) ∧
    ({ taper0 with held := [(5, 0)] }).held = [(5, 0)] ∧ taper0.held = [] ∧
    (vfExists v 1 = true ∧ (v.vf 1).wayGone ≠ 0 ∧ (v.vf 1).waySeq = some 9) := by decide

/-- Lines 0 and 1 lie in different logical banks, lines 0 and 381 in one channel; the map keeps banks apart. -/
theorem witness_LinePlace :
    logicalChannel 0 ≠ logicalChannel 1 ∧ logicalChannel 0 = logicalChannel 381 ∧ channelLine 0 ≠ channelLine 381 ∧
    channelOf taper0 0 ≠ channelOf taper0 1 ∧ channelOf taper0 0 = channelOf taper0 381 := by decide +kernel

/-- The next line is in the mapped page; it is outside memory; a taper that has halted; a block-driven wick. -/
theorem witness_RunAhead :
    let far := taperWith fun T => { T with th := { T.th with pc := unmapped } }
    runnable taper0 taper0.cur = true ∧ taper0.blockDriven taper0.cur = false ∧ xlatOk (translate taper0 0 1 0x10040 .prefetch true) (fun _ _ => true) = true ∧
    runnable far far.cur = true ∧ xlatFails (translate far 0 1 (unmapped + 64) .prefetch true) = true ∧
    runnable (taperWith fun T => { T with run := .halted }) taper0.cur = false ∧ block0.blockDriven block0.cur = true := by decide

/-! Launch rings, completion records. -/

/-- VF 1 with its ring 2 changed. -/
def ringState (f : Ring → Ring) : State := taper0.modVf 1 fun v => { v with rings := v.rings.set 2 (f v.rings[(2 : Fin 4)]) }

theorem witness_RingRegisters :
    vfExists taper0 1 = true ∧ vfExists taper0 2 = false ∧ (ringOf taper0 1 2).en = false ∧ (ringOf (ringState fun r => { r with en := true }) 1 2).en = true := by
  decide

theorem witness_VfRegisterWritten :
    vfExists taper0 1 = true ∧ (ringOf taper0 1 2).en = false ∧ (ringOf (ringState fun r => { r with en := true }) 1 2).en = true ∧
    (0x0F8 < 0x100 ∧ 0x0F8 ∉ [0x200, 0x208, 0x214, 0x300, 0x308]) ∧ (0x180 ≤ 0x210 ∧ 0x210 ∉ [0x200, 0x208, 0x214, 0x300, 0x308]) := by decide

/-- A ring whose descriptor at rp is pending, its memory poisoned or not; one that is not enabled. -/
theorem witness_DescriptorTaken :
    let s := ringState fun r => { r with en := true, avail := 1 }
    let a := 2 ^ 45
    vfExists s 1 = true ∧ (s.vf 1).state = 0 ∧ (s.vf 1).part < 24 ∧ (ringOf s 1 2).en = true ∧ (ringOf s 1 2).stopped = false ∧
    (ringOf s 1 2).head.isNone = true ∧ (ringOf s 1 2).rp ≠ (ringOf s 1 2).avail ∧ poisoned s a = false ∧
    poisoned { s with poison := [sectorOf a] } a = true ∧ (ringOf taper0 1 2).en = false ∧
    s.coord.toNat * 2 ^ 46 + 2 ^ 45 + ((ringOf s 1 2).base.toNat + 64 * ((ringOf s 1 2).rp.toNat % 2 ^ (ringOf s 1 2).lgsize.toNat)) % 2 ^ 44 = a := by decide

theorem witness_CompletionWritten :
    let c (a : Word) : Compl := { crec := a, gtag := 3, bytes := leBytes 32 1, wait := none }
    let s (a : Word) := ringState fun r => { r with compl := [c a] }
    vfExists (s 0) 1 = true ∧ (ringOf (s 0) 1 2).compl = [c 0] ∧ (c 0).wait = none ∧ (c 0x20000).crec ≠ 0 ∧
    xlatOk (walkXlat (s 0x20000) 1 0x20000 .write) (fun X s1 => rangeRoom s1 1 X.pa 32) = true ∧
    xlatOk (walkXlat (tight (s 0x20000) 0x20000) 1 0x20000 .write) (fun X s1 => !rangeRoom s1 1 X.pa 32) = true ∧
    xlatFails (walkXlat (s unmapped) 1 unmapped .write) = true := by decide

/-! Device faults. -/

/-- Just in time and one ac before. -/
theorem witness_WatchdogTrips :
    let s (n : Nat) : State := { taper0 with ac := n }
    ((s 0).gang 0).life = .running ∧ (tabGet? (s 0).gangs 0).isSome = true ∧ 2 ^ 24 ≤ (s (2 ^ 24)).ac - ((s (2 ^ 24)).gang 0).progressAt ∧
    (s (2 ^ 24 - 1)).ac - ((s (2 ^ 24 - 1)).gang 0).progressAt < 2 ^ 24 := by decide

/-- A channel, a SEND, a gang that is stopping and a page request just in time; the same partition after a trip. -/
theorem witness_UnitWatchdog :
    let at_ (s : State) : State := { s with ac := 2 ^ 24 }
    let holds (s : State) : Bool := heldTooLong (at_ s) == some 0
    let after (s : State) : State := { at_ s with parts := s.parts.map fun e => (e.1, { e.2 with trippedAt := 1 }) }
    let c := copyState [oneCopy 0x20000 0x20100 0 false 0]
    holds c = true ∧ holds (sendState [someSend false 0x20000 0]) = true ∧ holds (taper0.modGang 0 fun G => { G with life := .stopping }) = true ∧
    holds (requesting [aRequest 0 0x10000]) = true ∧ heldTooLong (after c) = none ∧ heldTooLong c = none ∧ heldTooLong (at_ taper0) = none := by decide

/-- A sector that the L2 holds, and holds whole; one that it does not hold; host memory; the core of the quad that partition 0 owns. -/
theorem witness_StorageErrors :
    let l := nextOf (exec (.ld 5 1 0) (withX taper0 0x20000 0 0))
    Storage.l2Tags ∈ [Storage.l2Tags, .tensorTable] ∧ (localHbm taper0 0x20000 = true ∧ sectorWhole taper0 0x20000 = false ∧ sectorHeld taper0 0x20000 = false) ∧
    (localHbm l 0x20000 = true ∧ sectorWhole l 0x20000 = true ∧ sectorHeld l 0x20000 = true) ∧ localHbm l (2 ^ 45) = false ∧
    (tabGet? taper0.pcores 0).isSome = true ∧ tabGet 31 ({ taper0 with quadMap := [(0, 0)] }).quadMap 0 = 0 := by decide

/-- A request of partition 0 that is unanswered just as long as that, and one ac less. -/
theorem witness_ModuleFaults :
    let s (n : Nat) : State := { taper0 with ac := n, linkReqs := [{ part := 0, dev := 1, since := 0 }] }
    (383 < 384 ∧ 384 ≤ 384) ∧ (∃ q ∈ (s (2 ^ 20)).linkReqs, q.part = 0 ∧ 2 ^ 20 ≤ (s (2 ^ 20)).ac - q.since) ∧
    ¬(∃ q ∈ (s (2 ^ 20 - 1)).linkReqs, q.part = 0 ∧ 2 ^ 20 ≤ (s (2 ^ 20 - 1)).ac - q.since) := by decide

/-- A thread's turn, a reset and another event, in a module that is stopped, and in one that is not ready. -/
theorem witness_StoppedModule :
    let turn (m : Move) : Turn := { ac := 1, perf := [], move := m }
    let s (m : Move) : State := { taper0 with power := { taper0.power with stopped := true }, agenda := [turn m] }
    (s (.thread taper0.cur)).power.stopped = true ∧ (s (.thread taper0.cur)).agenda = turn (.thread taper0.cur) :: [] ∧
    ({ taper0 with ready := false }).ready = false ∧ (turn (.thread taper0.cur)).move = .thread taper0.cur ∧
    (encode (.hotReset []) = none ∧ threadOnly (.hotReset []) = false ∧ isReset (.hotReset []) = true) ∧
    (encode .periodStart = none ∧ threadOnly .periodStart = false ∧ isReset .periodStart = false) := by decide

end Sys2Proof.Tests
end

