-- ==== Sys2Proof/Tests/WitnessDispatch.lean ====
section
/-! SUPPORT. States and operands that meet the hypotheses of the claims about candidates, placement, budgets, layout commits, pre-emption, the
saved context and the end of a gang, clause by clause. -/

namespace Sys2Proof.Tests

open Sys2Proof.Machine Sys2Proof.Claims

/-- A launch of `cores` cores at a priority, a candidate since `age`. -/
def launch (cores prio age : Nat) : Option Pending :=
  some { desc := { placeDesc with ncm1 := BitVec.ofNat 7 (cores - 1), prio := BitVec.ofNat 2 prio }, candAt := some age }
/-- Gang 0 on quad 0 of a partition of quads 0 and 1, and launches at the heads of its VF's rings 2 and 3. -/
def queueState (a b : Option Pending) (ac : Nat) : State :=
  let s := taper0.modVf 1 fun v =>
    { v with rings := (v.rings.set 2 { v.rings[(2 : Fin 4)] with en := true, head := a }).set 3 { v.rings[(3 : Fin 4)] with en := true, head := b }
             ctxSlots := 2 }
  { s with parts := [(0, Part.new [0, 1] [] [])], ac := ac }
/-- The candidate of a ring. -/
def candOf (n : Fin 4) (cores prio age : Nat) : Cand :=
  { id := .head 1 n, vf := 1, ring := n.val, prio := prio, age := age, need := (cores - 1) / 4 + 1, since := age }

/-- Whether a quad is free, as a test. -/
theorem quadFree_only {s : State} {id : CandId} {q : Nat} (h : quadFree s 0 id q) (hq : (s.part 0).quads = [0, 1])
    (hg : ∃ e ∈ s.gangs, 0 ∈ e.2.quads) : q = 1 := by
  obtain ⟨h1, h2, -, -⟩ := h
  rw [hq] at h1
  obtain ⟨e, he, h0⟩ := hg
  simp only [List.mem_cons, List.not_mem_nil, or_false] at h1
  rcases h1 with rfl | rfl
  · exact absurd h0 (h2 e he)
  · rfl
/-- Two quads do not fit where one is free. -/
theorem fits_not {s : State} {c : Cand} (hn : c.need = 2) (hq : (s.part 0).quads = [0, 1]) (hg : ∃ e ∈ s.gangs, 0 ∈ e.2.quads) : ¬fits s 0 c := by
  rintro ⟨M, hnd, hl, hf⟩
  match M, hl.trans hn with
  | [a, b], _ =>
    have ha := quadFree_only (hf a (by simp)) hq hg
    have hb := quadFree_only (hf b (by simp)) hq hg
    subst ha; subst hb; simp at hnd

/-- A launch that fits, alone; one that does not, before one that does, until it has waited 262,144 ac. -/
theorem witness_CandidatePlaced :
    let s := queueState (launch 1 0 0) none 5
    let s1 := judged s 0
    let t (ac : Nat) := queueState (launch 8 0 0) (launch 4 0 1) ac
    let t1 := judged (t 5) 0
    ((tabGet? s.parts 0).isSome = true ∧ (s1.part 0).quads.Pairwise (· < ·) ∧ (s1.part 0).hold = none ∧ (s1.part 0).reserved = [] ∧
      partCands s1 0 = [candOf 2 1 0 0]) ∧
    ((tabGet? (t 5).parts 0).isSome = true ∧ (t1.part 0).hold = none ∧ (t1.part 0).reserved = [] ∧ partCands t1 0 = [candOf 2 8 0 0, candOf 3 4 0 1] ∧
      (t1.part 0).quads = [0, 1] ∧ (∃ e ∈ t1.gangs, 0 ∈ e.2.quads) ∧ t1.ac - 0 < 262144) ∧
    262144 ≤ (judged (t 262144) 0).ac - (candOf 2 8 0 0).since := by decide
theorem witness_CandidatePlaced_fits :
    fits (judged (queueState (launch 1 0 0) none 5) 0) 0 (candOf 2 1 0 0) ∧ ¬fits (judged (queueState (launch 8 0 0) (launch 4 0 1) 5) 0) 0 (candOf 2 8 0 0) ∧
    fits (judged (queueState (launch 8 0 0) (launch 4 0 1) 5) 0) 0 (candOf 3 4 0 1) := by
  refine ⟨⟨[1], by decide, by decide, ?_⟩, fits_not (by decide) (by decide) (by decide), ⟨[1], by decide, by decide, ?_⟩⟩ <;>
    (unfold quadFree; decide)
theorem witness_CandidatePlaced_ranks :
    let t1 := judged (queueState (launch 8 0 0) (launch 4 0 1) 5) 0
    ranksBefore t1 (candOf 2 8 0 0) (candOf 3 4 0 1) ∧ (∀ e ∈ t1.gangs, ¬outranks t1 1 0 e.2.vf e.2.desc.prio.toNat) := by
  unfold ranksBefore outranks isFunded; decide

/-- A launch of priority 2 that needs both quads, while the gang of priority 0 runs on one. -/
theorem witness_LowerRankChosen :
    let s := queueState (launch 8 2 0) none 5
    next? (exec (.placement 0) s) (fun t => (t.gang 0).preempt) = true ∧ (tabGet? s.gangs 0).isSome = true ∧ (s.gangs.map (·.1)) = [0] ∧
    (s.gang 0).preempt = false := by decide

/-- The same launch, the gang of priority 0 holding a slot: its quad closes the gap. -/
def roomState : State := (queueState (launch 8 2 0) none 5).modGang 0 fun G => { G with slots := [0] }
theorem witness_RoomMade :
    let s1 := judged roomState 0
    (tabGet? roomState.parts 0).isSome = true ∧ (s1.part 0).quads.Nodup ∧ (s1.part 0).hold = none ∧ (s1.part 0).reserved = [] ∧
    partCands s1 0 = [candOf 2 8 2 0] ∧ (s1.gangs.map (·.1)) = [0] ∧ (∀ e ∈ s1.gangs, e.2.slots ≠ []) ∧
    2 ≤ (freeQuads s1 0 (candOf 2 8 2 0).id).length + (s1.gangs.map fun e => e.2.quads.length).sum := by decide
theorem witness_RoomMade_fits : ¬fits (judged roomState 0) 0 (candOf 2 8 2 0) := fits_not (by decide) (by decide) (by decide)
theorem witness_RoomMade_lower : ∀ e ∈ (judged roomState 0).gangs, lowerRanked (judged roomState 0) 0 (candOf 2 8 2 0) e.2 := by
  unfold lowerRanked outranks isFunded; decide

theorem witness_PlacementBlocked :
    let s (ac : Nat) := queueState (launch 8 0 0) (launch 4 0 1) ac
    let held := { s 262144 with parts := [(0, { Part.new [0, 1] [] [] with hold := some (.head 1 2) })] }
    rankedCands (s 262144) 0 = [candOf 2 8 0 0, candOf 3 4 0 1] ∧ 262144 ≤ (s 262144).ac - 0 ∧ (s 262143).ac - 0 < 262144 ∧
    ((s 262144).part 0).quads.Nodup ∧ ((s 262144).part 0).hold = none ∧ rankedCands (queueState none none 5) 0 = [] ∧
    ((judged held 0).part 0).hold = some (candOf 2 8 0 0).id ∧ candOf 2 8 0 0 ∈ partCands (judged held 0) 0 ∧
    (∀ e ∈ partCands (judged held 0) 0, e.id = (candOf 2 8 0 0).id → e = candOf 2 8 0 0) ∧ ((judged held 0).part 0).quads.Nodup := by decide
theorem witness_PlacementBlocked_fits :
    ¬fits (queueState (launch 8 0 0) (launch 4 0 1) 262144) 0 (candOf 2 8 0 0) ∧
    ¬fits (judged { queueState (launch 8 0 0) (launch 4 0 1) 262144 with parts := [(0, { Part.new [0, 1] [] [] with hold := some (.head 1 2) })] } 0) 0
      (candOf 2 8 0 0) :=
  ⟨fits_not (by decide) (by decide) (by decide), fits_not (by decide) (by decide) (by decide)⟩

/-- VF 1, that owes 10 and has lent nothing, and VFs 2 and 3, that contribute 4 and 8; all in partition 0. -/
def poolState (ac : Nat) (borrow : Bool) (debt : Nat) : State :=
  let v (f : Vf → Vf) := f { placeVf with quota := 100, nextQuota := 40, bal := 0 }
  { taper0 with ac := ac, vfs := [(1, v fun v => { v with owing := 10, borrow := borrow, debt := debt }), (2, v fun v => { v with contrib := 4, cred := 3 }),
                                  (3, v fun v => { v with contrib := 8, cred := 6 })] }

theorem witness_PeriodStarted :
    let s := poolState 262144 true 20
    (poolState 262143 true 20).ac - s.periodAt < 262144 ∧ 262144 ≤ s.ac - s.periodAt ∧ (s.vfs.map (·.1)).Pairwise (· < ·) ∧
    (partVfs s 0).map (·.1) = [1] ++ 2 :: [3] ∧ min 20 (40 / 4) = 10 := by decide

theorem witness_BalanceDrawn :
    let s := poolState 0 true 20
    (s.vfs.map (·.1)).Pairwise (· < ·) ∧ (tabGet? s.vfs 1).isSome = true ∧ (partVfs s 0).map (·.1) = [1] ++ 2 :: [3] ∧
    (partVfs s 0).map (·.1) = [] ++ 1 :: [2, 3] := by decide

theorem witness_DrawingStopped :
    let s := poolState 0 true 20
    let capped := poolState 0 true 400
    vfExists s 1 = true ∧ (s.vf 1).borrow = true ∧ 0 < poolOf s 0 ∧ (s.vf 1).debt < 4 * (s.vf 1).quota ∧ (poolState 0 false 20).vf 1 ≠ s.vf 1 ∧
    ((poolState 0 false 20).vf 1).borrow = false ∧ 4 * (capped.vf 1).quota ≤ (capped.vf 1).debt ∧ poolOf taper0 0 = 0 := by decide

/-- Quad `q` in partition 0 and VF 1 in it. -/
def tables (q : Nat) (part : Nat) : LayoutTables := { quadMap := [(q, part)], vfMap := [(1, part)], peerAccept := [], domain := [] }
def someCmd : Cmd := { seq := 9, handle := 1 }

/-- Quad 23 and quad 24; a tenant that tolerates no other; a gang on a moved quad with slots and without; one on a quad that stays. -/
theorem witness_LayoutCommitted :
    let s := { taper0 with quadMap := [(0, 0)] }
    let moved := tables 23 0
    let slotted := s.modGang 0 fun G => { G with slots := [0] }
    let back := (s.modGang 0 fun G => { G with life := .restoring, slots := [0] })
    (someCmd.formed = true ∧ ({ someCmd with formed := false }).formed = false) ∧ (∀ e ∈ back.gangs, e.2.life = .restoring) ∧
    (s.root.mcpUp = true ∧ s.shadow = none) ∧ (∀ e ∈ s.gangs, e.2.life = .running ∧ e.2.preempt = false ∧ e.2.slots = [] ∧ e.2.quads = [0]) ∧
    tableQuad moved 0 ≠ quadPart s 0 ∧ tableQuad (tables 0 0) 0 = quadPart s 0 ∧ (freeSlots s 1).length < (s.gang 0).desc.quadCount ∧
    (∀ x ∈ slotted.gangs, x.2.life = .running → x.2.slots ≠ []) ∧ (slotted.gangs.map (·.1)).Nodup := by decide
theorem witness_LayoutCommitted_tables :
    layoutFormed (tables 23 23) ∧ ¬layoutFormed (tables 24 0) ∧ ¬layoutFormed { tables 0 0 with vfMap := [(0, 0)] } ∧
    ¬layoutFormed { tables 0 0 with vfMap := [(513, 0)] } ∧ layoutFormed { tables 0 0 with vfMap := [(512, 0)] } ∧
    ¬layoutFormed { tables 0 0 with domain := [(1, [])] } := by
  simp [layoutFormed, tables]
/-- VFs 1 and 2, of which each tolerates no other tenant, of the tenants 1 and `k`, and tables that put both into partition 0. -/
def loneVf (k : Nat) : Vf := { placeVf with policy := { placeVf.policy with cotenant := false, key := k } }
def loneState (k : Nat) : State := { taper0 with vfs := [(1, loneVf 1), (2, loneVf k)] }
def bothTables : LayoutTables := { tables 0 0 with vfMap := [(1, 0), (2, 0)] }
theorem witness_LayoutCommitted_policy : layoutAllowed (loneState 1) bothTables ∧ ¬layoutAllowed (loneState 2) bothTables := by
  refine ⟨⟨fun a ha _ b hb _ hk => ?_, fun e he => by cases he⟩, fun h => ?_⟩
  · simp only [loneState, List.mem_cons, List.not_mem_nil, or_false] at ha hb
    rcases ha with rfl | rfl <;> rcases hb with rfl | rfl <;> exact absurd rfl hk
  · exact absurd (h.1 (1, loneVf 1) (by simp [loneState]) rfl (2, loneVf 2) (by simp [loneState]) (by decide) (by decide) (by decide)) (by decide)
/-- A sender whom a tenant's policy leaves out. -/
theorem witness_LayoutCommitted_sender : ¬layoutAllowed taper0 { tables 0 0 with peerAccept := [(0, [5])] } := fun h =>
  absurd (h.2 (0, [5]) (List.mem_singleton.2 rfl) (1, taper0.vf 1) (by decide) (by decide) 5 (by decide)) (by decide)

theorem witness_LayoutWaits :
    ({ State.reset.root with mcpUp := false }).mcpUp = false ∧ ({ State.reset with shadow := some (9, tables 0 0) }).shadow ≠ none := by decide

/-! Pre-emption and the context. -/

/-- Gang 0 at a point of its life. -/
def lifeState (l : Life) (pre : Bool) : State := taper0.modGang 0 fun G => { G with life := l, preempt := pre, slots := [0] }

theorem witness_GangStopped :
    let s := (lifeState .running true).setWait taper0.cur .tile
    (tabGet? s.gangs 0).isSome = true ∧ (s.gang 0).life = .running ∧ (s.gang 0).preempt = true ∧ s.cur.gang = 0 ∧ s.cur.core ≤ (s.gang 0).desc.ncm1.toNat ∧
    (s.thread s.cur).wait.any givenUp = true ∧ (((lifeState .running true).thread taper0.cur).wait.any givenUp) = false ∧
    ((lifeState .stopping true).gang 0).life ≠ .running ∧ ((lifeState .running false).gang 0).preempt = false := by decide

theorem witness_ContextSaved :
    let s := (lifeState .stopping false).modWick 0 0 0 fun W => { W with dirty := 1, extent := [(0, 128)], rows := [(0, 5)] }
    (tabGet? s.gangs 0).isSome = true ∧ (s.gang 0).life = .stopping ∧ isSealed s 0 = false ∧ s.landing = [] ∧ (s.gang 0).slots.Nodup ∧
    (s.gang 0).desc.ncm1.toNat / 4 < (s.gang 0).slots.length ∧ (∀ k : Fin 8, (s.core 0 0).windows[k].snap.length ≤ 8) ∧
    tabGet 0 (s.wick 0 0 0).extent 0 ≤ 128 ∧ bitOf (s.wick 0 0 0).dirty 0 = true ∧
    (let n := (s.modGang 0 fun G => { G with slots := [] }).modVf 1 fun v => { v with ctxSlots := 2 }
     (n.gang 0).slots = [] ∧ (freeSlots n 1).take (n.gang 0).desc.quadCount = [0]) ∧ ((lifeState .running true).gang 0).life ≠ .stopping := by decide

theorem witness_GangRestored :
    let s := lifeState .restoring false
    (tabGet? s.gangs 0).isSome = true ∧ (s.gang 0).life = .restoring ∧ isSealed s 0 = false ∧ ((lifeState .running true).gang 0).life ≠ .restoring ∧
    (∀ a : Fin 4, ((s.core 0 0).owners[a]).vigil = false) ∧ imageGood { s with poison := [sectorOf (headerAddr s 0)] } 0 = false := by decide +kernel

/-- Bytes below a write. -/
theorem memBytes_below (m : Mem) (h : Nat) (bs : List Byte) {a n : Nat} (hn : a + n ≤ h) : memBytes (memWriteBytes m h bs) a n = memBytes m a n := by
  apply List.ext_getElem
  · simp [memBytes_length]
  · intro k h1 h2
    rw [memBytes_length] at h1
    rw [memBytes_getElem, memBytes_getElem, memByte_memWriteBytes_ne _ _ _ (by omega)]

theorem ctxHeader_length (s : State) (g : Nat) : (ctxHeader s g).length = 256 := by
  unfold ctxHeader
  simp [shake256_length, leBytes_length, natsFrom]

/-- A header does not depend on where it lies, when that is past every range that it checks. -/
theorem ctxHeader_written (s : State) (g : Nat)
    (hr : ∀ c ∈ gangCores (s.gang g), ∀ r ∈ ctxRanges s g c, r.1 + r.2 ≤ headerAddr s g) (bs : List Byte) :
    ctxHeader { s with mem := memWriteBytes s.mem (headerAddr s g) bs } g = ctxHeader s g := by
  have e (m : Mem) : ∀ c, ctxRanges { s with mem := m } g c = ctxRanges s g c := fun _ => rfl
  have eg (m : Mem) : ({ s with mem := m } : State).gang g = s.gang g := rfl
  unfold ctxHeader
  simp only [e, eg]
  congr 3
  simp only [List.flatMap]
  congr 1
  refine List.map_congr_left fun c hc => ?_
  congr 1
  exact List.map_congr_left fun r h => memBytes_below _ _ _ (hr c hc r h)

/-- An unsealed gang whose header has been written passes its check. -/
theorem imageGood_written (s : State) (g : Nat) (hp : s.poison = []) (hd : s.denied = []) (hs : isSealed s g = false)
    (hr : ∀ c ∈ gangCores (s.gang g), ∀ r ∈ ctxRanges s g c, r.1 + r.2 ≤ headerAddr s g) :
    imageGood { s with mem := memWriteBytes s.mem (headerAddr s g) (ctxHeader s g) } g = true := by
  have h1 := ctxHeader_written s g hr (ctxHeader s g)
  have h2 := memBytes_memWriteBytes s.mem (headerAddr s g) (ctxHeader s g)
  rw [ctxHeader_length] at h2
  have e2 (m : Mem) : isSealed { s with mem := m } g = false := hs
  have e3 (m : Mem) : headerAddr { s with mem := m } g = headerAddr s g := rfl
  have e4 (m : Mem) : ∀ a n, rangeLost { s with mem := m } a n = false := fun a n => by simp [rangeLost, rangePoison, hp, hd]
  unfold imageGood
  simp only [e2, e3, e4, h1, h2]
  simp

/-- Every range that a header checks, but the remaining state, and where that lies. -/
theorem ctxRanges_mem {s : State} {g c : Nat} {r : Nat × Nat} (h : r ∈ ctxRanges s g c) :
    r ∈ (ctxRanges s g c).dropLast ∨ r = (ctxCore s g c + 0x338D00, (restBytes s g c).length) := by
  have e : ∀ (l : List (Nat × Nat)) x y, r ∈ l ++ [x, y] → r ∈ (l ++ [x, y]).dropLast ∨ r = y := by
    intro l x y h
    simp only [List.mem_append, List.mem_cons, List.not_mem_nil, or_false] at h
    simp only [List.dropLast_append_of_ne_nil (List.cons_ne_nil _ _), List.dropLast_cons_cons, List.dropLast_singleton, List.mem_append, List.mem_singleton]
    exact or_assoc.2 h
  exact e _ _ _ h

/-- The remaining state of gang core 0 ends before the header. -/
theorem ctxRest_le (s : State) (g : Nat) : ctxCore s g 0 + 0x338D00 + (restBytes s g 0).length ≤ headerAddr s g := by
  have : (restBytes s g 0).length ≤ 0x3FFF00 - 0x338D00 := by unfold restBytes; exact List.length_take_le _ _
  unfold headerAddr; omega

theorem lifeState_ranges :
    ∀ c ∈ gangCores ((lifeState .restoring false).gang 0), ∀ r ∈ ctxRanges (lifeState .restoring false) 0 c,
      r.1 + r.2 ≤ headerAddr (lifeState .restoring false) 0 := by
  have h0 : ∀ c ∈ gangCores ((lifeState .restoring false).gang 0), c = 0 := by decide
  intro c hc r hr
  obtain rfl := h0 c hc
  rcases ctxRanges_mem hr with h | rfl
  · have : ∀ r ∈ (ctxRanges (lifeState .restoring false) 0 0).dropLast, r.1 + r.2 ≤ headerAddr (lifeState .restoring false) 0 := by decide +kernel
    exact this r h
  · exact ctxRest_le _ _

theorem witness_GangRestored_image : ∃ m, imageGood { lifeState .restoring false with mem := m } 0 = true :=
  ⟨_, imageGood_written (lifeState .restoring false) 0 (by decide) (by decide) (by decide) lifeState_ranges⟩

theorem witness_VigilRefilled :
    let s := (vigilWick 0x7FFF).modCore 0 0 fun C => { C with refill := C.refill.set 1 (some 0x20000) }
    (tabGet? s.gangs 0).isSome = true ∧ isSealed s 0 = false ∧ (s.gang 0).life = .running ∧ (s.core 0 0).refill[(1 : Fin 4)] = some 0x20000 ∧
    s.poison = [] ∧ poisoned { s with poison := [sectorOf 0x20000] } 0x20000 = true ∧ (taper0.core 0 0).refill[(1 : Fin 4)] = none := by decide

theorem witness_VigilRefilled_refused : ¬readable { taper0 with denied := [2 ^ 45 / 64] } (2 ^ 45) := by decide
theorem witness_VigilRefilled_image (w : Fin 8) (h : Word) :
    ∃ im, readImage (memBytes (memWriteBytes taper0.mem 0x20000 (plainFront ++ shake256 (plainFront ++ plainCells) ++ plainCells)) 0x20000 131328) w h =
      some im := by
  have hl : (plainFront ++ shake256 (plainFront ++ plainCells) ++ plainCells).length = 131328 := by
    rw [List.length_append, List.length_append, shake256_length, plainFront_length, plainCells, List.length_replicate]
  have e := memBytes_memWriteBytes taper0.mem 0x20000 (plainFront ++ shake256 (plainFront ++ plainCells) ++ plainCells)
  rw [hl] at e; rw [e]
  exact readImage_isSome plainFront plainCells w h plainFront_length plainFront_fields

theorem witness_GangEnded :
    let s := taperWith fun T => { T with run := .halted }
    (tabGet? s.gangs 0).isSome = true ∧ (s.gang 0).life = .running ∧ (s.gang 0).desc.ncm1 = 0 ∧ (s.core 0 0).taper.run = .halted ∧ (s.core 0 0).sends = [] ∧
    (∀ ch : Fin 4, (s.core 0 0).chans[ch].queue = []) ∧ (taper0.core 0 0).taper.run ≠ .halted ∧ ((lifeState .saved false).gang 0).life ≠ .running := by
  decide

end Sys2Proof.Tests
end

