-- ==== Sys2Proof/Tests/WitnessHost.lean ====
section
/-! SUPPORT. States and operands that meet the hypotheses of the claims about host commands, the root, resets and the step of the module, clause
by clause. -/

namespace Sys2Proof.Tests

open Sys2Proof.Machine Sys2Proof.Claims

/-- VF 1 changed. -/
def vfState (f : Vf → Vf) : State := taper0.modVf 1 f
/-- VF 1 changed, and gang 0 too. -/
def gangVf (f : Vf → Vf) (g : Gang → Gang) : State := (taper0.modGang 0 g).modVf 1 f

theorem someCmd_names : names taper0 someCmd 1 (taper0.vf 1) := ⟨by decide, rfl, by decide⟩

theorem someCmd_takes : takes taper0 someCmd 1 (taper0.vf 1) := ⟨rfl, rfl, someCmd_names, fun _ => by decide⟩

/-- A processor that is down; a command of a wrong form; a handle of no VF, and one of another generation; a layout commit that moves the VF's
quad, and one that concerns other partitions alone. -/
theorem witness_CommandPath :
    let s (l : LayoutTables) : State := { taper0 with quadMap := [(0, 0)], shadow := some (7, l) }
    taper0.root.mcpUp = true ∧ ({ taper0.root with mcpUp := false }).mcpUp = false ∧ ({ someCmd with formed := false }).formed = false ∧
    tabGet? taper0.vfs ((2 : Word).toNat % 2 ^ 32) = none ∧ (taper0.vf 1).gen ≠ (0x100000001 : Word).extractLsb' 32 32 ∧
    ((taper0.vf 1).part < 24 ∧ layoutTouches (s (tables 23 0)) (taper0.vf 1).part = true ∧
      layoutTouches (s { tables 0 0 with quadMap := [(0, 0), (5, 2)] }) (taper0.vf 1).part = false) := by decide

/-- The bounds of each limit, on both sides; a context area that ends with HBM and one that passes its end; granules of an earlier VF of the number,
of the VF itself, being zeroed. -/
theorem witness_LimitsSet :
    let p := vfState fun v => { v with policy := { v.policy with qmin := 5, pmin := 2 } }
    let stop := vfState fun v => { v with state := 2 }
    let fresh := vfState fun v => { v with everRan := false }
    let held := taper0.modGang 0 fun G => { G with slots := [0] }
    let g (x : GranuleState) : State := { taper0 with root := { taper0.root with granules := [(2 ^ 18, x)] } }
    let conf := vfState fun v => { v with policy := { v.policy with conf := true } }
    (2 ^ 40 ≤ 2 ^ 40 ∧ (p.vf 1).policy.qmin ≤ 5 ∧ 4 < (p.vf 1).policy.qmin) ∧ (3 ≤ 3 ∧ (p.vf 1).policy.pmin ≤ 2 ∧ 1 < (p.vf 1).policy.pmin ∧ 3 < 4) ∧
    (0 < 2 ^ 60 ∧ isRemote taper0 0 = false ∧ localHbm taper0 0 = true ∧ isRemote taper0 (2 ^ 46) = true ∧ isHost (2 ^ 45) = true) ∧
    (localHbm taper0 (hbmBytes - 2 ^ 24) = true ∧ (hbmBytes - 2 ^ 24) % 2 ^ 44 + 1 * 2 ^ 24 ≤ hbmBytes ∧ ¬((hbmBytes - 2 ^ 24) % 2 ^ 44 + 2 * 2 ^ 24 ≤ hbmBytes)) ∧
    (localHbm taper0 (2 ^ 30) = true ∧ 2 ^ 30 / 4096 ≤ 2 ^ 18 ∧ 2 ^ 18 < 2 ^ 30 / 4096 + 1 * 2 ^ 12) ∧
    (tabGet? (g (.owned 1 5 1)).root.granules (2 ^ 18) = some (.owned 1 5 1) ∧ 5 ≠ (taper0.vf 1).gen ∧
      tabGet? (g (.owned 1 0 1)).root.granules (2 ^ 18) = some (.owned 1 (taper0.vf 1).gen 1) ∧
      tabGet? (g .leaving).root.granules (2 ^ 18) = some .leaving ∧ tabGet? taper0.root.granules (2 ^ 18) = none) ∧
    ((conf.vf 1).policy.conf = true ∧ (taper0.vf 1).policy.conf = false) ∧
    (heldSlots taper0 1 = [] ∧ promisedSlots taper0 1 = 0 ∧ heldSlots held 1 = [0]) ∧
    ((stop.vf 1).state = 2 ∧ (fresh.vf 1).everRan = false ∧ (taper0.vf 1).everRan = true ∧ (taper0.vf 1).state ≠ 2) ∧
    (4096 % 4096 = 0 ∧ 4095 % 4096 ≠ 0) ∧ (8 % 8 = 0 ∧ 12 % 8 ≠ 0 ∧ 6 ≤ 6 ∧ 5 < 6) := by decide

theorem witness_WayMaskSet :
    let v := taper0.vf 1
    let few := vfState fun v => { v with policy := { v.policy with wmin := 2 } }
    v.waySeq = none ∧ ((List.range 16).filter fun k => (0x0001 : BitVec 16).getLsbD k).length < (few.vf 1).policy.wmin ∧
    ¬(((List.range 16).filter fun k => (0x0003 : BitVec 16).getLsbD k).length < (few.vf 1).policy.wmin) ∧ (v.wayGone ||| v.wayMask) &&& ~~~(0xFFFF : BitVec 16) = 0 ∧
    (v.wayGone ||| v.wayMask) &&& ~~~(0x7FFF : BitVec 16) ≠ 0 ∧ ((vfState fun v => { v with waySeq := some 3 }).vf 1).waySeq ≠ none := by decide

theorem witness_BlocksAllotted :
    let s := { taper0 with tensorBlocks := [(127, 1)], markBlocks := [(63, 1)] }
    let pinned := { s with l2 := [{ slice := 0, set := 0, way := 0, tag := .tile 1 8191 0 0 0, vf := 1, sectors := Vector.replicate 4 Sector.empty
                                    data := [], pins := [(0, 0)], stale := false, prefetched := none, inflight := false, cmp := false }] }
    (128 ≤ 128 ∧ 64 ≤ 64 ∧ 127 < 128 ∧ 63 < 64) ∧ (tabGet? s.tensorBlocks 127 ≠ none ∧ tabGet? s.markBlocks 62 = none) ∧
    (tabGet? s.tensorBlocks 127 = some 1 ∧ tabGet? s.tensorBlocks 126 ≠ some 1) ∧ blocksPinned s [127] = false ∧ blocksPinned pinned [127] = true := by decide

/-- A running VF with a slotted gang, with one that lacks slots, one that stops, one that is stopped, with a way mask and without; wmin 0 and 1. -/
theorem witness_PauseBegun :
    let s := gangVf (fun v => v) fun G => { G with slots := [0] }
    let z := vfState fun v => { v with state := 2, policy := { v.policy with wmin := 1 } }
    (s.gangs.map (·.1)).Nodup ∧ (s.vf 1).state = 0 ∧ (∀ e ∈ s.gangs, e.2.vf = 1 ∧ e.2.life = .running ∧ e.2.slots ≠ []) ∧ (s.vf 1).policy.wmin = 0 ∧
    (let r := gangVf (fun v => v) fun G => { G with life := .restoring, slots := [0] }
     ∀ e ∈ r.gangs, e.2.vf = 1 ∧ e.2.life = .restoring) ∧
    (∀ e ∈ taper0.gangs, e.2.vf = 1 ∧ e.2.life = .running ∧ e.2.preempt = false ∧ e.2.slots = [] ∧ (freeSlots taper0 1).length < e.2.desc.quadCount) ∧
    ((vfState fun v => { v with state := 1 }).vf 1).state = 1 ∧ (z.vf 1).state = 2 ∧ (z.vf 1).policy.wmin ≠ 0 ∧ (z.vf 1).waySeq = none ∧
    ((z.vf 1).wayGone ||| (z.vf 1).wayMask) ≠ 0 := by decide

/-- A stopping VF whose gang is saved, with a full log and with room, with a record to write, with an entry to log; and one whose gang runs. -/
theorem witness_PauseEnded :
    let p : Pausing := { seq := some 9, andThen := .nothing }
    let s (f : Vf → Vf) := gangVf (fun v => f { v with state := 1, pausing := some p }) fun G => { G with life := .saved, slots := [0] }
    let a := s id
    let full := s fun v => { v with dlogLg := some 6, dlogHead := 64 }
    let room := s fun v => { v with dlogLg := some 6, dlogHead := 63 }
    let rec_ := s fun v => { v with rings := v.rings.set 3 { v.rings[(3 : Fin 4)] with compl := [{ crec := 0, gtag := 0, bytes := [], wait := none }] } }
    ((tabGet? a.vfs 1).isSome = true ∧ (a.vf 1).pausing = some p ∧ (a.vf 1).state ≠ 2 ∧ (∀ e ∈ a.gangs, e.2.life = .saved) ∧
      (∀ n : Fin 4, ((a.vf 1).rings[n]).compl = []) ∧ (a.vf 1).faults = [] ∧ (a.vf 1).dlogWait = [] ∧ (a.vf 1).dlogLg = none ∧ a.root.mcpUp = true) ∧
    ((room.vf 1).dlogLg = some 6 ∧ (room.vf 1).dlogHead - (room.vf 1).dlogTail < 2 ^ 6 ∧ ¬((full.vf 1).dlogHead - (full.vf 1).dlogTail < 2 ^ 6)) ∧
    ((rec_.vf 1).rings[(3 : Fin 4)]).compl ≠ [] ∧ ((s fun v => { v with dlogWait := [1] }).vf 1).dlogWait ≠ [] ∧ (∃ e ∈ taper0.gangs, e.2.vf = 1 ∧ e.2.life ≠ .saved) := by
  decide

/-- A stopped VF, one whose pause is over, and one part of its time before. -/
theorem witness_VfResumed :
    let s (n : Nat) : State := { gangVf (fun v => { v with state := 2, pausedAt := some 0, policy := { v.policy with pausemaxMs := 1 } }) (fun G => { G with life := .saved }) with time := n }
    ((s 0).vf 1).state = 2 ∧ ((s 0).vf 1).pausing = none ∧ ((s 0).vf 1).tdisp ≠ .error ∧ (taper0.vf 1).state ≠ 2 ∧ ((s 0).vf 1).pausedAt = some 0 ∧
    ((s 0).vf 1).policy.pausemaxMs ≠ 0 ∧ 0 + 1 * msTime ≤ (s msTime).time ∧ (s (msTime - 1)).time < 0 + 1 * msTime ∧
    (taper0.vf 1).policy.pausemaxMs = 0 ∧ (∀ e ∈ (s 0).gangs, e.2.vf = 1 ∧ e.2.life = .saved) := by decide

theorem witness_FunctionReset :
    let p : Pausing := { seq := none, andThen := .functionReset }
    let s := gangVf (fun v => v) fun G => { G with slots := [0] }
    let z := vfState fun v => { v with state := 2 }
    let d := vfState fun v => { v with state := 2, pausing := some p }
    (s.vf 1).pausing = none ∧ (s.vf 1).state ≠ 2 ∧ (∀ e ∈ s.gangs, e.2.slots ≠ []) ∧ (z.vf 1).pausing = none ∧ (z.vf 1).state = 2 ∧
    (d.vf 1).pausing = some p ∧ (d.vf 1).state = 2 ∧ (∀ n : Fin 4, ((d.vf 1).rings[n]).compl = []) ∧ (tabGet? d.vfs 1).isSome = true := by decide

/-- VF numbers 0, 1, 512 and 513; policies that bind and that do not; a later policy, an equal one, another tenant's. -/
theorem witness_VfLife :
    let p := Policy.open
    let q := { p with version := 1 }
    let locked := vfState fun v => { v with tdisp := .run }
    (¬(1 ≤ 0) ∧ 512 ≤ 512 ∧ ¬(513 ≤ 512)) ∧ tabGet? taper0.vfs 2 = none ∧ ((taper0.vf 1).policy.version < q.version ∧ q.key = (taper0.vf 1).policy.key) ∧
    p.version ≤ (taper0.vf 1).policy.version ∧ ({ q with key := 7 }).key ≠ (taper0.vf 1).policy.key ∧ (taper0.vf 1).tdisp ≠ .run ∧ (locked.vf 1).tdisp = .run ∧
    ((vfState fun v => { v with everRan := false }).vf 1).everRan = false ∧ (taper0.vf 1).state ≠ 2 ∧ (taper0.vf 1).everRan = true := by decide
theorem witness_VfLife_policy :
    bindable taper0 Policy.open ∧ ¬bindable taper0 { Policy.open with verifies := false } ∧ ¬bindable taper0 { Policy.open with fwmin := 1 } ∧
    bindable taper0 { Policy.open with conf := true } ∧ ¬bindable { taper0 with root := { taper0.root with unlocked := true } } { Policy.open with conf := true } := by
  unfold bindable; decide

theorem witness_TenantGuards :
    let c := vfState fun v => { v with policy := { v.policy with conf := true, peers := [5] } }
    let r := gangVf (fun v => { v with tdisp := .run }) fun G => { G with slots := [0] }
    (c.vf 1).policy.conf = true ∧ (c.vf 1).tdisp = .unlocked ∧ (taper0.vf 1).policy.conf = false ∧ (taper0.vf 1).tdisp ≠ .run ∧ (r.vf 1).tdisp = .run ∧
    (r.vf 1).state = 0 ∧ (∀ e ∈ r.gangs, e.2.slots ≠ []) ∧ ((vfState fun v => { v with state := 2, tdisp := .run }).vf 1).state ≠ 0 ∧
    (∀ k ∈ [5], ∀ e ∈ c.vfs, e.2.part = 0 → k ∈ e.2.policy.peers) ∧ ¬(∀ k ∈ [6], ∀ e ∈ c.vfs, e.2.part = 0 → k ∈ e.2.policy.peers) ∧
    (tabGet? c.parts 0).isSome = true ∧ (tabGet? c.parts 1).isNone = true := by decide

/-- A mapping of 2^(12 + lg) bytes at 1 GiB. -/
def mapOf (lg : Nat) (ts : List Nat) : Stage2Mapping :=
  { ipa := 2 ^ 30, pa := 2 ^ 30, lgSize := lg, r := true, w := true, x := false, cmp := false, ownIdeStream := false, tables := ts }

/-- Pages of 4 KiB and of 1 GiB; another size, off its own size; granules free, being zeroed, of another VF; host memory; enough tables and too few. -/
theorem witness_Stage2Mapped :
    let v := taper0.vf 1
    let g (x : GranuleState) : State := { taper0 with root := { taper0.root with granules := [(2 ^ 18, x)] } }
    let conf := vfState fun v => { v with policy := { v.policy with conf := true } }
    (0 ∈ [0, 4, 9, 18] ∧ 18 ∈ [0, 4, 9, 18] ∧ 1 ∉ [0, 4, 9, 18] ∧ (mapOf 18 []).ipa % (4096 * 2 ^ 18) = 0 ∧ ({ mapOf 0 [] with pa := 12 }).pa % 4096 ≠ 0) ∧
    (physOk taper0 v.part (2 ^ 30) = true ∧ physOk taper0 v.part (2 ^ 30 + 4095) = true ∧ physOk taper0 v.part (2 ^ 31 - 1) = true ∧
      localHbm taper0 0x5000 = true ∧ physOk taper0 v.part 0x5000 = true) ∧
    (localHbm taper0 (2 ^ 30) = true ∧ 2 ^ 30 / 4096 = 2 ^ 18) ∧ tabGet? (g .zeroing).root.granules (2 ^ 18) = some .zeroing ∧
    tabGet? (g (.owned 2 0 1)).root.granules (2 ^ 18) = some (.owned 2 0 1) ∧ tabGet? (g (.owned 1 0 1)).root.granules (2 ^ 18) = some (.owned 1 (taper0.vf 1).gen 1) ∧
    tabGet? taper0.root.granules (2 ^ 18) = none ∧ ((conf.vf 1).policy.conf = true ∧ isHost (2 ^ 45) = true) ∧
    (tableFor 1 (2 ^ 30) 2 4 0 v.s2root [] taper0).isNone = true ∧ (tableFor 1 (2 ^ 30) 2 4 0 v.s2root [0x5000] taper0).isSome = true ∧
    (tableFor 1 (2 ^ 30) 1 4 0 v.s2root [] taper0).isSome = true := by decide +kernel

/-- A page of 1 GiB that is mapped, one that is not, one asked for with another size. -/
theorem witness_Stage2Unmapped :
    let v := taper0.vf 1
    leafOk (walk2 taper0 0 1 0) (fun l => l.sizeCode == 3) = true ∧ (tableFor 1 0 1 4 0 v.s2root [] taper0).isSome = true ∧
    leafOk (walk2 taper0 0 1 (2 ^ 30)) (fun _ => true) = false ∧ (18 ∈ [0, 4, 9, 18] ∧ 0 % (4096 * 2 ^ 18) = 0 ∧ 4096 % (4096 * 2 ^ 18) ≠ 0) ∧
    leafOk (walk2 (leafState 0x3001) 0 1 0) (fun _ => true) = false ∧
    (tableFor 1 0 3 4 0 v.s2root [] { leafState 0x3001 with mem := memWrite (memWrite (leafState 0x3001).mem 0x3000 8 0x4001) 0x4000 8 0x173 }).isSome = true ∧
    leafOk (walk2 { leafState 0x3001 with mem := memWrite (memWrite (leafState 0x3001).mem 0x3000 8 0x4001) 0x4000 8 0x173 } 0 1 0) (fun l => l.sizeCode == 0) = true := by
  decide

/-- A layout commit that a gang holds up, and one that nothing holds up; the four readings that a step can be chosen on, at 115 and at 116 degrees;
the bounds of the cap. -/
theorem witness_ManagementRules :
    let s (q : Nat) : State := { taper0 with quadMap := [(0, 0)], shadow := some (9, tables q 0) }
    let cool : Reading := { watts := 2999, celsius := 104, coolant := true }
    State.reset.root.mcpUp = true ∧ State.reset.shadow = none ∧ (s 0).shadow = some (someCmd.seq, tables 0 0) ∧
    ((∀ e ∈ (s 0).gangs, e.2.quads = [0]) ∧ tableQuad (tables 23 0) 0 ≠ quadPart (s 23) 0 ∧ tableQuad (tables 0 0) 0 = quadPart (s 0) 0) ∧
    (cool.watts < State.reset.power.cap ∧ ¬(({ cool with watts := 3000 }).watts < State.reset.power.cap) ∧ ¬(({ cool with celsius := 105 }).celsius < 105)) ∧
    (115 ≤ 115 ∧ 115 < 116) ∧ 1500 ≤ 1500 ∧ 3000 ≤ 3000 ∧ 1499 < 1500 ∧ 3000 < 3001 := by decide

theorem witness_AttestationRules :
    let r := State.reset.root
    r.sessionKey = true ∧ r.sessionLeaf < 65536 ∧ ({ r with sessionKey := false }).sessionKey = false ∧ 65536 ≤ ({ r with sessionLeaf := 65536 }).sessionLeaf ∧
    r.identityLeaf < 1048576 ∧ 1048576 ≤ ({ r with identityLeaf := 1048576 }).identityLeaf := by decide

/-- An image of the fuse's version, one below it, one that does not verify. -/
theorem witness_FirmwareRules :
    let f : Firmware := { version := 3, lowestRom := 0, verifies := true }
    let s : State := { State.reset with root := { State.reset.root with fuse := 3, unlocked := true, running := none } }
    installable s f ∧ ¬installable s { f with version := 2 } ∧ ¬installable s { f with verifies := false } ∧ (∃ g, State.reset.root.running = some g) ∧
    s.root.running = none ∧ s.root.unlocked = true ∧ State.reset.root.unlocked = false := by
  refine ⟨⟨⟨rfl, Nat.zero_le _⟩, by decide⟩, fun h => absurd h.2 (by decide), fun h => absurd h.1.1 (by decide), ⟨_, rfl⟩, rfl, rfl, rfl⟩

/-- Three failed channels and four; flash with an image that can be installed, and without; recovery; leaves left and spent. -/
theorem witness_ColdResets :
    (([0, 1, 2] : List Nat) ++ [2]).eraseDups.length ≤ 3 ∧ 3 < (([0, 1, 2] : List Nat) ++ [3]).eraseDups.length ∧
    (∃ g, State.reset.root.flash = some g ∧ imageVerifies g) ∧ ({ State.reset.root with recovery := true }).recovery = true ∧
    State.reset.root.recovery = false ∧ ({ State.reset.root with flash := none }).flash = none ∧ State.reset.root.identityLeaf < 1048576 := by
  refine ⟨by decide, by decide, ⟨_, rfl, rfl, Nat.zero_le _⟩, rfl, rfl, rfl, by decide⟩

/-- A gang whose launch names no completion record, on a ring that raises its interrupt; no completion record due. -/
theorem witness_HotResets :
    let s := ringState fun r => { r with irq := true }
    tabGet? taper0.vfs 1 = some (taper0.vf 1) ∧ (∀ e ∈ taper0.vfs, e.1 = 1 → e.2 = taper0.vf 1) ∧ (s.gangs.map (·.1)).Nodup ∧ (s.vfs.map (·.1)).Nodup ∧
    (∀ e ∈ s.gangs, e.2.desc.crec = 0) ∧ (∀ e ∈ s.vfs, ∀ n : Fin 4, (e.2.rings[n]).compl = []) ∧
    (∃ e ∈ (s.modGang 0 fun G => { G with ring := 2 }).gangs, vfExists s e.2.vf = true ∧ (ringOf s e.2.vf e.2.ring).irq = true) ∧
    State.reset.gangs = [] := by decide

/-! The encoding and the step. -/

theorem witness_EncodeDecode : (Instr.addi 5 0 0xFFFF).wf = true ∧ encode (.addi 5 0 0xFFFF) = some 0x08A0FFFF := by decide
theorem witness_DecodeSound : decode 0x08A0FFFF = .ok (.addi 5 0 0xFFFF) := rfl

/-- The state before its move, with its thread the acting one. -/
def beforeWith (s : State) (u : Tid) : State := { beforeMove s with cur := u }

/-- What a test says of a thread's current word, and whether there is none yet. -/
def wordIs (f : Fetched) (w : IWord) (p : State → Bool) : Bool := match f with | .word x s => x == w && p s | _ => false
def wordWaits (f : Fetched) : Bool := match f with | .wait _ => true | _ => false

/-- A taper that fetches, one whose line finds no room and one whose page is not there; a block-driven wick, with a slot instruction that the
slot chooses and one that another wick's comes before; a fetch outside memory. -/
theorem witness_StepExecutes :
    let s := { taper0 with agenda := [{ ac := 0, perf := [], move := .thread taper0.cur }] }
    let b := { block0 with agenda := [{ ac := 1, perf := [], move := .thread block0.cur }] }
    let far := taperWith fun T => { T with th := { T.th with pc := unmapped } }
    let s0 := beforeWith s taper0.cur
    let b0 := beforeWith b block0.cur
    let f0 := beforeWith far taper0.cur
    let slot := wickWith fun W => { W with state := .blockDriven, queue := [{ base := 0x10000, words := [0x94082980], pos := 0 }] }
    let second := (slot.modWick 0 0 1 fun W => { W with state := .blockDriven, queue := [{ base := 0x10000, words := [0x94082980], pos := 0 }] })
    (s.ready = true ∧ s.power.stopped = false ∧ (dueEvent (noteCandidates s)).isNone = true ∧ (nextTurn s).ac < roomAc (noteCandidates s) ∧
      (nextTurn s).move = .thread taper0.cur ∧
      runnable s0 taper0.cur = true ∧ (s0.thread taper0.cur).wait = none ∧ pendingFault (s0.core 0 0) = none ∧ (s0.vfs.map (·.1)).Pairwise (· < ·) ∧
      s0.blockDriven taper0.cur = false ∧
      xlatOk (translate s0 (s0.pcoreNum taper0.cur) (s0.vfOf taper0.cur) (s0.pcOf taper0.cur) .fetch true) (fun X s1 =>
        decide (readable s1 X.pa) && X.pa % 4 == 0 && (s1.pcoreOf (s1.pcoreNum taper0.cur)).icache.isEmpty && memRead s1.mem X.pa 4 == 0x08000000 &&
          l2Room s1 (s1.vfOf taper0.cur) X.pa) = true) ∧
    (wordIs (currentWord s0 taper0.cur) 0x08000000 (fun t => !mustWait t taper0.cur 0x08000000) = true ∧
      wordWaits (currentWord (beforeWith (tight s 0x10000) taper0.cur) taper0.cur) = true ∧
      wordWaits (currentWord (beforeWith { s with mem := (leafState 0).mem } taper0.cur) taper0.cur) = true) ∧
    ((nextTurn b).move = .thread block0.cur ∧ runnable b0 block0.cur = true ∧ (b0.thread block0.cur).wait = none ∧ b0.blockDriven block0.cur = true ∧
      (b0.wick 0 0 0).queue.length = 1 ∧ ((b0.wick 0 0 0).queue.head?.bind fun x => x.words[x.pos]?) = some 0x08000000) ∧
    (slotWord 0x94082980 = true ∧ wordIs (currentWord slot slot.cur) 0x94082980 (fun t => slotChoice t 0 0 == some 0) = true ∧
      wordIs (currentWord second ⟨0, 0, .wick 1⟩) 0x94082980 (fun t => slotChoice t 0 0 == some 0 && !issued t ⟨0, 0, .wick 1⟩) = true) ∧
    ((nextTurn far).move = .thread taper0.cur ∧ runnable f0 taper0.cur = true ∧
      xlatFails (translate f0 (f0.pcoreNum taper0.cur) (f0.vfOf taper0.cur) (f0.pcOf taper0.cur) .fetch true) = true) := by decide +kernel

/-- A taper that has halted, a pending fault of a wick, a wait that an event ends and one that stands, a waiting vector access. -/
theorem witness_StepOtherwise :
    let h := taperWith fun T => { T with run := .halted }
    let p := taper0.modWick 0 0 3 fun W => { W with state := .faulted false, code := 4, reported := false }
    let w := taper0.setWait taper0.cur (.fence 1 1 2)
    let q := taper0.setWait taper0.cur (.wfe 0)
    let v := wick0.setWait wick0.cur .vmem
    runnable (beforeWith h taper0.cur) taper0.cur = false ∧
    (runnable (beforeWith p taper0.cur) taper0.cur = true ∧ (pendingFault ((beforeWith p taper0.cur).core 0 0)).isSome = true ∧ ((beforeWith p taper0.cur).core 0 0).taper.act = false) ∧
    (((beforeWith w taper0.cur).thread taper0.cur).wait = some (.fence 1 1 2) ∧ (Wait.fence 1 1 2).retries = false ∧
      (waitEvent (beforeWith w taper0.cur) taper0.cur (.fence 1 1 2)).isSome = true) ∧
    (((beforeWith q taper0.cur).thread taper0.cur).wait = some (.wfe 0) ∧ (Wait.wfe 0).retries = false ∧
      (waitEvent (beforeWith q taper0.cur) taper0.cur (.wfe 0)).isSome = false) ∧
    (((beforeWith v wick0.cur).thread wick0.cur).wait = some .vmem ∧ runnable (beforeWith v wick0.cur) wick0.cur = true) := by decide

/-- An event of no gang, one of a gang that runs and of one that is saved, an event of threads only, a turn that outlasts its period; each event that
time makes due. -/
theorem witness_StepTakesEvents :
    let s := { taper0 with agenda := [{ ac := 0, perf := [], move := .event .periodStart }] }
    let ev (i : Instr) (g : State) : State := { g with agenda := [{ ac := 0, perf := [], move := .event i }] }
    let late : State := { taper0 with ac := 262144 }
    let owing := vfState fun v => { v with owing := 5, bal := 0 }
    let dog : State := { taper0 with ac := 2 ^ 24, periodAt := 2 ^ 24 }
    let unit : State := { requesting [aRequest 0 0x10000] with
      ac := 2 ^ 24, periodAt := 2 ^ 24, gangs := (taper0.modGang 0 fun G => { G with progressAt := 2 ^ 24 }).gangs }
    let over_ : State := { vfState (fun v => { v with state := 2, pausedAt := some 0, policy := { v.policy with pausemaxMs := 1 } }) with time := msTime }
    let wfe : State := { taper0.setWait taper0.cur (.wfe 0) with ac := 65536 }
    let word : State := { taper0.setWait taper0.cur (.word 0x20000 0x20000 4 0 0 5 1 0) with ac := 1024 }
    let due (s : State) := dueEvent (noteCandidates s)
    (encode .periodStart = none ∧ threadOnly .periodStart = false ∧ mayHappen (beforeMove s) .periodStart = true) ∧
    (encode (.fenceComplete taper0.cur) = none ∧ mayHappen (beforeMove (ev (.fenceComplete taper0.cur) taper0)) (.fenceComplete taper0.cur) = true ∧
      mayHappen (beforeMove (ev (.fenceComplete taper0.cur) (lifeState .saved false))) (.fenceComplete taper0.cur) = false) ∧
    encode (.addi 0 0 0) ≠ none ∧ (nextTurn s).move = .event .periodStart ∧ due s = none ∧
    due late = some .period ∧ due owing = some (.balance 1) ∧ due dog = some (.watchdog 0) ∧ due unit = some (.unit 0) ∧ due over_ = some (.pauseOver 1) ∧
    due wfe = some (.wait taper0.cur) ∧ due word = some (.wait taper0.cur) ∧ due { taper0 with time := actPeriod } = some .rows ∧
    due { taper0 with ac := 4000, time := 2 ^ 20, actAt := 2 ^ 20, held := [(5, 0)] } = some .held ∧
    due { taper0 with ac := 2 ^ 20, periodAt := 2 ^ 20, linkReqs := [{ part := 0, dev := 1, since := 0 }] } = some (.reply 0) ∧
    (let long : State := { taper0 with agenda := [{ ac := 300000, perf := [], move := .event .periodStart }] }
     due long = none ∧ roomAc (noteCandidates long) ≤ (nextTurn long).ac) := by decide

/-- A state whose memory and tables are in order steps. -/
theorem witness_StepKeepsMemory : Memory.wf taper0.mem = true ∧ next? (step taper0) (fun _ => true) = true := by decide
theorem witness_StepKeepsTables : tablesInOrder taper0 := by
  unfold tablesInOrder rises; decide

end Sys2Proof.Tests
end

section
/-! The order of F32 and the forms that follow it: FMIN, FMAX and FCMP (04 R103, R105). The model compares exact values, the statement
compares the bits of F32 as signed magnitudes; what ties the two is that the magnitude's bits count strictly upwards with the value. -/

namespace Sys2Proof.Claims

open Sys2Proof.Machine

/-! The bits of an F32 magnitude and its value. -/

/-- The value that the magnitude bits `k` of an F32 stand for, in units of 2^-149, the smallest subnormal; the bits of an infinity get
the value that their fields would give a finite one (03 R61). -/
def units32 (k : Nat) : Nat := if k < 2 ^ 23 then k else (2 ^ 23 + k % 2 ^ 23) * 2 ^ (k / 2 ^ 23 - 1)

theorem units32_zero : units32 0 = 0 := rfl

theorem units32_of_lt {k : Nat} (h : k < 2 ^ 23) : units32 k = k := if_pos h

theorem units32_of_le {k : Nat} (h : 2 ^ 23 ≤ k) : units32 k = (2 ^ 23 + k % 2 ^ 23) * 2 ^ (k / 2 ^ 23 - 1) := if_neg (by omega)

/-- The next magnitude up is a larger value, within a binade and across its end. -/
theorem units32_lt_succ (k : Nat) : units32 k < units32 (k + 1) := by
  by_cases sub : k + 1 < 2 ^ 23
  · rw [units32_of_lt sub, units32_of_lt (by omega)]
    omega
  by_cases last : k + 1 = 2 ^ 23
  · rw [last, units32_of_lt (by omega), units32_of_le (Nat.le_refl _)]
    omega
  rw [units32_of_le (k := k) (by omega), units32_of_le (k := k + 1) (by omega)]
  by_cases wrap : k % 2 ^ 23 + 1 = 2 ^ 23
  · have frac : (k + 1) % 2 ^ 23 = 0 := by omega
    have expo : (k + 1) / 2 ^ 23 - 1 = (k / 2 ^ 23 - 1) + 1 := by omega
    have pos : 0 < 2 ^ (k / 2 ^ 23 - 1) := Nat.two_pow_pos _
    rw [frac, expo, Nat.pow_succ 2 (k / 2 ^ 23 - 1), Nat.mul_left_comm, Nat.mul_comm]
    exact Nat.mul_lt_mul_of_pos_left (by omega) pos
  · have frac : (k + 1) % 2 ^ 23 = k % 2 ^ 23 + 1 := by omega
    have expo : (k + 1) / 2 ^ 23 = k / 2 ^ 23 := by omega
    rw [frac, expo]
    exact Nat.mul_lt_mul_of_pos_right (by omega) (Nat.two_pow_pos _)

theorem units32_lt {a b : Nat} (h : a < b) : units32 a < units32 b := by
  induction h with
  | refl => exact units32_lt_succ a
  | step _ ih => exact Nat.lt_trans ih (units32_lt_succ _)

theorem units32_lt_iff {a b : Nat} : units32 a < units32 b ↔ a < b := by
  refine ⟨fun h => Nat.lt_of_not_le fun ge => ?_, units32_lt⟩
  rcases Nat.lt_or_eq_of_le ge with gt | eq
  · exact Nat.lt_asymm h (units32_lt gt)
  · exact Nat.lt_irrefl _ (eq ▸ h)

theorem units32_eq_zero {k : Nat} : units32 k = 0 ↔ k = 0 := by
  have pos := units32_lt_iff (a := 0) (b := k)
  rw [units32_zero] at pos
  omega

/-! What the bits of an F32 decode to (03 R61, R62), a case for each kind of magnitude. -/

/-- The sign bit of F32 bits. -/
abbrev neg32 (v : Nat) : Bool := v / 2 ^ 31 % 2 == 1

theorem nan32_eq_true {v : Nat} : nan32 v = true ↔ 0x7F800000 < v % 2 ^ 31 := decide_eq_true_iff

theorem nan32_eq_false {v : Nat} : nan32 v = false ↔ v % 2 ^ 31 ≤ 0x7F800000 := by simp [nan32]

/-- R61 and R62 at the widths of F32. -/
theorem decodeFloat_fmtF32 (v : Nat) :
    decodeFloat fmtF32 v =
      if v / 2 ^ 23 % 2 ^ 8 = 2 ^ 8 - 1 then (if v % 2 ^ 23 = 0 then .inf (neg32 v) else .nan (v % 2 ^ 23 < 2 ^ 22))
      else if v / 2 ^ 23 % 2 ^ 8 = 0 then .fin (neg32 v) (v % 2 ^ 23) (-149)
      else .fin (neg32 v) (2 ^ 23 + v % 2 ^ 23) ((v / 2 ^ 23 % 2 ^ 8 : Nat) - 150) := by
  have bias (e : Int) : e - (127 : Nat) - (23 : Nat) = e - 150 := by omega
  simp only [decodeFloat, fmtF32, Bool.true_and, Bool.false_and, beq_iff_eq, Bool.false_eq_true, if_false, bias]
  rfl

theorem decodeFloat_of_nan32 {v : Nat} (h : nan32 v = true) : decodeFloat fmtF32 v = .nan (v / 2 ^ 22 % 2 == 0) := by
  rw [nan32_eq_true] at h
  have quiet : v % 2 ^ 23 < 2 ^ 22 ↔ v / 2 ^ 22 % 2 = 0 := by omega
  rw [decodeFloat_fmtF32, if_pos (by omega), if_neg (by omega), decide_eq_decide.2 quiet]
  rfl

theorem decodeFloat_of_infMag {v : Nat} (h : v % 2 ^ 31 = 0x7F800000) : decodeFloat fmtF32 v = .inf (neg32 v) := by
  rw [decodeFloat_fmtF32, if_pos (by omega), if_pos (by omega)]

theorem decodeFloat_of_subnormal {v : Nat} (h : v % 2 ^ 31 < 2 ^ 23) : decodeFloat fmtF32 v = .fin (neg32 v) (v % 2 ^ 31) (-149) := by
  have frac : v % 2 ^ 23 = v % 2 ^ 31 := by omega
  rw [decodeFloat_fmtF32, if_neg (by omega), if_pos (by omega), frac]

theorem decodeFloat_of_normal {v : Nat} (lo : 2 ^ 23 ≤ v % 2 ^ 31) (hi : v % 2 ^ 31 < 0x7F800000) :
    decodeFloat fmtF32 v = .fin (neg32 v) (2 ^ 23 + v % 2 ^ 31 % 2 ^ 23) ((v % 2 ^ 31 / 2 ^ 23 : Nat) - 150) := by
  have expo : v / 2 ^ 23 % 2 ^ 8 = v % 2 ^ 31 / 2 ^ 23 := by omega
  have frac : v % 2 ^ 23 = v % 2 ^ 31 % 2 ^ 23 := by omega
  rw [decodeFloat_fmtF32, if_neg (by omega), if_neg (by omega), expo, frac]

/-- What F32 bits that are no NaN decode to: an infinity, or a value in the units of `units32`. -/
theorem decodeFloat_of_not_nan32 {v : Nat} (h : nan32 v = false) :
    (v % 2 ^ 31 = 0x7F800000 ∧ decodeFloat fmtF32 v = .inf (neg32 v)) ∨
    ∃ m e, v % 2 ^ 31 < 0x7F800000 ∧ decodeFloat fmtF32 v = .fin (neg32 v) m e ∧ -149 ≤ e ∧
      m * 2 ^ (e - -149).toNat = units32 (v % 2 ^ 31) := by
  rw [nan32_eq_false] at h
  rcases Nat.lt_or_eq_of_le h with fin | inf
  · right
    rcases Nat.lt_or_ge (v % 2 ^ 31) (2 ^ 23) with sub | norm
    · exact ⟨_, _, fin, decodeFloat_of_subnormal sub, Int.le_refl _, by rw [units32_of_lt sub]; exact Nat.mul_one _⟩
    · have expo : ((v % 2 ^ 31 / 2 ^ 23 : Nat) - 150 - -149 : Int).toNat = v % 2 ^ 31 / 2 ^ 23 - 1 := by omega
      exact ⟨_, _, fin, decodeFloat_of_normal norm fin, by omega, by rw [units32_of_le norm, expo]⟩
  · exact .inl ⟨inf, decodeFloat_of_infMag inf⟩

/-! The tests of the model on a decoded value, as tests of its bits. -/

theorem isNan_decodeFloat (v : Nat) : (decodeFloat fmtF32 v).isNan = nan32 v := by
  cases h : nan32 v with
  | true => rw [decodeFloat_of_nan32 h]; rfl
  | false => obtain ⟨-, hv⟩ | ⟨m, e, -, hv, -⟩ := decodeFloat_of_not_nan32 h <;> rw [hv] <;> rfl

theorem sigFlag_decodeFloat (v : Nat) : sigFlag (decodeFloat fmtF32 v) = nvIf (snan32 v) := by
  cases h : nan32 v with
  | true =>
    rw [decodeFloat_of_nan32 h, snan32, h, Bool.true_and]
    cases v / 2 ^ 22 % 2 == 0 <;> rfl
  | false =>
    rw [snan32, h]
    obtain ⟨-, hv⟩ | ⟨m, e, -, hv, -⟩ := decodeFloat_of_not_nan32 h <;> rw [hv] <;> rfl

theorem neg_decodeFloat {v : Nat} (h : nan32 v = false) : (decodeFloat fmtF32 v).neg = neg32 v := by
  obtain ⟨-, hv⟩ | ⟨m, e, -, hv, -⟩ := decodeFloat_of_not_nan32 h <;> rw [hv] <;> rfl

theorem isZero_decodeFloat {v : Nat} (h : nan32 v = false) : (decodeFloat fmtF32 v).isZero = (v % 2 ^ 31 == 0) := by
  obtain ⟨inf, hv⟩ | ⟨m, e, -, hv, -, hm⟩ := decodeFloat_of_not_nan32 h
  · rw [hv, inf]; rfl
  · have zero : m = 0 ↔ v % 2 ^ 31 = 0 := by
      have pos := Nat.two_pow_pos (e - -149).toNat
      rw [← units32_eq_zero (k := v % 2 ^ 31), ← hm, Nat.mul_eq_zero]
      omega
    rw [hv]
    exact decide_eq_decide.2 zero

/-- A magnitude with its sign. -/
def signed (neg : Bool) (k : Nat) : Int := if neg then -k else k

theorem key32_eq_signed (v : Nat) : key32 v = signed (neg32 v) (v % 2 ^ 31) := by simp [key32, signed, neg32]

theorem scaled_eq_signed (neg : Bool) (m : Nat) (e lo : Int) : scaled neg m e lo = signed neg (m * 2 ^ (e - lo).toNat) := by
  simp [scaled, signed]

/-- Against a larger magnitude, the order is the larger one's sign. -/
theorem signed_lt_of_lt (n k : Bool) {a b : Nat} (h : a < b) : decide (signed n a < signed k b) = !k := by
  cases n <;> cases k <;> simp [signed] <;> omega

theorem signed_lt_of_gt (n k : Bool) {a b : Nat} (h : b < a) : decide (signed n a < signed k b) = n := by
  cases n <;> cases k <;> simp [signed] <;> omega

/-- Signed values are ordered as their signed bits are. -/
theorem signed_units32_lt (n k : Bool) (a b : Nat) : signed n (units32 a) < signed k (units32 b) ↔ signed n a < signed k b := by
  have ab := units32_lt_iff (a := a) (b := b)
  have ba := units32_lt_iff (a := b) (b := a)
  have za := units32_eq_zero (k := a)
  have zb := units32_eq_zero (k := b)
  cases n <;> cases k <;> simp only [signed, Bool.false_eq_true, if_true, if_false] <;> omega

theorem signed_mul (neg : Bool) (k c : Nat) : signed neg (k * c) = signed neg k * c := by
  cases neg with
  | false => exact Int.natCast_mul k c
  | true => exact (congrArg Neg.neg (Int.natCast_mul k c)).trans (Int.neg_mul _ _).symm

/-- A finer unit multiplies a scaled value. -/
theorem signed_rebase (neg : Bool) (m : Nat) {e lo base : Int} (hb : base ≤ lo) (he : lo ≤ e) :
    signed neg (m * 2 ^ (e - base).toNat) = scaled neg m e lo * (2 ^ (lo - base).toNat : Nat) := by
  have expo : (e - base).toNat = (e - lo).toNat + (lo - base).toNat := by omega
  rw [expo, Nat.pow_add, ← Nat.mul_assoc, signed_mul, scaled_eq_signed]

/-- The order of two finite values is that of their multiples of any unit in which both are whole. -/
theorem ltVal_fin (n k : Bool) (m p : Nat) {e q base : Int} (he : base ≤ e) (hq : base ≤ q) :
    ltVal (.fin n m e) (.fin k p q) = decide (signed n (m * 2 ^ (e - base).toNat) < signed k (p * 2 ^ (q - base).toNat)) := by
  have lo : base ≤ min e q := by omega
  have unit : (0 : Int) < (2 ^ (min e q - base).toNat : Nat) := Int.natCast_pos.2 (Nat.two_pow_pos _)
  rw [signed_rebase n m lo (by omega), signed_rebase k p lo (by omega)]
  exact decide_eq_decide.2 (Int.mul_lt_mul_right unit).symm

/-- The model's order of two F32 values that are no NaN is the order of their bits as signed magnitudes (03 R61). -/
theorem ltVal_decodeFloat {x y : Nat} (hx : nan32 x = false) (hy : nan32 y = false) :
    ltVal (decodeFloat fmtF32 x) (decodeFloat fmtF32 y) = decide (key32 x < key32 y) := by
  rw [key32_eq_signed, key32_eq_signed]
  obtain ⟨mx, hx⟩ | ⟨m, e, mx, hx, he, hm⟩ := decodeFloat_of_not_nan32 hx <;>
    obtain ⟨my, hy⟩ | ⟨k, q, my, hy, hq, hk⟩ := decodeFloat_of_not_nan32 hy <;> rw [hx, hy]
  · rw [mx, my]
    cases neg32 x <;> cases neg32 y <;> rfl
  · exact (signed_lt_of_gt _ _ (mx ▸ my)).symm
  · exact (signed_lt_of_lt _ _ (my ▸ mx)).symm
  · rw [ltVal_fin _ _ _ _ he hq, hm, hk]
    exact decide_eq_decide.2 (signed_units32_lt ..)

/-! FMIN and FMAX (04 R103). -/

/-- The place of F32 bits in the order of FMIN and FMAX: that of `key32`, with the two zeros apart. -/
def place32 (v : Nat) : Int := if neg32 v then -(v % 2 ^ 31 : Nat) - 1 else (v % 2 ^ 31 : Nat)

theorem below32_eq_place (x y : Nat) : below32 x y = decide (place32 x < place32 y) := by
  rw [Bool.eq_iff_iff]
  simp only [below32, Bool.or_eq_true, Bool.and_eq_true, decide_eq_true_eq, beq_iff_eq]
  simp only [key32, place32, neg32, beq_iff_eq]
  omega

/-- Different F32 bits have different places. -/
theorem eq_of_place32_eq {x y : Nat} (hx : x < 2 ^ 32) (hy : y < 2 ^ 32) (h : place32 x = place32 y) : x = y := by
  simp only [place32, neg32, beq_iff_eq] at h
  omega

/-- The lesser of two F32 values may be named from either side. -/
theorem lesser_eq {x y : Nat} (hx : x < 2 ^ 32) (hy : y < 2 ^ 32) :
    (if below32 x y then x else y) = if below32 y x then y else x := by
  simp only [below32_eq_place, decide_eq_true_eq]
  rcases Int.lt_trichotomy (place32 x) (place32 y) with lt | eq | gt
  · rw [if_pos lt, if_neg (by omega)]
  · rw [if_neg (by omega), if_neg (by omega), eq_of_place32_eq hx hy eq]
  · rw [if_neg (by omega), if_pos gt]

theorem key32_beq_zero {v : Nat} : (key32 v == 0) = (v % 2 ^ 31 == 0) := by
  rw [Bool.eq_iff_iff, beq_iff_eq, beq_iff_eq, key32]
  omega

/-- What the model's FMIN and FMAX test is the statement's order of the bits. -/
theorem below_decodeFloat {x y : Nat} (hx : nan32 x = false) (hy : nan32 y = false) :
    (ltVal (decodeFloat fmtF32 x) (decodeFloat fmtF32 y) ||
      ((decodeFloat fmtF32 x).isZero && (decodeFloat fmtF32 y).isZero && (decodeFloat fmtF32 x).neg && !(decodeFloat fmtF32 y).neg)) =
    below32 x y := by
  have pos : (!neg32 y) = (y / 2 ^ 31 % 2 == 0) := by
    rw [Bool.eq_iff_iff]; simp [neg32]
  rw [ltVal_decodeFloat hx hy, isZero_decodeFloat hx, isZero_decodeFloat hy, neg_decodeFloat hx, neg_decodeFloat hy, pos,
    ← key32_beq_zero, ← key32_beq_zero, below32]

theorem nvIf_or (a b : Bool) : nvIf a ||| nvIf b = nvIf (a || b) := by cases a <;> cases b <;> rfl

/-- FMIN and FMAX give the bits and the flag of R103. -/
theorem minMaxBits_fmtF32 (wantMax : Bool) {x y : Nat} (hx : x < 2 ^ 32) (hy : y < 2 ^ 32) :
    minMaxBits fmtF32 wantMax x y = (minMax32 wantMax x y, nvIf (snan32 x || snan32 y)) := by
  have quiet : fmtF32.nanBits = 0x7FC00000 := rfl
  simp only [minMaxBits, minMax32, isNan_decodeFloat, sigFlag_decodeFloat, nvIf_or, quiet]
  cases nx : nan32 x <;> cases ny : nan32 y
  case false.false =>
    rw [below_decodeFloat nx ny]
    cases wantMax with
    | false => simp [lesser_eq hx hy]
    | true => cases below32 x y <;> simp
  all_goals rfl

/-! FCMP (04 R105). -/

theorem eqVal_decodeFloat (x y : Nat) :
    eqVal (decodeFloat fmtF32 x) (decodeFloat fmtF32 y) = (!(nan32 x || nan32 y) && key32 x == key32 y) := by
  rw [eqVal, isNan_decodeFloat, isNan_decodeFloat]
  cases nx : nan32 x <;> cases ny : nan32 y
  case false.false =>
    rw [ltVal_decodeFloat nx ny, ltVal_decodeFloat ny nx, Bool.eq_iff_iff]
    simp only [Bool.not_false, Bool.or_false, Bool.true_and, Bool.and_eq_true, Bool.not_eq_true', decide_eq_false_iff_not, beq_iff_eq]
    omega
  all_goals rfl

/-- Of values that are no NaN, the model's order is that of their bits; a NaN makes both sides false. -/
theorem not_nan_and_ltVal (x y : Nat) :
    (!(nan32 x || nan32 y) && ltVal (decodeFloat fmtF32 x) (decodeFloat fmtF32 y)) = (!(nan32 x || nan32 y) && decide (key32 x < key32 y)) := by
  cases nx : nan32 x <;> cases ny : nan32 y
  case false.false => rw [ltVal_decodeFloat nx ny]
  all_goals rfl

theorem not_nan_and_not_ltVal (x y : Nat) :
    (!(nan32 x || nan32 y) && !ltVal (decodeFloat fmtF32 y) (decodeFloat fmtF32 x)) = (!(nan32 x || nan32 y) && decide (key32 x ≤ key32 y)) := by
  cases nx : nan32 x <;> cases ny : nan32 y
  case false.false => rw [ltVal_decodeFloat ny nx, ← decide_not, decide_eq_decide.2 Int.not_lt]
  all_goals rfl

/-- FCMP gives the truth and the flag of R105 under each of its codes. -/
theorem compareBits_fmtF32 (cond x y : Nat) : compareBits fmtF32 cond x y = ((cmp32 cond x y).1, nvIf (cmp32 cond x y).2) := by
  simp only [compareBits, isNan_decodeFloat, sigFlag_decodeFloat, nvIf_or, eqVal_decodeFloat, not_nan_and_ltVal, not_nan_and_not_ltVal]
  match cond with
  | 0 | 1 | 2 | _ + 3 => rfl

/-! The instructions, and the words that are none. -/

theorem f32Of_lt (s : State) (t : Tid) (r : Reg) : f32Of s t r < 2 ^ 32 := Nat.mod_lt _ (by decide)

theorem exec_fmin (s : State) (d x y : Reg) :
    exec (.fmin d x y) s =
      .next (wrote (raiseFlags s s.cur (nvIf (snan32 (f32Of s s.cur x) || snan32 (f32Of s s.cur y)))) d
        (BitVec.ofNat 64 (minMax32 false (f32Of s s.cur x) (f32Of s s.cur y)))) := by
  have run : exec (.fmin d x y) s = execFmin d x y s := rfl
  rw [run, execFmin, minMaxBits_fmtF32 _ (f32Of_lt ..) (f32Of_lt ..)]
  rfl

theorem exec_fmax (s : State) (d x y : Reg) :
    exec (.fmax d x y) s =
      .next (wrote (raiseFlags s s.cur (nvIf (snan32 (f32Of s s.cur x) || snan32 (f32Of s s.cur y)))) d
        (BitVec.ofNat 64 (minMax32 true (f32Of s s.cur x) (f32Of s s.cur y)))) := by
  have run : exec (.fmax d x y) s = execFmax d x y s := rfl
  rw [run, execFmax, minMaxBits_fmtF32 _ (f32Of_lt ..) (f32Of_lt ..)]
  rfl

theorem exec_fcmp (s : State) (d x y : Reg) (c : BitVec 3) :
    exec (.fcmp d x y c) s =
      .next (wrote (raiseFlags s s.cur (nvIf (cmp32 c.toNat (f32Of s s.cur x) (f32Of s s.cur y)).2)) d
        (if (cmp32 c.toNat (f32Of s s.cur x) (f32Of s s.cur y)).1 then 1 else 0)) := by
  have run : exec (.fcmp d x y c) s = execFcmp d x y c s := rfl
  rw [run, execFcmp, compareBits_fmtF32]
  rfl

theorem decode_sfp {w : IWord} (h : wordMajor w = 0x1D) : decode w = decodeSfp (wordRd w) (wordRs1 w) (wordRs2 w) (wordFunct w) := by
  rw [decode, h]; rfl

theorem wordFunct_extract (w : IWord) {lo n : Nat} (h : lo + n ≤ 11) : (wordFunct w).extractLsb' lo n = w.extractLsb' lo n := by
  ext i hi
  simp only [wordFunct, BitVec.getElem_extractLsb', BitVec.getLsbD_extractLsb', Nat.zero_add]
  rw [decide_eq_true (by omega : lo + i < 11), Bool.true_and]

theorem decodeSfp_fcmp_illegal (d a b : Reg) {f : BitVec 11} (op : f.extractLsb' 0 4 = 0xA) (code : 4 ≤ (f.extractLsb' 4 3).toNat) :
    decodeSfp d a b f = .error .illegal := by
  have bad : decide ((f.extractLsb' 4 3).toNat < 4) ≠ true := by simpa using code
  rw [decodeSfp, op]
  exact if_neg bad

theorem decodeSfp_minMax_reserved (d a b : Reg) {f : BitVec 11} (op : f.extractLsb' 0 4 = 5 ∨ f.extractLsb' 0 4 = 6)
    (field : f.extractLsb' 4 3 ≠ 0) : decodeSfp d a b f = .error .reservedField := by
  have bad : (f.extractLsb' 7 4 == 0 && f.extractLsb' 4 3 == 0) ≠ true := by
    rw [beq_eq_false_iff_ne.2 field, Bool.and_false]
    decide
  rcases op with op | op <;> rw [decodeSfp, op] <;> exact if_neg bad

/-- Settles O16: a magnitude's bits count strictly upwards with its value, so the model's exact comparisons are those of the bits. -/
theorem floatOrderAndCompare : Obligations.FloatOrderAndCompare := by
  unfold Obligations.FloatOrderAndCompare
  refine ⟨fun s d x y c => ⟨exec_fmin s d x y, exec_fmax s d x y, exec_fcmp s d x y c⟩, fun w major => ⟨fun op code => ?_, fun op field => ?_⟩⟩
  · rw [← wordFunct_extract w (by decide)] at op code
    rw [decode_sfp major, decodeSfp_fcmp_illegal _ _ _ op code]
  · rw [← wordFunct_extract w (by decide)] at op field
    rw [decode_sfp major, decodeSfp_minMax_reserved _ _ _ op field]

end Sys2Proof.Claims
end

section
/-! TRAPRET (18 R387, R390): which instructions the taper alone executes, what a taper's transfer of control leaves as it was, what a
disposition makes of a faulted wick, and the statement from them. -/

namespace Sys2Proof.Claims

open Sys2Proof.Machine

/-! The forms of the taper (01 R16). -/

theorem forTaper_of_taper {s : State} (i : Instr) (k : Host.Outcome State Fault Refusal) (taper : s.cur.who = .taper) :
    forTaper i s k = k := by simp [forTaper, isTaper, taper]

theorem forTaper_of_wick {s : State} (i : Instr) (k : Host.Outcome State Fault Refusal) (wick : s.cur.who ≠ .taper) :
    forTaper i s k = .next (trap s s.cur .illegal (wordOf i)) := by simp [forTaper, isTaper, wick]

/-! What changes only one thread. -/

theorem OnlyThread.trans {u : Tid} {s t r : State} (st : OnlyThread u s t) (tr : OnlyThread u t r) : OnlyThread u s r := by
  obtain ⟨st_state, st_gangs, st_gang, st_cores, st_core, st_taper, st_wicks⟩ := st
  obtain ⟨tr_state, tr_gangs, tr_gang, tr_cores, tr_core, tr_taper, tr_wicks⟩ := tr
  refine ⟨?state, fun g n => (tr_gangs g n).trans (st_gangs g n), ?gang, fun c n => (tr_cores c n).trans (st_cores c n), ?core,
    fun n => (tr_taper n).trans (st_taper n), fun w n => (tr_wicks w n).trans (st_wicks w n)⟩
  case state => rw [tr_state, st_state]
  case gang => rw [tr_gang, st_gang]
  case core => rw [tr_core, st_core]

theorem onlyThread_modTaper {u : Tid} (s : State) (f : Taper → Taper) (taper : u.who = .taper) :
    OnlyThread u s (s.modTaper u.gang u.core f) := by
  refine ⟨rfl, fun g n => gangs_modGang_ne s _ n, ?_, fun c n => ?_, ?_, fun wick => absurd taper wick, fun w _ => ?_⟩
  · simp [State.modTaper, State.modCore]
  · simp [State.modTaper, State.modCore, tabGet?_tabPut_ne _ _ n]
  · simp
  · simp [State.wick]

theorem onlyThread_progress (u : Tid) (s : State) : OnlyThread u s (s.progress u.gang) := by
  refine ⟨rfl, fun g n => gangs_modGang_ne s _ n, ?_, fun c _ => ?_, ?_, fun _ => ?_, fun w _ => wick_progress ..⟩
  · simp [State.progress]
  · simp [State.progress]
  · rw [core_progress]
  · rw [core_progress]

/-! A taper's transfer of control, after a change of its record. -/

theorem jump_of_taper {u : Tid} (s : State) (a : Word) (taper : u.who = .taper) :
    s.jump u a = (s.modTaper u.gang u.core fun T => { T with th := { T.th with pc := a, wait := none } }).progress u.gang := by
  simp [State.jump, State.modThread, taper]

theorem core_modTaper_jump {u : Tid} (s : State) (f : Taper → Taper) (a : Word) (taper : u.who = .taper) :
    ((s.modTaper u.gang u.core f).jump u a).core u.gang u.core =
      { s.core u.gang u.core with
        taper := { f (s.core u.gang u.core).taper with th := { (f (s.core u.gang u.core).taper).th with pc := a, wait := none } } } := by
  simp [jump_of_taper _ a taper]

theorem onlyThread_modTaper_jump {u : Tid} (s : State) (f : Taper → Taper) (a : Word) (taper : u.who = .taper) :
    OnlyThread u s ((s.modTaper u.gang u.core f).jump u a) := by
  rw [jump_of_taper _ a taper]
  exact (onlyThread_modTaper s f taper).trans ((onlyThread_modTaper _ _ taper).trans (onlyThread_progress u _))

/-! The dispositions of a faulted wick (18 R387). -/

section
variable {W : Wick} {back : Bool} (faulted : W.state = .faulted back)
include faulted

theorem dispose_retry : W.dispose 0 = { W with state := if back then .freeRunning else .blockDriven } := by
  simp [Wick.dispose, faulted, Wick.runState, Wick.isFree]

theorem dispose_skip : W.dispose 1 = ({ W with vstart := 0 } : Wick).completed := by simp [Wick.dispose, faulted]

theorem dispose_discard : W.dispose 2 = { W with queue := [], vstart := 0, state := .idle, vmem := none } := by
  simp [Wick.dispose, faulted]

end

/-! TRAPRET, a case for each branch of R390. -/

/-- The state after TRAPRET ends the handler of a trap of the taper itself. -/
def trapReturned (s : State) : State :=
  (s.modTaper s.cur.gang s.cur.core fun T => { T with act := false }).jump s.cur s.curCore.taper.tepc

/-- The state with the wick of the event that the handler serves disposed of. -/
def wickDisposed (s : State) : State :=
  s.modWick s.cur.gang s.cur.core s.curCore.taper.evWick (·.dispose s.curCore.taper.disp)

/-- The state after TRAPRET ends the handler of a wick event. -/
def eventReturned (s : State) : State :=
  ((wickDisposed s).modTaper s.cur.gang s.cur.core fun T => { T with ev := false, act := false }).jump s.cur s.curCore.taper.hidden

theorem wordOf_trapret : wordOf .trapret = 0x80000002 := rfl

theorem exec_trapret_of_wick {s : State} (wick : s.cur.who ≠ .taper) :
    exec .trapret s = .next (trap s s.cur .illegal 0x80000002) := forTaper_of_wick _ _ wick

section
variable {s : State} (taper : s.cur.who = .taper)
include taper

theorem exec_trapret_of_not_act (act : s.curCore.taper.act = false) :
    exec .trapret s = .next (trap s s.cur .illegal 0x80000002) := by
  refine (forTaper_of_taper _ _ taper).trans ?_
  simp [act, wordOf_trapret]

theorem exec_trapret_of_misaligned (act : s.curCore.taper.act = true) (ev : s.curCore.taper.ev = false)
    (misaligned : s.curCore.taper.tepc.setWidth 2 ≠ 0#2) :
    exec .trapret s = .next (trap s s.cur .misaligned s.curCore.taper.tepc) := by
  refine (forTaper_of_taper _ _ taper).trans ?_
  simp [act, ev, misaligned]

theorem exec_trapret_of_trap (act : s.curCore.taper.act = true) (ev : s.curCore.taper.ev = false)
    (aligned : s.curCore.taper.tepc.setWidth 2 = 0#2) : exec .trapret s = .next (trapReturned s) := by
  refine (forTaper_of_taper _ _ taper).trans ?_
  simp [act, ev, aligned, trapReturned]

theorem exec_trapret_of_reserved (act : s.curCore.taper.act = true) (ev : s.curCore.taper.ev = true)
    (reserved : s.curCore.taper.disp = 3) : exec .trapret s = .next (trap s s.cur .illegal 0x80000002) := by
  refine (forTaper_of_taper _ _ taper).trans ?_
  simp [act, ev, reserved, wordOf_trapret]

theorem exec_trapret_of_event (act : s.curCore.taper.act = true) (ev : s.curCore.taper.ev = true)
    (disp : s.curCore.taper.disp ≠ 3) : exec .trapret s = .next (eventReturned s) := by
  refine (forTaper_of_taper _ _ taper).trans ?_
  have listed : (s.curCore.taper.disp == 3) = false := beq_eq_false_iff_ne.2 disp
  simp only [act, ev, listed, eventReturned, wickDisposed]
  rfl

/-! The two states that TRAPRET returns to. -/

theorem taper_trapReturned :
    (trapReturned s).curCore.taper =
      { s.curCore.taper with act := false, th := { s.curCore.taper.th with pc := s.curCore.taper.tepc, wait := none } } := by
  have cur : (trapReturned s).cur = s.cur := by simp [trapReturned]
  rw [State.curCore, cur, trapReturned, core_modTaper_jump _ _ _ taper]
  rfl

theorem core_eventReturned :
    (eventReturned s).curCore =
      { s.curCore with
        wicks := s.curCore.wicks.set s.curCore.taper.evWick (s.curCore.wicks[s.curCore.taper.evWick].dispose s.curCore.taper.disp)
        taper :=
          { s.curCore.taper with
            ev := false, act := false, th := { s.curCore.taper.th with pc := s.curCore.taper.hidden, wait := none } } } := by
  have cur : (eventReturned s).cur = s.cur := by simp [eventReturned, wickDisposed]
  rw [State.curCore, cur, eventReturned, core_modTaper_jump _ _ _ taper, wickDisposed, core_modWick_self]
  rfl

theorem curWick_eventReturned :
    (eventReturned s).curWick s.curCore.taper.evWick = (s.curWick s.curCore.taper.evWick).dispose s.curCore.taper.disp := by
  rw [State.curWick, State.wick, ← State.curCore, core_eventReturned taper]
  simp [State.curWick, State.wick, State.curCore]

end

theorem mem_eventReturned (s : State) : (eventReturned s).mem = s.mem := by simp [eventReturned, wickDisposed]

theorem setWidth_two_eq_zero (v : Word) : v.setWidth 2 = 0#2 ↔ v.toNat % 4 = 0 := by
  rw [← BitVec.toNat_inj, BitVec.toNat_setWidth]
  rfl

/-- Settles O22: each branch of R390 is one outcome, read off the state that it returns to. -/
theorem trapReturns : Obligations.TrapReturns := by
  unfold Obligations.TrapReturns
  intro s
  refine ⟨?outside, fun taper act ev low => ?misaligned, fun taper act ev low => ?fromTrap, exec_trapret_of_reserved,
    fun taper act ev disp => ?fromEvent⟩
  case outside =>
    by_cases taper : s.cur.who = .taper
    · exact fun why => exec_trapret_of_not_act taper (why.resolve_left (not_not_intro taper))
    · exact fun _ => exec_trapret_of_wick taper
  case misaligned => exact exec_trapret_of_misaligned taper act ev (mt (setWidth_two_eq_zero _).1 low)
  case fromTrap =>
    exact ⟨trapReturned s, exec_trapret_of_trap taper act ev ((setWidth_two_eq_zero _).2 low), taper_trapReturned taper,
      onlyThread_modTaper_jump s _ _ taper⟩
  case fromEvent =>
    have wick := curWick_eventReturned taper
    refine ⟨eventReturned s, exec_trapret_of_event taper act ev disp, by rw [core_eventReturned taper], ?retry, ?skip, ?discard,
      mem_eventReturned s⟩
    case retry => exact fun retry _ faulted => by rw [wick, retry, dispose_retry faulted]
    case skip => exact fun skip _ faulted => by rw [wick, skip, dispose_skip faulted]
    case discard => exact fun discard _ faulted => by rw [wick, discard, dispose_discard faulted]

end Sys2Proof.Claims
end
